-- ==== Sys2Proof/Word.lean ====
section
/-! DEFINITION. The word types of the machine (R9, R91): bytes, 32-bit register words, 64-bit pairs. -/

namespace Sys2Proof

/-- One byte. -/
abbrev Byte := BitVec 8

/-- One register: 32 bits (R125). -/
abbrev Word := BitVec 32

/-- A register pair: 64 bits, low half in the even register (R91). -/
abbrev DWord := BitVec 64

end Sys2Proof
end

