-- ==== Sys2Proof/Syntax.lean ====
section
/-! DEFINITION. The syntax of the Relnum RN9: the six instruction formats of R124 as records, the payloads of the
device, host and fabric events, and `Instr`, one constructor for each row of spec/opcode_table.json. -/

namespace Sys2Proof

/-- An operand specifier (R125): a lane register, a scalar register, a handle or a latch. -/
inductive Opd where
  /-- `v0` to `v255`: codes 0x000 to 0x0FF. -/
  | v (n : BitVec 8)
  /-- `s0` to `s63`: codes 0x100 to 0x13F. -/
  | s (n : BitVec 6)
  /-- `h0` to `h15`: codes 0x140 to 0x14F. -/
  | h (n : BitVec 4)
  /-- `b0` to `b3`: codes 0x150 to 0x153. -/
  | b (n : BitVec 2)
deriving DecidableEq, Repr

/-- A guard (R126) with GEN = 1: bit `bit` of register `reg`, inverted when `neg`. -/
structure Grd where
  reg : Opd
  bit : BitVec 5
  neg : Bool
deriving DecidableEq, Repr

/-- The header of every instruction word (R124): SUB, the guard and NWB. -/
structure Hdr where
  sub : BitVec 8
  guard : Option Grd
  nwb : Bool
deriving DecidableEq, Repr

/-- Operand types (R127). -/
inductive Ty where
  | s32 | u32 | s64 | f32 | f64 | f16x2 | bf16x2
deriving DecidableEq, Repr

/-- Rounding modes (R124): nearest even, toward zero, down, up, stochastic. -/
inductive Rm where
  | rn | rz | rd | ru | sr
deriving DecidableEq, Repr

/-- Format A (R124). -/
structure FmtA where
  hdr : Hdr
  dst : Opd
  a : Opd
  b : Opd
  c : Opd
  ty : Ty
  rm : Rm
  sat : Bool
  opt : BitVec 19
deriving DecidableEq, Repr

/-- Format I (R124). RM, SAT and the condition code sit in SUB (R127). -/
structure FmtI where
  hdr : Hdr
  dst : Opd
  a : Opd
  b : Opd
  ty : Ty
  imm : BitVec 32
deriving DecidableEq, Repr

/-- Format B (R124). -/
structure FmtB where
  hdr : Hdr
  dst : Opd
  a : Opd
  b : Opd
  live : BitVec 6
  jn : BitVec 3
  off : BitVec 27
deriving DecidableEq, Repr

/-- Format M (R124). -/
structure FmtM where
  hdr : Hdr
  dst : Opd
  addr : Opd
  data : Opd
  c : Opd
  size : BitVec 3
  sem : BitVec 4
  hint : BitVec 4
  off : BitVec 16
deriving DecidableEq, Repr

/-- Format X (R124). -/
structure FmtX where
  hdr : Hdr
  dst : Opd
  a : Opd
  b : Opd
  c : Opd
  org : BitVec 1
  fmta : BitVec 4
  fmtb : BitVec 4
  scs : BitVec 2
  xmod : BitVec 16
deriving DecidableEq, Repr

/-- Format S (R124). -/
structure FmtS where
  hdr : Hdr
  dst : Opd
  a : Opd
  b : Opd
  c : Opd
  spr : BitVec 12
  smod : BitVec 15
deriving DecidableEq, Repr

/-- The operation of an atomic, as a request carries it (R178 to R180). -/
inductive AtomOp where
  | add | minS | minU | maxS | maxU | and | or | xor | exch | fadd | fmin | fmax | cas | read
deriving DecidableEq, Repr

/-- What a request from a peer device asks for (R216, R310 to R312). -/
inductive PeerKind where
  /-- A load of `bytes` bytes. -/
  | load (bytes : Nat)
  /-- A store: one byte or none for each byte from the address on (R311). -/
  | store (data : List (Option Byte))
  /-- An atomic: the offset and the operands of each lane, in ascending lane; `returning` is false for `.noret`. -/
  | atomic (op : AtomOp) (bytes : Nat) (xs : List (Nat × DWord × DWord)) (returning : Bool)
  /-- A `TQSTEAL` step for the group `lgid` of the issuing device (R217, R320); in replay, with the tile it must take (R290). -/
  | steal (lgid : Word) (expect : Option DWord)
  /-- A `TQDONE` step for the group `lgid` of the issuing device (R218, R320). -/
  | done (lgid : Word)
deriving DecidableEq, Repr

/-- What heads the flits of a message: the sending device, the plane port, the remap generation, and the link sequence number (R308, R309). -/
structure FlitHead where
  device : Nat
  plane : Nat
  gen : Nat
  seq : Nat
deriving DecidableEq, Repr

/-- A keep-waiting notice as it arrives: the request that it speaks of, and its head (R309, R312). -/
structure KeepNotice where
  req : Nat
  head : FlitHead
deriving DecidableEq, Repr

/-- What `GET_MEASUREMENTS` asks for: an index, and a nonce where the answer is to be signed (R352). -/
structure MeasureAsk where
  index : Nat
  nonce : Option (BitVec 256)
deriving DecidableEq, Repr

/-- A remote request as it arrives at a plane port (R305 to R312). -/
structure PeerReq where
  head : FlitHead
  /-- The issuer's number for the request, which its answer names. -/
  id : Nat
  /-- Fabric context (R305). -/
  ctx : Nat
  /-- RMF of the issuer's leaf: true is FATAL (R312). -/
  rmf : Bool
  /-- Virtual address in the space of the target's context (R310). -/
  va : Nat
  kind : PeerKind
deriving DecidableEq, Repr

/-- How a request that left the package was answered (R310 to R313, R344). -/
inductive Answer where
  | ok | noContext | refused | notMapped | frameUnavailable | remoteFatal | peerLost
deriving DecidableEq, Repr

/-- A response to line `line` of memory operation `op` of core `core` of an owner; `data` is what comes from outside the package,
and is empty for a line of device memory. -/
structure RespRef where
  owner : Nat
  core : Nat
  op : Nat
  line : Nat
  answer : Answer
  data : List Byte
  /-- Of a peer's response. -/
  head : Option FlitHead
deriving DecidableEq, Repr

/-- A solve region named by its owner, its scope and its number (R235, R296): `cluster` is none for team scope,
and then `core` is the team's core. -/
structure SolveRef where
  owner : Nat
  cluster : Option Nat
  core : Nat
  sid : Nat
deriving DecidableEq, Repr

/-- One chunk of a collective from rank `rank` (R315). -/
structure Contribution where
  head : FlitHead
  ctx : Nat
  tag : Nat
  rank : Nat
  block : Nat
  chunk : Nat
  /-- The data is a result on its way to a receiver, not an input on its way to its home. -/
  result : Bool
  /-- A digest of the sender's descriptor agrees with the receiver's (R221). -/
  agrees : Bool
  /-- Of a fabric barrier (R317): which of the sender's collectives under the tag it belongs to; 0 of any other. -/
  serial : Nat
  data : List Byte
deriving DecidableEq, Repr

/-- A failure notice of a collective (R316). -/
structure FailNotice where
  head : FlitHead
  ctx : Nat
  tag : Nat
  code : Nat
  dev : Nat
  serial : Nat
  /-- Ranks whose contribution was missing, and the fabric time of the declaration (R318). -/
  missing : List Nat
  declared : Nat
deriving DecidableEq, Repr

/-- A scorecard stamp: the arrival of `device` at fabric barrier `fb` (R318). -/
structure CardStamp where
  head : FlitHead
  ctx : Nat
  fb : Nat
  device : Nat
  serial : Nat
  time : Nat
deriving DecidableEq, Repr

/-- A CXL.mem access of the host to device memory (R343). -/
structure HostAccess where
  address : Nat
  /-- none for a read; the bytes for a write. -/
  write : Option (List Byte)
  bytes : Nat
deriving DecidableEq, Repr

/-- Coherence traffic on a host line (R74): the line is taken from the slice, and `data` is what host memory holds
from then on, when the host wrote it. -/
structure HostSnoop where
  /-- The PASID under which the line's address is one (R344). -/
  pasid : Nat
  line : Nat
  data : Option (List Byte)
deriving DecidableEq, Repr

/-- An ADMIT request (R345, R347): the 512 bytes of the record, and the figures of bytes 224 to 287, whose layout the
manual does not give, as their fields. -/
structure AdmitRequest where
  bytes : List Byte
  ways : Nat
  tlbShare : Nat
  capacity : List Nat
  refill : List Nat
  replay : List Nat
  counters : List Nat
deriving DecidableEq, Repr

/-- The five record rings (R348). -/
inductive RingName where
  | trade | fault | error | telemetry | debug
deriving DecidableEq, Repr

/-- The instructions of the machine: the 188 operations of its instruction set, then the 75 events by which the
device, the host and the fabric act, in the order of the table. Each docstring gives the row's mnemonic and rule. -/
inductive Instr where
  /-- `NOP` (R132): Uses one issue cycle, or shares one in a pair, and has no other effect. -/
  | nop (f : FmtA)
  /-- `IADD` (R141): Integer add, wrapping or saturating. -/
  | iadd (f : FmtA)
  /-- `IADD_IMM` (R141): Integer add with a 32-bit immediate (format I). -/
  | iaddImm (f : FmtI)
  /-- `ISUB` (R141): Integer subtract. -/
  | isub (f : FmtA)
  /-- `ISUB_IMM` (R141): Integer subtract with an immediate. -/
  | isubImm (f : FmtI)
  /-- `IMUL` (R141): Integer multiply, low half. -/
  | imul (f : FmtA)
  /-- `IMUL_IMM` (R141): Integer multiply with an immediate. -/
  | imulImm (f : FmtI)
  /-- `IMULH` (R141): Integer multiply, high half. -/
  | imulh (f : FmtA)
  /-- `IMULH_IMM` (R141): Integer multiply high with an immediate. -/
  | imulhImm (f : FmtI)
  /-- `IMAD` (R141): Integer multiply-add. -/
  | imad (f : FmtA)
  /-- `IMAD_IMM` (R141): Integer multiply-add with an immediate addend. -/
  | imadImm (f : FmtI)
  /-- `IMIN` (R141): Integer minimum. -/
  | imin (f : FmtA)
  /-- `IMIN_IMM` (R141): Integer minimum with an immediate. -/
  | iminImm (f : FmtI)
  /-- `IMAX` (R141): Integer maximum. -/
  | imax (f : FmtA)
  /-- `IMAX_IMM` (R141): Integer maximum with an immediate. -/
  | imaxImm (f : FmtI)
  /-- `IABS` (R141): Integer absolute value. -/
  | iabs (f : FmtA)
  /-- `INEG` (R141): Integer negation. -/
  | ineg (f : FmtA)
  /-- `ISET` (R143): Integer compare under a condition code, writing 1 or 0. -/
  | iset (f : FmtA)
  /-- `ISET_IMM` (R143): Integer compare against an immediate, with the condition in SUB[6:4]. -/
  | isetImm (f : FmtI)
  /-- `AADD` (R142): Adds an extended 32-bit offset to a 64-bit address. -/
  | aadd (f : FmtA)
  /-- `AADD_IMM` (R142): Adds an immediate offset to a 64-bit address. -/
  | aaddImm (f : FmtI)
  /-- `AMAD` (R142): Adds a product of extended operands to a 64-bit address. -/
  | amad (f : FmtA)
  /-- `AMAD_IMM` (R142): Address multiply-add with an immediate multiplier. -/
  | amadImm (f : FmtI)
  /-- `AND` (R144): Bitwise and. -/
  | and (f : FmtA)
  /-- `AND_IMM` (R144): Bitwise and with an immediate. -/
  | andImm (f : FmtI)
  /-- `OR` (R144): Bitwise or. -/
  | or (f : FmtA)
  /-- `OR_IMM` (R144): Bitwise or with an immediate. -/
  | orImm (f : FmtI)
  /-- `XOR` (R144): Bitwise exclusive or. -/
  | xor (f : FmtA)
  /-- `XOR_IMM` (R144): Bitwise exclusive or with an immediate. -/
  | xorImm (f : FmtI)
  /-- `ANDN` (R144): Bitwise and with the complement of the second operand. -/
  | andn (f : FmtA)
  /-- `ANDN_IMM` (R144): Bitwise and-not with an immediate. -/
  | andnImm (f : FmtI)
  /-- `NOT` (R144): Bitwise complement. -/
  | not (f : FmtA)
  /-- `BITS` (R144): Three-input bitwise function given by an 8-bit truth table. -/
  | bits (f : FmtA)
  /-- `SHL` (R145): Shift left. -/
  | shl (f : FmtA)
  /-- `SHL_IMM` (R145): Shift left by an immediate count. -/
  | shlImm (f : FmtI)
  /-- `SHR` (R145): Logical shift right. -/
  | shr (f : FmtA)
  /-- `SHR_IMM` (R145): Logical shift right by an immediate count. -/
  | shrImm (f : FmtI)
  /-- `SAR` (R145): Arithmetic shift right. -/
  | sar (f : FmtA)
  /-- `SAR_IMM` (R145): Arithmetic shift right by an immediate count. -/
  | sarImm (f : FmtI)
  /-- `ROT` (R145): Rotate left. -/
  | rot (f : FmtA)
  /-- `ROT_IMM` (R145): Rotate left by an immediate count. -/
  | rotImm (f : FmtI)
  /-- `POPC` (R146): Population count. -/
  | popc (f : FmtA)
  /-- `CLZ` (R146): Count of leading zeros. -/
  | clz (f : FmtA)
  /-- `BREV` (R146): Bit reversal. -/
  | brev (f : FmtA)
  /-- `BFX` (R147): Extracts a bit field. -/
  | bfx (f : FmtA)
  /-- `BFX_IMM` (R147): Extracts a bit field with an immediate position and width. -/
  | bfxImm (f : FmtI)
  /-- `BFI` (R147): Inserts a bit field. -/
  | bfi (f : FmtA)
  /-- `MOV` (R148): Copies a register value. -/
  | mov (f : FmtA)
  /-- `MOV_IMM` (R148): Loads an immediate read under its type. -/
  | movImm (f : FmtI)
  /-- `MOVI` (R149): Reads a register chosen by a run-time index. -/
  | movi (f : FmtA)
  /-- `MOVH` (R148): Writes the high half of a 64-bit pair from a register. -/
  | movh (f : FmtA)
  /-- `MOVH_IMM` (R148): Writes the high half of a 64-bit pair from an immediate. -/
  | movhImm (f : FmtI)
  /-- `SEL` (R143): Selects one of two operands by a bit of the third. -/
  | sel (f : FmtA)
  /-- `FADD` (R150): Floating-point add, rounded once. -/
  | fadd (f : FmtA)
  /-- `FADD_IMM` (R150): Floating-point add with an immediate. -/
  | faddImm (f : FmtI)
  /-- `FSUB` (R150): Floating-point subtract. -/
  | fsub (f : FmtA)
  /-- `FSUB_IMM` (R150): Floating-point subtract with an immediate. -/
  | fsubImm (f : FmtI)
  /-- `FMUL` (R150): Floating-point multiply. -/
  | fmul (f : FmtA)
  /-- `FMUL_IMM` (R150): Floating-point multiply with an immediate. -/
  | fmulImm (f : FmtI)
  /-- `FFMA` (R150): Fused multiply-add with one rounding. -/
  | ffma (f : FmtA)
  /-- `FFMA_IMM` (R150): Fused multiply-add with an immediate addend. -/
  | ffmaImm (f : FmtI)
  /-- `FSQRT` (R150): Floating-point square root. -/
  | fsqrt (f : FmtA)
  /-- `FSCALE` (R150): Multiplies by a power of two given as an integer. -/
  | fscale (f : FmtA)
  /-- `FSCALE_IMM` (R150): Scales by an immediate integer exponent. -/
  | fscaleImm (f : FmtI)
  /-- `FMIN` (R151): IEEE minimumNumber. -/
  | fmin (f : FmtA)
  /-- `FMIN_IMM` (R151): IEEE minimumNumber with an immediate. -/
  | fminImm (f : FmtI)
  /-- `FMAX` (R151): IEEE maximumNumber. -/
  | fmax (f : FmtA)
  /-- `FMAX_IMM` (R151): IEEE maximumNumber with an immediate. -/
  | fmaxImm (f : FmtI)
  /-- `FABS` (R152): Clears the sign bit. -/
  | fabs (f : FmtA)
  /-- `FNEG` (R152): Inverts the sign bit. -/
  | fneg (f : FmtA)
  /-- `FCLASS` (R152): Writes the one-hot class of a float value. -/
  | fclass (f : FmtA)
  /-- `FSET` (R153): Float compare under a condition code. -/
  | fset (f : FmtA)
  /-- `FSET_IMM` (R153): Float compare against an immediate, with the condition in SUB[6:4]. -/
  | fsetImm (f : FmtI)
  /-- `FRCP` (R154): Correctly rounded reciprocal. -/
  | frcp (f : FmtA)
  /-- `FRSQ` (R154): Correctly rounded reciprocal square root. -/
  | frsq (f : FmtA)
  /-- `FEXP2` (R154): Correctly rounded 2^a. -/
  | fexp2 (f : FmtA)
  /-- `FLOG2` (R154): Correctly rounded log2 a. -/
  | flog2 (f : FmtA)
  /-- `FSIN` (R154): Correctly rounded sine. -/
  | fsin (f : FmtA)
  /-- `FCOS` (R154): Correctly rounded cosine. -/
  | fcos (f : FmtA)
  /-- `CVT` (R156): Converts one value between the conversion types. -/
  | cvt (f : FmtA)
  /-- `CVTS` (R157): Packs two FP32 values with stochastic rounding. -/
  | cvts (f : FmtA)
  /-- `CVTU` (R158): Unpacks one narrow element from a register. -/
  | cvtu (f : FmtA)
  /-- `CVTB` (R160): Converts a whole tile between element formats as an engine command. -/
  | cvtb (f : FmtA)
  /-- `BSCL` (R161): Quantises an FP32 tile into an MX or GF4 block format. -/
  | bscl (f : FmtA)
  /-- `SHFL` (R163): Reads another lane's value. -/
  | shfl (f : FmtA)
  /-- `VOTE` (R164): Combines one predicate bit from each participant. -/
  | vote (f : FmtA)
  /-- `GRED` (R165): Reduces over the participating lanes in TID order. -/
  | gred (f : FmtA)
  /-- `GSCAN` (R166): Computes a running reduction over the participants. -/
  | gscan (f : FmtA)
  /-- `BRA` (R168): Uniform relative branch. -/
  | bra (f : FmtB)
  /-- `BRD` (R169): Divergent branch that sends the minority side to the deck. -/
  | brd (f : FmtB)
  /-- `JMP` (R168): Jump to a PC held in a scalar pair. -/
  | jmp (f : FmtB)
  /-- `CALL` (R168): Writes the return address and branches. -/
  | call (f : FmtB)
  /-- `CALLI` (R170): Indirect call through per-lane code pointers, splitting by target. -/
  | calli (f : FmtB)
  /-- `RET` (R168): Returns to a PC held in a register pair. -/
  | ret (f : FmtB)
  /-- `DMARK` (R51): Marks active threads in a join counter and raises its expected count. -/
  | dmark (f : FmtB)
  /-- `REFORM` (R51): Arrives at a join counter, holding or decking the arrivals. -/
  | reform (f : FmtB)
  /-- `EXIT` (R52): Ends the guarded threads, updating join counters and barriers. -/
  | exit (f : FmtB)
  /-- `YIELD` (R172): Ends the current play after this instruction. -/
  | yield (f : FmtB)
  /-- `YIELD_DONE` (R172): Completes a PRE handler during an owner switch, or acts as YIELD. -/
  | yieldDone (f : FmtB)
  /-- `BARR` (R174): Arrives at a barrier without waiting and returns its generation. -/
  | barr (f : FmtS)
  /-- `BARW` (R174): Arrives at a barrier and waits until its generation changes. -/
  | barw (f : FmtS)
  /-- `BARA` (R174): Adds an explicit count to a barrier's arrivals. -/
  | bara (f : FmtS)
  /-- `BARM` (R174): Sets a barrier's count and puts it in counted mode. -/
  | barm (f : FmtS)
  /-- `BARQ` (R174): Reads a barrier's generation, arrivals and mode. -/
  | barq (f : FmtS)
  /-- `BARV` (R174): Waits until a barrier's generation differs from a given value. -/
  | barv (f : FmtS)
  /-- `FENCE` (R182): Orders the group's accesses at a scope, optionally reporting status. -/
  | fence (f : FmtS)
  /-- `XFENCE` (R183): Orders one access path against another. -/
  | xfence (f : FmtS)
  /-- `AFENCE` (R184): Acts as FENCE.ar and empties the L1, ending alias separation. -/
  | afence (f : FmtS)
  /-- `SYSF` (R185): Drains remote stores and waits for their completion or loss, reporting status. -/
  | sysf (f : FmtS)
  /-- `TOKW` (R186): Under DET waits for the commit token; otherwise NOP. -/
  | tokw (f : FmtS)
  /-- `TOKP` (R186): Under DET passes the commit token; otherwise NOP. -/
  | tokp (f : FmtS)
  /-- `ATOM_ADD` (R178): Atomic integer add. -/
  | atomAdd (f : FmtM)
  /-- `ATOM_MIN_SIGNED` (R178): Atomic signed minimum. -/
  | atomMinSigned (f : FmtM)
  /-- `ATOM_MIN_UNSIGNED` (R178): Atomic unsigned minimum. -/
  | atomMinUnsigned (f : FmtM)
  /-- `ATOM_MAX_SIGNED` (R178): Atomic signed maximum. -/
  | atomMaxSigned (f : FmtM)
  /-- `ATOM_MAX_UNSIGNED` (R178): Atomic unsigned maximum. -/
  | atomMaxUnsigned (f : FmtM)
  /-- `ATOM_AND` (R178): Atomic bitwise and. -/
  | atomAnd (f : FmtM)
  /-- `ATOM_OR` (R178): Atomic bitwise or. -/
  | atomOr (f : FmtM)
  /-- `ATOM_XOR` (R178): Atomic bitwise xor. -/
  | atomXor (f : FmtM)
  /-- `ATOM_EXCH` (R178): Atomic exchange. -/
  | atomExch (f : FmtM)
  /-- `ATOM_FADD` (R178): Atomic float add rounded to nearest. -/
  | atomFadd (f : FmtM)
  /-- `ATOM_FMIN` (R178): Atomic float minimum. -/
  | atomFmin (f : FmtM)
  /-- `ATOM_FMAX` (R178): Atomic float maximum. -/
  | atomFmax (f : FmtM)
  /-- `ATCAS` (R179): Atomic compare-and-swap. -/
  | atcas (f : FmtM)
  /-- `ATF` (R180): Waits on a flag by repeated atomic reads until a condition holds. -/
  | atf (f : FmtM)
  /-- `ATF_ATTEMPT_ANSWER` (R180): The last lane's answer of an ATF attempt reaches the core and the condition is evaluated. -/
  | atfAttemptAnswer (core op : Nat)
  /-- `LD` (R198): Loads from any window. -/
  | ld (f : FmtM)
  /-- `ST` (R198): Stores to any window. -/
  | st (f : FmtM)
  /-- `LDG` (R198): Loads from the global window with a base and 32-bit index. -/
  | ldg (f : FmtM)
  /-- `STG` (R198): Stores to the global window with a base and 32-bit index. -/
  | stg (f : FmtM)
  /-- `LDI` (R198): Untracked load of a location promised invariant. -/
  | ldi (f : FmtM)
  /-- `PREF` (R199): Prefetches lines into the L2 and optionally the L1. -/
  | pref (f : FmtM)
  /-- `SPSET` (R200): Releases at team scope and sets scratchpad lines full. -/
  | spset (f : FmtM)
  /-- `SPCLR` (R200): Sets scratchpad lines empty. -/
  | spclr (f : FmtM)
  /-- `SPTST` (R200): Reads whether a scratchpad line is full. -/
  | sptst (f : FmtM)
  /-- `WCFL` (R201): Starts the drain of both write-combining buffers. -/
  | wcfl (f : FmtM)
  /-- `CPY` (R203): Enqueues a linear copy and returns its ticket. -/
  | cpy (f : FmtM)
  /-- `CPT_LD` (R204): Enqueues a box copy from a tensor to a dense endpoint. -/
  | cptLd (f : FmtM)
  /-- `CPT_ST` (R204): Enqueues a box copy from a dense endpoint to a tensor. -/
  | cptSt (f : FmtM)
  /-- `CPX` (R205): Enqueues a fill of a range with a repeated pattern. -/
  | cpx (f : FmtM)
  /-- `CPW` (R206): Waits until a copy, named by its ticket, is complete. -/
  | cpw (f : FmtM)
  /-- `CPQ` (R206): Reports a copy's state and completed prefix without waiting. -/
  | cpq (f : FmtM)
  /-- `COPY_LINE_WRITE` (R252): A copy writes destination bytes once its source data arrives. -/
  | copyLineWrite (core quad : Nat)
  /-- `COPY_COMPLETION` (R252): A copy completes after its last write is performed or acknowledged. -/
  | copyCompletion (core quad : Nat)
  /-- `HALLOC` (R67): Allocates 1, 2 or 4 tile slots to a handle. -/
  | halloc (f : FmtX)
  /-- `HALLOC_GRANT` (R67): Freed slots go to a waiting HALLOC, oldest first. -/
  | hallocGrant (core : Nat)
  /-- `HFREE` (R68): Releases a handle; its slots free after draining. -/
  | hfree (f : FmtX)
  /-- `HPUT` (R69): Moves a live handle into a team mailbox. -/
  | hput (f : FmtX)
  /-- `HTAKE` (R69): Moves a mailbox's handle into a handle register. -/
  | htake (f : FmtX)
  /-- `HQRY` (R209): Reads free slots, mailbox occupancy and live handles. -/
  | hqry (f : FmtX)
  /-- `TLD` (R211): Loads a tile, optionally with its scale image, into a handle. -/
  | tld (f : FmtX)
  /-- `TST` (R211): Stores a handle's tile, optionally with its scale image. -/
  | tst (f : FmtX)
  /-- `TRD` (R212): Reads 32-bit words of a handle or its sidecar. -/
  | trd (f : FmtX)
  /-- `TWR` (R212): Writes 32-bit words of a handle or its sidecar. -/
  | twr (f : FmtX)
  /-- `TFILL` (R213): Fills a handle, optionally its scales and band word. -/
  | tfill (f : FmtX)
  /-- `TQPOP` (R217): Claims the entry at HEAD of a local tile queue. -/
  | tqpop (f : FmtM)
  /-- `TQSTEAL` (R217): Steals the entry at TAIL-1 of a persistent straggler's queue. -/
  | tqsteal (f : FmtM)
  /-- `TQDONE` (R218): Releases at system scope and marks a claimed or stolen entry DONE. -/
  | tqdone (f : FmtM)
  /-- `STRG` (R219): Reads a member's lag word from a fabric barrier's scorecard. -/
  | strg (f : FmtM)
  /-- `STRG_T` (R219): Reads a member's arrival time in a recorded generation. -/
  | strgT (f : FmtM)
  /-- `COLL` (R221): Starts a collective described by a 64-byte descriptor. -/
  | coll (f : FmtM)
  /-- `MMA` (R226): Matrix multiply-accumulate of two handles into an origin. -/
  | mma (f : FmtX)
  /-- `MMAS` (R228): 6:12 sparse matrix multiply-accumulate. -/
  | mmas (f : FmtX)
  /-- `MMAB` (R230): Matrix multiply-accumulate with B broadcast across a cluster. -/
  | mmab (f : FmtX)
  /-- `MMA64` (R226): FP64 matrix multiply-accumulate. -/
  | mma64 (f : FmtX)
  /-- `MMAI` (R226): INT8 matrix multiply-accumulate into INT32. -/
  | mmai (f : FmtX)
  /-- `ACZ` (R231): Zeroes every cell of an origin. -/
  | acz (f : FmtX)
  /-- `ACST` (R233): Writes accumulator rows into a handle, converting them. -/
  | acst (f : FmtX)
  /-- `ACTH` (R233): Writes accumulator columns into a handle, converting them. -/
  | acth (f : FmtX)
  /-- `ACRD` (R234): Reads single accumulator cells. -/
  | acrd (f : FmtX)
  /-- `ACWR` (R234): Writes single accumulator cells. -/
  | acwr (f : FmtX)
  /-- `ENGINE_COMMAND_COMPLETION` (R251): An engine command writes its last cell and completes, clearing its marks. -/
  | engineCommandCompletion (core quad : Nat)
  /-- `SOLB` (R236): Opens a solve region, taking history slots. -/
  | solb (f : FmtX)
  /-- `SOLE` (R237): Ends one iteration: tests convergence, mixes or closes the region. -/
  | sole (f : FmtX)
  /-- `SOLVE_STEP_COMPLETION` (R300): A SOLE step finishes its T cycles, writes x and releases the participants. -/
  | solveStepCompletion (at_ : SolveRef)
  /-- `SOLQ` (R239): Reads a solve region's iteration, last, best or history count. -/
  | solq (f : FmtX)
  /-- `SOLX` (R240): Abandons a solve region. -/
  | solx (f : FmtX)
  /-- `SOLH` (R241): Copies one history tile of the participant into a handle. -/
  | solh (f : FmtX)
  /-- `MFS` (R189): Reads a special register. -/
  | mfs (f : FmtS)
  /-- `MTS` (R189): Writes an RW special register. -/
  | mts (f : FmtS)
  /-- `MTSP` (R189): Writes a PRIV special register from a privileged group, reporting refusal. -/
  | mtsp (f : FmtS)
  /-- `ACQ` (R192): Sets the group's register, handle and origin allotment. -/
  | acq (f : FmtS)
  /-- `ALLOTMENT_GRANT` (R42): Freed registers or origins are granted to a waiting ACQ or split, oldest first. -/
  | allotmentGrant (core : Nat)
  /-- `RELA` (R192): Returns the group to the prologue allotment. -/
  | rela (f : FmtS)
  /-- `RDOC` (R193): Reads OCLK, or RCNT under DET, whole into a pair. -/
  | rdoc (f : FmtS)
  /-- `TRAP` (R194): Raises a precise trap with a code. -/
  | trap (f : FmtS)
  /-- `RFT` (R194): Returns from a handler to the saved resume PC. -/
  | rft (f : FmtS)
  /-- `HALT` (R194): Raises the fatal fault HALT with a code. -/
  | halt (f : FmtS)
  /-- `SNAP` (R338): Triggers a snapshot latch of the owner's counters with a tag. -/
  | snap (f : FmtS)
  /-- `DBG` (R339): Breakpoint: stops the group and writes a debug record when debugging is enabled. -/
  | dbg (f : FmtS)
  /-- `TRADE` (R22): Offers turn indices of the next session to another owner. -/
  | trade (f : FmtS)
  /-- `TRADEA` (R22): Accepts an offer of turn indices. -/
  | tradea (f : FmtS)
  /-- `LAUNCH` (R187): Reads a launch packet and enqueues it, returning OK, FULL or MALFORMED. -/
  | launch (f : FmtS)
  /-- `SIGNAL` (R188): Releases at device scope and adds to an event. -/
  | signal (f : FmtS)
  /-- `EVWAIT` (R188): Waits until an event satisfies a threshold, then acquires. -/
  | evwait (f : FmtS)
  /-- `TEAM_ADMISSION` (R38): The admission unit admits the next team of the chosen ready grid to an idle core or rectangle. -/
  | teamAdmission (owner : Nat)
  /-- `GRID_COMPLETION` (R37): When all threads have exited and all work has drained, the completion event gains 1. -/
  | gridCompletion (owner grid : Nat)
  /-- `DEAL` (R50): The dealer builds a group from matching deck records and seats it. -/
  | deal (core : Nat)
  /-- `ROUND_BOUNDARY` (R43): Each round boundary re-balances rotations and refills token pools. -/
  | roundBoundary
  /-- `SESSION_BOUNDARY` (R23): At phase 0 the next table, with accepted trades applied, takes force on every structure. -/
  | sessionBoundary
  /-- `SWITCH_CUTOFF` (R27): At S+8,192 groups that have not yielded are cut off and the outgoing OCLK stops. -/
  | switchCutoff
  /-- `SWITCH_RESUME` (R27): At S+W the incoming owner's OCLK resumes and its groups issue. -/
  | switchResume
  /-- `LINE_FETCH_ARRIVAL` (R246): A requested code line becomes issuable. -/
  | lineFetchArrival (core op : Nat)
  /-- `L2_SLICE_SERVICE` (R247): An L2 slice serves one request of the owner in an owned cycle. -/
  | l2SliceService (die slice owner : Nat)
  /-- `RESPONSE_ARRIVAL` (R247): Data or acknowledgement reaches the core and the destination is written. -/
  | responseArrival (r : RespRef)
  /-- `HBM_ACCESS_BEGIN` (R248): A closed-page access begins in an owner's bank in an owned cycle. -/
  | hbmAccessBegin (stack owner req : Nat)
  /-- `HBM_LINE_FILL` (R248): A fetched line reaches its slice 68 cycles after its access began. -/
  | hbmLineFill (req : Nat)
  /-- `L2_TLB_LOOKUP` (R250): The owner's L2 TLB partition serves a lookup. -/
  | l2TlbLookup (die owner : Nat)
  /-- `WALK_STEP` (R250): A page walker reads one table entry and ends the step. -/
  | walkStep (walk : Nat)
  /-- `MERGE_TABLE_INSERT` (R87): A not-present page is inserted into the owner's merge-table partition or joins its entry. -/
  | mergeTableInsert (die owner : Nat)
  /-- `WC_AGE_DRAIN` (R76): A write-combining entry 64 owner cycles old drains to its slice. -/
  | wcAgeDrain (core line : Nat)
  /-- `REMOTE_WC_AGE_DRAIN` (R77): A remote write-combining entry 2,048 owner cycles old drains. -/
  | remoteWcAgeDrain (core device line : Nat)
  /-- `MMX` (R279): A race-conflict answer reaches the core and the MMX trap is taken at the next boundary. -/
  | mmx (core seat : Nat)
  /-- `REGION_ID_SWEEP` (R276): The house sweep clears free race-record slots and recycles region ids. -/
  | regionIdSweep
  /-- `HBM_REFRESH` (R32): A refresh segment of a bank begins in a house turn. -/
  | hbmRefresh (stack bank : Nat)
  /-- `HBM_SCRUB` (R20): A scrub reads and checks HBM lines as house work. -/
  | hbmScrub (line : Nat)
  /-- `DUMP` (R331): After the drain ends, the core writes its dump from DUMPBASE. -/
  | dump (core : Nat)
  /-- `GLOBAL_TICK` (R337): Every 2^k cycles the owner's counters latch and a telemetry record is written. -/
  | globalTick (owner : Nat)
  /-- `SNAPSHOT_LATCH` (R338): 32 cycles after a SNAP the counters latch with the tag. -/
  | snapshotLatch (owner : Nat)
  /-- `EXTERNAL_DEBUG_TRIGGER` (R338): The counters latch at the next round boundary with tag 0x0100. -/
  | externalDebugTrigger
  /-- `REMOTE_REQUEST_ARRIVAL` (R311): A remote request arrives at a target port and is translated and served for the bound owner. -/
  | remoteRequestArrival (r : PeerReq)
  /-- `KEEP_WAITING_SEND` (R312): A target sends a keep-waiting notice every 32,768 ns for a parked request. -/
  | keepWaitingSend (req : Nat)
  /-- `KEEP_WAITING_NOTICE` (R313): A keep-waiting notice arrives and restarts the link timeout. -/
  | keepWaitingNotice (n : KeepNotice)
  /-- `LINK_TIMEOUT` (R313): A 2 ms link timeout expires and the peer is declared lost. -/
  | linkTimeout (req : Nat)
  /-- `PEER_LOST` (R313): System software declares a peer lost; its requests end as the table gives. -/
  | peerLost (device : Nat)
  /-- `PEER_READMIT` (R313): System software readmits a lost peer. -/
  | peerReadmit (device : Nat)
  /-- `PLANE_DEAD` (R309): System software declares a plane dead: quiesce, abandon, new generation, resume. -/
  | planeDead (plane : Nat)
  /-- `LINK_REPLAY` (R308): Link-level replay resends flits from the owner's partition in its own cycles. -/
  | linkReplay (plane owner : Nat)
  /-- `LINK_ACK` (R308): A link partner's acknowledgement frees replay-buffer space. -/
  | linkAck (plane owner flits : Nat)
  /-- `CHUNK_CONTRIBUTION_ARRIVAL` (R315): A collective contribution reaches its home and is reduced once all are present. -/
  | chunkContributionArrival (c : Contribution)
  /-- `COLL_LATE_TIMEOUT` (R316): A chunk or receiver waiting 500 micros fails the collective LATE and notifies members. -/
  | collLateTimeout (owner coll : Nat)
  /-- `FAILURE_NOTICE` (R316): A member receiving a failure notice writes its STATUS and discards later flits. -/
  | failureNotice (n : FailNotice)
  /-- `COLL_COMPLETION` (R221): The engine writes DSTA and then STATUS with a release at system scope. -/
  | collCompletion (owner coll : Nat)
  /-- `SCORECARD_STAMP` (R318): A member's arrival stamp arrives on plane 0. -/
  | scorecardStamp (st : CardStamp)
  /-- `RING_HAS_ROOM` (R348): A fault-queue record or debug record that waited on a full ring is written once the host has advanced CI. -/
  | ringHasRoom (owner : Nat) (ring : RingName)
  /-- `ENGINE_READ_MARK_CLEAR` (R251): An engine command finishes reading its operands at b + D - 1 and its handle read marks clear. -/
  | engineReadMarkClear (core quad : Nat)
  /-- `CLUSTER_HALT` (R302): Eight cycles after a halt on a core holding a cluster-scope solve participant, every other core of the cluster stops with SOLVE-STATE and writes its dump. -/
  | clusterHalt (core : Nat)
  /-- `THERMAL_EMERGENCY` (R353): Coolant or input leaves its window and the package clock slows uniformly. -/
  | thermalEmergency
  /-- `CLOCK_RESTORE` (R353): At the first session boundary after 1 ms clear, the clock is restored. -/
  | clockRestore
  /-- `COLD_RESET` (R351): Boot ROM, signature check, HBM training, carve-outs, device number and CXL link, in order. -/
  | coldReset
  /-- `COLD_RESET` (R351) with an image in flash that is not signed as the device asks: bring-up ends in FWFAIL. -/
  | coldResetUnsigned
  /-- `HOT_RESET` (R351): A CXL hot reset or function-level reset ends every owner without a dump and returns to step 3. -/
  | hotReset
  /-- `HOST_CXL_MEM_ACCESS` (R343): A host CXL.mem access to device memory is served in house turns. -/
  | hostCxlMemAccess (a : HostAccess)
  /-- `LDB` (R346): Launch doorbell: translates and enqueues a packet, writing LDBST. -/
  | ldb (owner : Nat) (va : BitVec 64)
  /-- `FANS_RESUME` (R346): Fault answer RESUME: every waiter on the page translates it again. -/
  | fansResume (owner vpn : Nat)
  /-- `FANS_NOMAP` (R346): Fault answer NOMAP: every waiter on the page takes a fatal address fault. -/
  | fansNomap (owner vpn : Nat)
  /-- `FANS_FRAME_UNAVAILABLE` (R346): Fault answer FRAME-UNAVAILABLE: every waiter takes that fatal fault. -/
  | fansFrameUnavailable (owner vpn : Nat)
  /-- `CREL` (R346): Releases a halted core, discarding its team. -/
  | crel (owner core : Nat)
  /-- `DRES` (R346): Resumes a group stopped at DBG. -/
  | dres (owner core seat : Nat)
  /-- `ADMIT` (R347): Admits an owner from its admission record. -/
  | admitOwner (rec : AdmitRequest)
  /-- `RETIRE` (R347): Ends an owner that is not resident and named by no table. -/
  | retire (owner : Nat)
  /-- `TURNS` (R347): Writes the turn table for the next session. -/
  | turns (table : BitVec 64)
  /-- `CORES` (R347): Sets an owner's assigned cores. -/
  | cores (owner : Nat) (list : List Nat)
  /-- `SWITCH` (R347): Starts an owner switch under R27. -/
  | switch (out inc : Option Nat)
  /-- `REFILL` (R347): Sets an owner's per-die token refill from the next session. -/
  | refill (owner : Nat) (values : List Nat)
  /-- `GET_VERSION` (R352): SPDM GET_VERSION request. -/
  | getVersion
  /-- `GET_CAPABILITIES` (R352): SPDM GET_CAPABILITIES request. -/
  | getCapabilities
  /-- `NEGOTIATE_ALGORITHMS` (R352): SPDM NEGOTIATE_ALGORITHMS request. -/
  | negotiateAlgorithms (asym hash : Nat)
  /-- `GET_DIGESTS` (R352): SPDM GET_DIGESTS request. -/
  | getDigests
  /-- `GET_CERTIFICATE` (R352): SPDM GET_CERTIFICATE request. -/
  | getCertificate (offset length : Nat)
  /-- `CHALLENGE` (R352): SPDM CHALLENGE request. -/
  | challenge (nonce : BitVec 256)
  /-- `GET_MEASUREMENTS` (R352): SPDM GET_MEASUREMENTS request returning firmware, fuse and admission digests. -/
  | getMeasurements (m : MeasureAsk)
  /-- `UNSUPPORTED_REQUEST` (R352): Any other SPDM request is answered with UnsupportedRequest. -/
  | unsupportedRequest (code : Nat)
  /-- `CXL_CACHE_SNOOP` (R74): The host's CXL.cache coherence traffic reaches the device and acts on a host line held in its L2 slice. -/
  | cxlCacheSnoop (sn : HostSnoop)
deriving DecidableEq, Repr

end Sys2Proof
end

