-- ==== Sys2Proof/Machine/Float.lean ====
section
/-! DEFINITION. Floating-point formats and arithmetic (R92 to R104): exact values, one rounding, NaNs with causes, the five
exceptions. Exact values are dyadic or rational; nothing is computed in a machine's floats. -/

namespace Sys2Proof.Machine

/-- The nine floating-point formats (R92). -/
inductive Fp where
  | f64 | f32 | f16 | bf16 | e4m3 | e5m2 | e3m2 | e2m3 | e2m1
deriving DecidableEq, Repr

/-- Exponent bits. -/
def Fp.ebits : Fp → Nat
  | .f64 => 11 | .f32 => 8 | .f16 => 5 | .bf16 => 8 | .e4m3 => 4 | .e5m2 => 5 | .e3m2 => 3 | .e2m3 => 2 | .e2m1 => 2

/-- Mantissa bits. -/
def Fp.mbits : Fp → Nat
  | .f64 => 52 | .f32 => 23 | .f16 => 10 | .bf16 => 7 | .e4m3 => 3 | .e5m2 => 2 | .e3m2 => 2 | .e2m3 => 3 | .e2m1 => 1

def Fp.bias : Fp → Int
  | .f64 => 1023 | .f32 => 127 | .f16 => 15 | .bf16 => 127 | .e4m3 => 7 | .e5m2 => 15 | .e3m2 => 3 | .e2m3 => 1 | .e2m1 => 1

/-- The format has infinities and quiet and signalling NaNs (R92, R93). -/
def Fp.ieee : Fp → Bool
  | .f64 => true | .f32 => true | .f16 => true | .bf16 => true | .e5m2 => true
  | _ => false

/-- Bits below the sign. -/
def Fp.width (f : Fp) : Nat := f.ebits + f.mbits

/-- The encoding of the largest finite magnitude (R92). -/
def Fp.maxField (f : Fp) : Nat :=
  if f.ieee then (2 ^ f.ebits - 1) * 2 ^ f.mbits - 1
  else if f = .e4m3 then 2 ^ f.width - 2
  else 2 ^ f.width - 1

/-- A value: a NaN with its payload below the quiet bit, an infinity, or (−1)^neg · m · 2^e. -/
inductive FVal where
  | nan (neg quiet : Bool) (payload : Nat)
  | inf (neg : Bool)
  | fin (neg : Bool) (m : Nat) (e : Int)
deriving DecidableEq, Repr

/-- The value of a bit pattern (R92, R93). -/
def Fp.unpack (f : Fp) (bits : Nat) : FVal :=
  let neg := bits / 2 ^ f.width % 2 == 1
  let ef := bits / 2 ^ f.mbits % 2 ^ f.ebits
  let mf := bits % 2 ^ f.mbits
  if f.ieee && ef == 2 ^ f.ebits - 1 then
    if mf == 0 then .inf neg else .nan neg (decide (2 ^ (f.mbits - 1) ≤ mf)) (mf % 2 ^ (f.mbits - 1))
  else if f == .e4m3 && ef == 15 && mf == 7 then .nan neg true 0
  else if ef == 0 then .fin neg mf (1 - f.bias - f.mbits)
  else .fin neg (2 ^ f.mbits + mf) (ef - f.bias - f.mbits)

/-- Exceptions (R99): bit 0 invalid, 1 division by zero, 2 overflow, 3 underflow, 4 inexact. -/
abbrev Exc := BitVec 5

def excInvalid : Exc := 1
def excDivZero : Exc := 2
def excOverflow : Exc := 4
def excUnderflow : Exc := 8
def excInexact : Exc := 16

/-- A rounding mode; SR carries the 64-bit z of R104. -/
inductive Mode where
  | rn | rz | rd | ru
  | sr (z : Nat)
deriving DecidableEq, Repr

/-- A mode from RM, with the z of R104 for SR. -/
def modeOf (rm : Rm) (z : Nat) : Mode :=
  match rm with
  | .rn => .rn
  | .rz => .rz
  | .rd => .rd
  | .ru => .ru
  | .sr => .sr z

/-- The sign placed on a magnitude's encoding. -/
def Fp.sign (f : Fp) (neg : Bool) (field : Nat) : Nat := (if neg then 2 ^ f.width else 0) + field

/-- The infinity of a sign. -/
def Fp.infBits (f : Fp) (neg : Bool) : Nat := f.sign neg ((2 ^ f.ebits - 1) * 2 ^ f.mbits)

/-- A NaN that the device generates (R100): cause 1 to 5. -/
def Fp.genNan (f : Fp) (cause : Nat) : Nat :=
  match f with
  | .f64 => 0x7FF8000000000000 + cause
  | .f32 => 0x7FC00000 + cause
  | .f16 => 0x7E00
  | .bf16 => 0x7FC0
  | .e5m2 => 0x7E
  | .e4m3 => 0x7F
  | _ => 0

/-- floor(log2(num / den)). -/
def ratLog2 (num den : Nat) : Int :=
  let l : Int := (num.log2 : Int) - den.log2
  match l with
  | .ofNat k => if den * 2 ^ k ≤ num then l else l - 1
  | .negSucc k => if den ≤ num * 2 ^ (k + 1) then l else l - 1

/-- num / den · 2^s as a quotient and a remainder over a denominator. -/
def ratScale (num den : Nat) (s : Int) : Nat × Nat × Nat :=
  match s with
  | .ofNat k => (num * 2 ^ k / den, num * 2 ^ k % den, den)
  | .negSucc k => (num / (den * 2 ^ (k + 1)), num % (den * 2 ^ (k + 1)), den * 2 ^ (k + 1))

/-- The magnitude is raised by one ulp, given what lies below the last kept bit as rem / den (R99, R104). -/
def roundUp (mode : Mode) (neg : Bool) (kept rem den : Nat) : Bool :=
  if rem = 0 then false
  else
    match mode with
    | .rn => decide (den < 2 * rem) || (2 * rem == den && kept % 2 == 1)
    | .rz => false
    | .rd => neg
    | .ru => !neg
    | .sr z => decide (z / 2 ^ 32 < rem * 2 ^ 32 / den)

/-- A finite result beyond range becomes the largest finite value, and not an infinity (R103). -/
def overflowsToMax (mode : Mode) (neg : Bool) : Bool :=
  match mode with
  | .rz => true
  | .rd => !neg
  | .ru => neg
  | _ => false

/-- The exact value num / den · 2^e (num, den > 0) rounded once to a format (R99, R103, R104): bits and exceptions. A tiny result signals underflow, an
exact one too (IEEE 754-2019, 7.5). -/
def Fp.roundRat (f : Fp) (mode : Mode) (sat neg : Bool) (num den : Nat) (e : Int) : Nat × Exc :=
  let ex := ratLog2 num den + e
  let emin : Int := 1 - f.bias
  let q : Int := max ex emin - f.mbits
  let (kept, rem, d) := ratScale num den (e - q)
  let up := roundUp mode neg kept rem d
  let r := if up then kept + 1 else kept
  let field := (q - (emin - f.mbits)).toNat * 2 ^ f.mbits + r
  let inexact := rem != 0
  if f.maxField < field then
    (if !f.ieee || sat || overflowsToMax mode neg then f.sign neg f.maxField else f.infBits neg, excOverflow ||| excInexact)
  else
    let tiny :=
      if emin ≤ ex then false
      else
        let (k2, r2, d2) := ratScale num den (e - (ex - f.mbits))
        !(ex + 1 == emin && roundUp mode neg k2 r2 d2 && k2 + 1 == 2 ^ (f.mbits + 1))
    (f.sign neg field, (if inexact then excInexact else 0) ||| (if tiny then excUnderflow else 0))

/-- An exact dyadic value rounded once; zero keeps its sign. -/
def Fp.round (f : Fp) (mode : Mode) (sat neg : Bool) (m : Nat) (e : Int) : Nat × Exc :=
  if m = 0 then (f.sign neg 0, 0) else f.roundRat mode sat neg m 1 e

/-! ### Exact arithmetic on values -/

/-- An exact signed dyadic: n · 2^e. -/
abbrev Dyad := Int × Int

def dyadOf (neg : Bool) (m : Nat) (e : Int) : Dyad := (if neg then -(m : Int) else m, e)

/-- The exact sum. -/
def Dyad.add (x y : Dyad) : Dyad :=
  let e := min x.2 y.2
  (x.1 * 2 ^ (x.2 - e).toNat + y.1 * 2 ^ (y.2 - e).toNat, e)

/-- The exact product. -/
def Dyad.mul (x y : Dyad) : Dyad := (x.1 * y.1, x.2 + y.2)

/-- Comparison of exact values. -/
def Dyad.lt (x y : Dyad) : Bool := decide ((Dyad.add x (-y.1, y.2)).1 < 0)

/-- A non-zero dyadic rounded; a zero gets the sign given. -/
def Fp.roundDyad (f : Fp) (mode : Mode) (sat zneg : Bool) (x : Dyad) : Nat × Exc :=
  if x.1 = 0 then (f.sign zneg 0, 0) else f.roundRat mode sat (decide (x.1 < 0)) x.1.natAbs 1 x.2

/-- The sign of an exactly zero sum of opposite signs (R102). -/
def zeroNeg (mode : Mode) : Bool := mode == .rd

/-- The value of a NaN made quiet, sign and payload kept (R101). -/
def Fp.quietNan (f : Fp) (neg : Bool) (payload : Nat) : Nat :=
  f.sign neg ((2 ^ f.ebits - 1) * 2 ^ f.mbits + 2 ^ (f.mbits - 1) + payload)

/-- R101: the first NaN source, made quiet, and invalid when any source is signalling. -/
def Fp.nanRule (f : Fp) (xs : List FVal) : Option (Nat × Exc) :=
  let sig := xs.any (fun x => match x with | .nan _ false _ => true | _ => false)
  (xs.findSome? (fun x => match x with | .nan neg _ p => some (f.quietNan neg p) | _ => none)).map
    (fun b => (b, if sig then excInvalid else 0))

/-- A generated NaN with invalid (R100). -/
def Fp.bad (f : Fp) (cause : Nat) : Nat × Exc := (f.genNan cause, excInvalid)

def FVal.neg : FVal → FVal
  | .nan n q p => .nan n q p
  | .inf n => .inf (!n)
  | .fin n m e => .fin (!n) m e

/-- a + b (R150, R101, R102). -/
def Fp.addV (f : Fp) (mode : Mode) (a b : FVal) : Nat × Exc :=
  match f.nanRule [a, b] with
  | some r => r
  | none =>
    match a, b with
    | .inf x, .inf y => if x = y then (f.infBits x, 0) else f.bad 3
    | .inf x, _ => (f.infBits x, 0)
    | _, .inf y => (f.infBits y, 0)
    | .fin n m e, .fin n' m' e' =>
      f.roundDyad mode false (if m = 0 ∧ m' = 0 ∧ n = n' then n else zeroNeg mode) (Dyad.add (dyadOf n m e) (dyadOf n' m' e'))
    | _, _ => (0, 0)

/-- a · b. -/
def Fp.mulV (f : Fp) (mode : Mode) (a b : FVal) : Nat × Exc :=
  match f.nanRule [a, b] with
  | some r => r
  | none =>
    match a, b with
    | .inf x, .inf y => (f.infBits (x != y), 0)
    | .inf x, .fin y m _ => if m = 0 then f.bad 4 else (f.infBits (x != y), 0)
    | .fin x m _, .inf y => if m = 0 then f.bad 4 else (f.infBits (x != y), 0)
    | .fin x m e, .fin y m' e' => f.round mode false (x != y) (m * m') (e + e')
    | _, _ => (0, 0)

/-- a · b + c with one rounding (R150, R101). -/
def Fp.fmaV (f : Fp) (mode : Mode) (a b c : FVal) : Nat × Exc :=
  match f.nanRule [a, b, c] with
  | some r => r
  | none =>
    let addInf (pn : Bool) : Nat × Exc :=
      match c with
      | .inf z => if z = pn then (f.infBits pn, 0) else f.bad 3
      | _ => (f.infBits pn, 0)
    match a, b with
    | .inf x, .inf y => addInf (x != y)
    | .inf x, .fin y m _ => if m = 0 then f.bad 4 else addInf (x != y)
    | .fin x m _, .inf y => if m = 0 then f.bad 4 else addInf (x != y)
    | .fin x m e, .fin y m' e' =>
      match c with
      | .inf z => (f.infBits z, 0)
      | .fin z mc ec =>
        let p := dyadOf (x != y) (m * m') (e + e')
        f.roundDyad mode false (if m * m' = 0 ∧ mc = 0 ∧ (x != y) = z then z else zeroNeg mode) (Dyad.add p (dyadOf z mc ec))
      | _ => (0, 0)
    | _, _ => (0, 0)

/-- Integer square root, bit by bit from bit `k`. -/
def isqrtBits (n : Nat) : Nat → Nat → Nat
  | 0, r => if (r + 1) * (r + 1) ≤ n then r + 1 else r
  | k + 1, r =>
    let r' := r + 2 ^ (k + 1)
    isqrtBits n k (if r' * r' ≤ n then r' else r)

/-- floor(sqrt n). -/
def isqrt (n : Nat) : Nat := isqrtBits n (n.log2 / 2 + 1) 0

/-- sqrt(m · 2^e) as a magnitude with a sticky last bit, exact enough to round to 64 bits. -/
def sqrtSticky (m : Nat) (e : Int) : Nat × Int :=
  let (m, e) := if e % 2 = 0 then (m, e) else (2 * m, e - 1)
  let n := m * 2 ^ 160
  let r := isqrt n
  (2 * r + (if r * r = n then 0 else 1), (e - 160) / 2 - 1)

/-- √a (R150). -/
def Fp.sqrtV (f : Fp) (mode : Mode) (a : FVal) : Nat × Exc :=
  match f.nanRule [a] with
  | some r => r
  | none =>
    match a with
    | .inf false => (f.infBits false, 0)
    | .inf true => f.bad 5
    | .fin n m e =>
      if m = 0 then (f.sign n 0, 0)
      else if n then f.bad 5
      else
        let (r, x) := sqrtSticky m e
        f.round mode false false r x
    | _ => (0, 0)

/-- a · 2^b (R150). -/
def Fp.scaleV (f : Fp) (mode : Mode) (a : FVal) (b : Int) : Nat × Exc :=
  match f.nanRule [a] with
  | some r => r
  | none =>
    match a with
    | .inf n => (f.infBits n, 0)
    | .fin n m e =>
      if m = 0 then (f.sign n 0, 0)
      else
        -- far beyond range on either side the result no longer depends on b, so b is bounded to keep the numbers small
        f.round mode false n m (e + max (min b 5000) (-5000))
    | _ => (0, 0)

/-- Order of non-NaN values, −0 below +0 when `zeros`. -/
def FVal.key : FVal → Int × Dyad
  | .inf n => (if n then -1 else 1, (0, 0))
  | .fin n m e => (0, dyadOf n m e)
  | .nan _ _ _ => (0, (0, 0))

def FVal.lt (a b : FVal) : Bool :=
  let (x, d) := a.key
  let (y, d') := b.key
  if x ≠ y then decide (x < y) else if x = 0 then Dyad.lt d d' else false

def FVal.isNan : FVal → Bool
  | .nan _ _ _ => true
  | _ => false

def FVal.isSig : FVal → Bool
  | .nan _ false _ => true
  | _ => false

def FVal.isNeg : FVal → Bool
  | .nan n _ _ => n
  | .inf n => n
  | .fin n _ _ => n

/-- Below in the order of minimumNumber, where −0 is below +0 (R151). -/
def FVal.below (a b : FVal) : Bool := a.lt b || (!b.lt a && a.isNeg && !b.isNeg)

/-- The minimum (or maximum) of two values given with their bits (R151). -/
def Fp.minmax (f : Fp) (isMax : Bool) (a b : Nat) : Nat × Exc :=
  let x := f.unpack a
  let y := f.unpack b
  let exc := if x.isSig || y.isSig then excInvalid else 0
  if x.isNan && y.isNan then
    match f.nanRule [x, y] with
    | some r => r
    | none => (0, 0)
  else if x.isNan then (b, exc)
  else if y.isNan then (a, exc)
  else if isMax then (if x.below y then b else a, exc)
  else (if y.below x then b else a, exc)

/-- A float condition (R140): the truth and the exceptions. -/
def fpCond (cc : Nat) (x y : FVal) : Bool × Exc :=
  let un := x.isNan || y.isNan
  let sig := x.isSig || y.isSig
  let lt := !un && x.lt y
  let gt := !un && y.lt x
  let eq := !un && !x.lt y && !y.lt x
  let t := match cc with
    | 0 => eq
    | 1 => !eq
    | 2 => lt
    | 3 => lt || eq
    | 4 => gt
    | 5 => gt || eq
    | 6 => !un
    | _ => un
  let inv := if 2 ≤ cc ∧ cc ≤ 5 then un else sig
  (t, if inv then excInvalid else 0)

/-- The class bit of a value (R152). -/
def Fp.class (f : Fp) (x : FVal) : Nat :=
  match x with
  | .nan _ false _ => 8
  | .nan _ true _ => 9
  | .inf n => if n then 0 else 7
  | .fin n m e =>
    if m = 0 then (if n then 3 else 4)
    else if m < 2 ^ f.mbits ∧ e = 1 - f.bias - f.mbits then (if n then 2 else 5)
    else (if n then 1 else 6)

/-! ### Conversions (R103, R104) -/

/-- A NaN of format `src` as it arrives in format `dst` (R103). -/
def nanConvert (src dst : Fp) (neg : Bool) (payload : Nat) : Nat :=
  match dst with
  | .f16 | .bf16 | .e5m2 => dst.sign neg ((2 ^ dst.ebits - 1) * 2 ^ dst.mbits + 2 ^ (dst.mbits - 1))
  | .e4m3 => dst.sign neg 0x7F
  | .e3m2 | .e2m3 | .e2m1 => 0
  | .f32 => dst.quietNan neg (if src = .e4m3 then 0 else payload % 2 ^ 22)
  | .f64 => dst.quietNan neg (if src = .e4m3 then 0 else if src = .f64 then payload else payload % 2 ^ 22)

/-- A value converted to a format under R103. -/
def fpConvert (src dst : Fp) (mode : Mode) (sat : Bool) (x : FVal) : Nat × Exc :=
  match x with
  | .nan neg quiet p =>
    let noNan := dst = .e3m2 ∨ dst = .e2m3 ∨ dst = .e2m1
    (nanConvert src dst neg p, if !quiet || noNan then excInvalid else 0)
  | .inf neg => if !dst.ieee || sat then (dst.sign neg dst.maxField, excInvalid) else (dst.infBits neg, 0)
  | .fin neg m e => dst.round mode sat neg m e

/-- The hash z of R104. -/
def srHash (seed : Nat) (row column salt : Nat) : Nat :=
  let w := 2 ^ 64
  let c := (row * 2 ^ 32 + column) % w
  let z0 := (seed ^^^ (c * 0x9E3779B97F4A7C15 % w)) ^^^ (salt * 2 ^ 32 % w)
  let z1 := (z0 ^^^ (z0 / 2 ^ 30)) * 0xBF58476D1CE4E5B9 % w
  let z2 := (z1 ^^^ (z1 / 2 ^ 27)) * 0x94D049BB133111EB % w
  z2 ^^^ (z2 / 2 ^ 31)

/-- A value rounded to an integer in a mode: the integer, and whether it is exact (R156). -/
def roundToInt (mode : Mode) (neg : Bool) (m : Nat) (e : Int) : Int × Bool :=
  if m = 0 then (0, true)
  else
    let (kept, rem, d) := ratScale m 1 e
    let r := if roundUp mode neg kept rem d then kept + 1 else kept
    (if neg then -(r : Int) else r, rem == 0)

/-- Elements of a register type: format, and how many (R93). -/
def tyFp : Ty → Option (Fp × Nat)
  | .f32 => some (.f32, 1)
  | .f64 => some (.f64, 1)
  | .f16x2 => some (.f16, 2)
  | .bf16x2 => some (.bf16, 2)
  | _ => none

end Sys2Proof.Machine
end

