-- ==== Sys2Proof/Machine/FloatFn.lean ====
section
/-! DEFINITION. The function unit (R154): correctly rounded reciprocal, reciprocal square root, 2^a, log2 a, sine and cosine.
Each transcendental function is enclosed between two fixed-point numbers, at a precision that doubles until both ends
round to the same result. -/

namespace Sys2Proof.Machine

/-- The function unit's exceptions (R154): overflow for an infinity from a finite source, underflow for a subnormal or zero result
of a non-zero exact value, never inexact. -/
def Fp.fuExc (f : Fp) (bits : Nat) (e : Exc) : Exc :=
  (e &&& (excInvalid ||| excDivZero)) |||
    (if e &&& excOverflow ≠ 0 then excOverflow else 0) |||
    (if bits % 2 ^ f.width < 2 ^ f.mbits then excUnderflow else 0)

/-- A result of the function unit for a finite source whose exact value is not zero. -/
def Fp.fu (f : Fp) (r : Nat × Exc) : Nat × Exc := (r.1, f.fuExc r.1 r.2)

/-- 1/a (R154). -/
def Fp.rcpV (f : Fp) (a : FVal) : Nat × Exc :=
  match f.nanRule [a] with
  | some r => r
  | none =>
    match a with
    | .inf n => (f.sign n 0, 0)
    | .fin n m e => if m = 0 then (f.infBits n, excDivZero) else f.fu (f.roundRat .rn false n 1 m (-e))
    | _ => (0, 0)

/-- 1/√a (R154). -/
def Fp.rsqV (f : Fp) (a : FVal) : Nat × Exc :=
  match f.nanRule [a] with
  | some r => r
  | none =>
    match a with
    | .inf false => (f.sign false 0, 0)
    | .inf true => f.bad 5
    | .fin n m e =>
      if m = 0 then (f.infBits n, excDivZero)
      else if n then f.bad 5
      else
        let (m, e) := if e % 2 = 0 then (m, e) else (2 * m, e - 1)
        let big := 2 ^ (2 * 160)
        let r := isqrt (big / m)
        f.fu (f.round .rn false false (2 * r + (if r * r * m = big then 0 else 1)) (-(e / 2) - 160 - 1))
    | _ => (0, 0)

/-- Σ over k < n of (±1)^k · x / (q^(2k+1) · (2k+1)) in fixed point, with x the scaled 1. -/
def atanSeries (one q : Nat) (alt : Bool) : Nat → Nat → Nat → Int
  | 0, _, _ => 0
  | n + 1, k, pw =>
    let t : Int := (pw / (2 * k + 1) : Nat)
    (if alt && k % 2 == 1 then -t else t) + atanSeries one q alt n (k + 1) (pw / (q * q))

/-- ln 2 · 2^p, within p units. -/
def ln2Fix (p : Nat) : Int := 2 * atanSeries (2 ^ p) 3 false (p / 3 + 2) 0 (2 ^ p / 3)

/-- π · 2^p, within 20·p units (Machin). -/
def piFix (p : Nat) : Int :=
  16 * atanSeries (2 ^ p) 5 true (p / 4 + 2) 0 (2 ^ p / 5) - 4 * atanSeries (2 ^ p) 239 true (p / 15 + 2) 0 (2 ^ p / 239)

/-- Σ y^k / k! from term `t` on, y and t scaled by 2^p: `n` terms, adding every `step`-th with alternating signs when `alt`. -/
def expSeries (p : Nat) (y : Int) : Nat → Nat → Int → Int
  | 0, _, _ => 0
  | n + 1, k, t => t + expSeries p y n (k + 1) (t * y / 2 ^ p / (k + 1))

/-- The alternating series of sine (k = 1) and cosine (k = 0). -/
def trigSeries (p : Nat) (y2 : Int) : Nat → Nat → Int → Int
  | 0, _, _ => 0
  | n + 1, k, t => t + trigSeries p y2 n (k + 2) (-(t * y2 / 2 ^ p / ((k + 1) * (k + 2))))

/-- An enclosure of a real: (lo, hi) scaled by 2^p. -/
abbrev Enclosure := Int × Int × Nat

/-- The fixed-point value of m · 2^e, rounded down, with p fraction bits. -/
def fixOf (m : Nat) (e : Int) (p : Nat) : Nat := (ratScale m 1 (e + p)).1

/-- 2^x for x = ±m · 2^e with |x| < 2^10: 2^(floor x) · 2^(fraction). The fraction is exact when p is large enough, else within one unit. -/
def exp2Enclose (neg : Bool) (m : Nat) (e : Int) (p : Nat) : Enclosure × Int :=
  let x : Int := if neg then -(fixOf m e p : Int) - 1 else fixOf m e p
  let k := x / 2 ^ p
  let fr := x % 2 ^ p
  let y := fr * ln2Fix p / 2 ^ p
  let v := expSeries p y (p + 4) 0 (2 ^ p)
  let err : Int := 16 * (p + 4)
  ((v - err, v + err, p), k)

/-- log2 of m · 2^e as an enclosure. -/
def log2Enclose (m : Nat) (e : Int) (p : Nat) : Enclosure :=
  let l := m.log2
  let z : Int := fixOf m (-(l : Int)) p
  let one : Int := 2 ^ p
  let t := (z - one) * one / (z + one)
  let t2 := t * t / one
  let rec go : Nat → Nat → Int → Int
    | 0, _, _ => 0
    | n + 1, k, pw => pw / (2 * k + 1) + go n (k + 1) (pw * t2 / one)
  let ln := 2 * go (p / 3 + 2) 0 t
  let v := ln * one / ln2Fix p
  let err : Int := 32 * (p + 4)
  let base : Int := ((l : Int) + e) * one
  (base + v - err, base + v + err, p)

/-- sin (or cos) of ±m · 2^e as an enclosure: reduced by multiples of π/2 with π to 200 bits more than the result needs. -/
def trigEnclose (cos : Bool) (neg : Bool) (m : Nat) (e : Int) (p : Nat) : Enclosure :=
  let w := p + 200
  let x : Int := fixOf m e w
  let halfPi := piFix w / 2
  let k := x / halfPi
  let r := x % halfPi / 2 ^ 200
  let one : Int := 2 ^ p
  let r2 := r * r / one
  let s := trigSeries p r2 (p / 4 + 8) 1 r
  let c := trigSeries p r2 (p / 4 + 8) 0 one
  let j := (k % 4).toNat
  let j := if cos then (j + 1) % 4 else j
  let v := match j with
    | 0 => s
    | 1 => c
    | 2 => -s
    | _ => -c
  let v := if neg && !cos then -v else v
  let err : Int := 64 * (p + 8)
  (v - err, v + err, p)

/-- Rounds an enclosure's end: v · 2^(k − p), a zero giving no answer. -/
def roundEnd (f : Fp) (v : Int) (p : Nat) (k : Int) : Option (Nat × Exc) :=
  if v = 0 then none else some (f.roundRat .rn false (decide (v < 0)) v.natAbs 1 (k - p))

/-- Raises the precision until both ends of an enclosure round alike. -/
def encloseLoop (f : Fp) (enc : Nat → Enclosure × Int) : Nat → Nat → Nat × Exc
  | 0, _ => (0, 0)
  | n + 1, p =>
    let ((lo, hi, q), k) := enc p
    match roundEnd f lo q k, roundEnd f hi q k with
    | some a, some b => if a.1 = b.1 then a else encloseLoop f enc n (2 * p)
    | _, _ => encloseLoop f enc n (2 * p)

/-- 2^a (R154). -/
def exp2V (a : FVal) : Nat × Exc :=
  let f := Fp.f32
  match f.nanRule [a] with
  | some r => r
  | none =>
    match a with
    | .inf n => if n then (0, 0) else (f.infBits false, 0)
    | .fin n m e =>
      if m = 0 then (0x3F800000, 0)
      else
        let mag := ratLog2 m 1 + e
        if 8 ≤ mag then (if n then (0, excUnderflow) else (f.infBits false, excOverflow))
        else
          let (fl, ex) := roundToInt .rd n m e
          f.fu (if ex then f.roundRat .rn false false 1 1 fl else encloseLoop f (fun p => exp2Enclose n m e p) 5 96)
    | _ => (0, 0)

/-- log2 a (R154). -/
def log2V (a : FVal) : Nat × Exc :=
  let f := Fp.f32
  match f.nanRule [a] with
  | some r => r
  | none =>
    match a with
    | .inf n => if n then f.bad 5 else (f.infBits false, 0)
    | .fin n m e =>
      if m = 0 then (f.infBits true, excDivZero)
      else if n then f.bad 5
      else if m = 2 ^ m.log2 then ((f.roundDyad .rn false false ((m.log2 : Int) + e, 0)).1, 0)
      else f.fu (encloseLoop f (fun p => (log2Enclose m e p, 0)) 5 96)
    | _ => (0, 0)

/-- sin a and cos a (R154). -/
def trigV (cos : Bool) (a : FVal) : Nat × Exc :=
  let f := Fp.f32
  match f.nanRule [a] with
  | some r => r
  | none =>
    match a with
    | .inf _ => f.bad 5
    | .fin n m e => if m = 0 then (if cos then 0x3F800000 else f.sign n 0, 0)
        else f.fu (encloseLoop f (fun p => (trigEnclose cos n m e p, 0)) 5 96)
    | _ => (0, 0)

end Sys2Proof.Machine
end

