-- ==== Sys2Proof/Config.lean ====
section
/-! DEFINITION. Figures of the part (R1 to R5) and the values the manual leaves open, as constants with no body. -/

namespace Sys2Proof.Config

/-- Cores of the package (R2). -/
def numCores : Nat := 2048
/-- Seats of a core (R2). -/
def numSeats : Nat := 64
/-- Registers per lane position of a core (R5). -/
def regsPerLane : Nat := 2048
/-- Tile slots of a core (R67). -/
def numSlots : Nat := 32
/-- Words of a tile slot: 8 KiB (R67). -/
def slotWords : Nat := 2048
/-- Bytes of a scratchpad (R64). -/
def scratchBytes : Nat := 131072
/-- Miss slots of a core (R79). -/
def missSlots : Nat := 128
/-- Copy tags of a core (R80). -/
def copyTags : Nat := 256
/-- Deck bytes of a core (R5, R49). -/
def deckBytes : Nat := 65536
/-- Unpopulated stack offsets start here: 48 GiB (R74). -/
def stackBytes : Nat := 51539607552
/-- Trackable memory of a stack: 43,648 MiB (R277). -/
def trackable : Nat := 45768245248
/-- A not-yet-translated page is 32 KiB (R84). -/
def pageBytes : Nat := 32768
/-- Region ids of an owner (R276). -/
def regionIds : Nat := 8192
/-- Merge-table entries of an owner on one die (R87). -/
def mergeEntries : Nat := 256
/-- L2 TLB entries of an owner on one die (R86). -/
def l2TlbEntries : Nat := 8192

/-! Free values: no body, so nothing can be proved of them. Each is DESIGN CHOICE, safe; its docstring names its row of notes/assumptions. -/

/-- The n-th undefined word: contents of a tile slot at its allocation (R68), of DSTA after a failed collective (R291). Row 3. -/
opaque freeWord : Nat → BitVec 32
/-- ns of fabric time that one slowed device cycle lasts beyond the nominal one (R3, R8). Row 5. -/
opaque slowExtraNs : Nat → Nat
/-- Fabric time `FABT` at the end of bring-up, less `GTIME` (R26, R318). Row 4. -/
opaque fabricOrigin : Nat → Nat
/-- A byte of an argument block that lies on a peer (R350): at a device cycle and an address. Row 34. -/
opaque remoteArgument : Nat → Nat → BitVec 8
/-- Digest of the firmware image (R352). Row 9. -/
opaque firmwareDigest : Nat → BitVec 384
/-- Fuse configuration (R352). Row 9. -/
opaque fuseConfig : Nat → BitVec 384
/-- Certificate chain bytes (R352). Row 9. -/
opaque certificate : Nat → BitVec 8
/-- Bytes of the certificate chain (R352). Row 9. -/
opaque certificateBytes : Nat
/-- Figures of CAPABILITIES that the manual does not give (R352): 0 the time exponent, 1 and 2 the sizes. Row 9. -/
opaque spdmLimit : Nat → BitVec 32
/-- Signature over a transcript (R352): the key is the device's own. Row 9. -/
opaque signature : Nat → List (BitVec 8) → BitVec 768
/-- Bytes of contributions that an owner's reduction partition of a collective engine holds (R315, R316): the admission record fixes no such figure. Row 28. -/
opaque reductionRoom : Nat → Nat
/-- An event count selected at admission (R337): which event a selection names is not given. Row 27. -/
opaque eventCount : Nat → Nat → BitVec 64

end Sys2Proof.Config
end

