-- ==== Sys2Proof/Machine/State.lean ====
section
/-! DEFINITION. The state of the machine, as plain data: everything the manual gives the device, its owners, cores, teams
and groups, the caches and shared structures, the work in flight, and memory. Times of an owner's work are values of its
`OCLK` (R8, R25); a field marked MODEL is the model's own (DESIGN CHOICE; rows 1 to 3 and 48 of notes/assumptions). -/

namespace Sys2Proof.Machine

/-- A finite table by number, ascending, one entry per number. -/
abbrev Map (α : Type) := List (Nat × α)

/-- Bytes by address, in the canonical form of `Memory.wf`: ascending, no entry equal to what an unlisted address reads as. -/
abbrev Memory := List Host.Cell

/-- Words by index in the same canonical form, for registers and accumulator cells: an unlisted word is 0. -/
abbrev Words := List (Nat × Word)

/-! ### Registers, marks and waits of a group -/

/-- A register of a group (R34). -/
inductive RegId where
  | v (n : Nat)
  | s (n : Nat)
deriving DecidableEq, Repr

/-- A scoreboard mark (R46): the register is pending to the end of owner cycle `last`, or until memory operation `op`
answers. -/
structure Mark where
  reg : RegId
  op : Option Nat
  last : Nat
deriving DecidableEq, Repr

/-- A thread in a lane (R35): its `TID`, and JMASK (R49, R51). -/
structure Thread where
  tid : Nat
  jmask : BitVec 8
deriving DecidableEq, Repr

/-- A handle h0 to h15 (R67, R70, R332): slots in handle order and the generation of the first. A handle never allocated has no
slots; a released one keeps those of its last allocation. -/
structure HandleReg where
  live : Bool
  slots : List Nat
  gen : BitVec 8
deriving DecidableEq, Repr

/-- A code line that a group holds or has requested (R246): `ready` is the first owner cycle in which it can be issued
from, none while its fetch is in flight as operation `op`. -/
structure CodeLine where
  line : Nat
  ready : Option Nat
  op : Option Nat
  bytes : List Byte
  /-- Refetched once after a parity mismatch (R117). -/
  again : Bool
  /-- The line word has been checked by this group (R118). -/
  checked : Bool
  /-- The group has requested the next sequential line (R246). -/
  next : Bool
deriving DecidableEq, Repr

/-- A program trap with its trap-register values (R325, R326). -/
structure TrapInfo where
  cause : Nat
  sub : Nat
  addr : DWord
  mask : Word
  lane : Nat
deriving DecidableEq, Repr

/-- A held or pending MMX (R279), or a SOLVE-NC that came while PRE was handled: in issue order, `copy` tells a copy's. -/
structure HeldMmx where
  /-- Cycle of issue and number of its operation. -/
  issued : Nat
  order : Nat
  /-- Cycle in which it was raised. -/
  raised : Nat
  copy : Bool
  info : TrapInfo
  /-- Tile slots of a `TLD` whose marks clear when the trap is taken. -/
  slots : List Nat := []
deriving DecidableEq, Repr

/-- Enabled floating-point exceptions that an instruction of the play raised (R326, R328). -/
structure FpeNote where
  pc : Nat
  flags : BitVec 5
  mask : Word
deriving DecidableEq, Repr

/-- What an issued instruction makes its group wait for (R44). -/
inductive Wait where
  /-- `BARW` and `BARV`: until the generation changes (R174); the acquire at scope `acq` follows, none for `.rlx`. -/
  | barrier (cluster : Bool) (num gen : Nat) (acq : Option Nat)
  /-- A held seat at `REFORM` (R51), with the live count and the PC of the `REFORM`. -/
  | join (jn live pc : Nat)
  /-- A fence: earlier operations up to `upTo` at scope `scope`, stores among them with a release part; then the acquire at `acq`, and the status to s
  register `dst` (R182 to R185). `SYSF` waits no longer than to the fabric time `limit` (R185). -/
  | fence (rel : Bool) (upTo scope acq : Nat) (dst limit : Option Nat)
  /-- `XFENCE`: operations of a path up to `upTo` (R183). -/
  | xfence (path upTo : Nat)
  /-- A memory operation that must answer first: an `ATF` attempt, a parked access (R88, R180). -/
  | op (id : Nat)
  /-- A solve rendezvous (R235): kind 0 `SOLB`, 1 `SOLE`, 2 `SOLX`. -/
  | solve (kind sid : Nat) (cluster : Bool)
  /-- `DBG` (R339). -/
  | debug
  /-- `YIELD.done` until the switch (R27, R172). -/
  | yielded
  /-- A rise of the register allotment of a group re-dealt into a held seat (R51). -/
  | rise (regs : Nat)
deriving DecidableEq, Repr

/-- What an instruction read when it first came to issue, for one that issues again (R123, R133, R180): its PC, registers and latches. -/
structure Reads where
  pc : Nat
  vregs : Words
  sregs : Words
  latches : Map (Map DWord)
deriving DecidableEq, Repr

/-- What a handler returns to (R327): the resume PC, and whether the trap was PRE (R28). -/
structure Handling where
  resume : Nat
  pre : Bool
  /-- The trap's cause word, if a fatal fault of the same cycle leaves it untaken (R329). -/
  cause : Word
  cycle : Nat
  /-- `TRAPC`, `TRAPA` and `TRAPM` as they stood before. -/
  old : Word × DWord × Word
  /-- A wait that the trap came into, and the pair whose `ATF` was still to complete: the group goes back to them (R56, R295, R328). -/
  wait : Option Wait
  half : Option Nat
  reads : Option Reads
deriving DecidableEq, Repr

/-- A group (R34). Lane register `r` of lane `l` is word 1,024·l + r of `vregs`. -/
structure Group where
  /-- Lane to thread: the active lanes (R35). -/
  threads : Map Thread
  pc : Nat
  vregs : Words
  sregs : Words
  /-- Registers per lane (R39, R40). -/
  allot : Nat
  /-- Handle permission H (R40). -/
  hperm : Nat
  /-- Physical origins held: a0, then a1 (R40). -/
  origins : List Nat
  handles : Map HandleReg
  marks : List Mark
  lines : List CodeLine
  /-- The next issue checks TMASK for its PC (R50, R120). -/
  tcheck : Bool
  trapv : DWord
  trapc : Word
  trapa : DWord
  trapm : Word
  handling : Option Handling
  mmx : List HeldMmx
  segsp : DWord
  segst : DWord
  seggl : DWord
  /-- `RCNT` (R287), and the cycles at whose end a further instruction retires. -/
  rcnt : Nat
  late : List Nat
  /-- The group has come to hold the token, and its acquire is still to be performed (R285). -/
  acqDue : Bool
  /-- PASS of `TOKS` (R286). -/
  pass : Nat
  csn : DWord
  /-- Current region id (R275); none on a core whose owner tracks none yet. -/
  region : Option Nat
  wait : Option Wait
  /-- First owner cycle in which the group may issue again after a wait ended. -/
  wake : Nat
  fpe : List FpeNote
  /-- Cause word of the group's fatal fault or untaken trap (R332). -/
  faultWord : Word
  /-- Tells the group from every other that the core has seated since the team's admission (MODEL). -/
  uid : Nat
  /-- PC of a pair whose `ATF` is still to complete, its other instruction having issued (R44, R180). -/
  half : Option Nat
  /-- What the `ATF` whose attempts it makes has read (R180). -/
  reads : Option Reads
  /-- Worst failure of remote work that no fence has reported yet (R181): 1 PEER-LOST, 2 PLANE-LOST, and the device. -/
  remote : Option (Nat × Nat)
  /-- Registers whose word has an uncorrectable error (R335): the lane, none for a scalar register, and the number. -/
  bad : List (Option Nat × Nat) := []
deriving DecidableEq, Repr

/-- A seat (R43, R51). -/
inductive Seat where
  | group (g : Group)
  /-- A seat whose group has gone, until the re-balance. -/
  | blank
deriving DecidableEq, Repr

/-! ### Memory operations in flight -/

/-- The decoded leaf of a translation (R85): target, device, base of the frame, log2 of the mapping, and the flags. -/
structure Leaf where
  tgt : Nat
  dev : Nat
  frame : Nat
  bits : Nat
  rmf : Bool
  untr : Bool
  shrd : Bool
  x : Bool
  w : Bool
deriving DecidableEq, Repr

/-- One access of an operation: a lane's, or a piece of one that is not made by lanes (R87). -/
structure Access where
  lane : Nat
  /-- Generic address (R60). -/
  ga : DWord
  /-- Virtual address (R62). -/
  va : Nat
  bytes : Nat
  /-- Store data, or the operand x of an atomic. -/
  data : List Byte
  /-- The operand y of `ATCAS`. -/
  cmp : List Byte
  /-- Bytes read. -/
  res : List Byte
  /-- The access met a race conflict (R279). -/
  bad : Bool
  /-- It lies in the stack window: lines of different windows are handled separately (R79). -/
  stack : Bool := false
deriving DecidableEq, Repr

/-- Where the translation of a page stands (R86, R87, R250). -/
inductive PageState where
  /-- To be looked up in the L1 TLB. -/
  | start
  /-- At the L2 TLB from owner cycle `arr` on. -/
  | atTlb (arr : Nat)
  /-- On a walk. -/
  | walking
  /-- The answer reaches the core at the end of cycle `at_`. -/
  | answer (at_ : Nat) (leaf : Leaf)
  /-- The walk has ended at `at_` with a fault, by its cause: a malformed entry, a failed colour check, an entry with an uncorrectable error. -/
  | failed (at_ : Nat) (cause : Nat)
  /-- At the merge table from `arr` on, with the level whose V was 0 (R87). -/
  | toMerge (arr lvl : Nat)
  /-- On the merge table's list. -/
  | parked
  /-- Translated. -/
  | done (leaf : Leaf)
deriving DecidableEq, Repr

/-- A page that an operation touches. -/
structure Page where
  vpn : Nat
  /-- Lane and virtual address of the first access to it (R87). -/
  lane : Nat
  va : Nat
  st : PageState
deriving DecidableEq, Repr

/-- The leaf of a page whose translation has been answered at the core. -/
def Page.leaf? (p : Page) : Option Leaf :=
  match p.st with
  | .done l => some l
  | _ => none

/-- Where a line request stands (R247, R248). -/
inductive LineState where
  /-- Waits at the core for injection, from cycle `from_` on. -/
  | queued (from_ : Nat)
  /-- On its way to or at its slice, from `arr` on. -/
  | atSlice (arr : Nat)
  /-- On its way to or at the stack's controller, from `arr` on. -/
  | atHbm (arr : Nat)
  /-- The access has begun; the line is at the slice at `at_`. -/
  | filling (at_ : Nat)
  /-- Data or acknowledgement reaches the core at `at_`. -/
  | back (at_ : Nat)
  /-- Waits at the CXL port, from `arr` on (R19). -/
  | atPort (arr : Nat)
  /-- Beyond the package: at the host or at a peer (R255), since `since` ns of fabric time. -/
  | outside (since plane : Nat)
  | done
deriving DecidableEq, Repr

/-- A line request of an operation. `addr` is the physical line address of device memory, a host address, or a virtual
address at the peer, by `leaf.tgt`. -/
structure LineReq where
  addr : Nat
  va : Nat
  leaf : Leaf
  st : LineState
  /-- It hit the L1, so it holds no miss slot (R79). -/
  hit : Bool
  /-- Its data goes into the L1: no store, atomic or acquire has removed the line since (R75). -/
  fill : Bool
  /-- It has been performed. -/
  performed : Bool
  bytes : List Byte
  /-- Its accesses lie in the stack window (R79). -/
  stack : Bool := false
  /-- Its target keeps it waiting for a page: the group is parked (R312). -/
  kept : Bool := false
deriving DecidableEq, Repr

/-- A byte that a store wrote into a write-combining buffer (R76, R77): offset in its line, value, and for the values of MMX
(R279) the store operation, its lane and the byte's generic address. -/
structure WByte where
  off : Nat
  val : Byte
  op : Nat
  lane : Nat
  ga : DWord
deriving DecidableEq, Repr

/-- A write-combined line: the bytes written, by ascending offset. -/
abbrev MaskedLine := List WByte

/-- What a read serves that an instruction needs before it can take effect (R81, R170, R220): a layout record, a collective's descriptor or member table, a
target line of `CALLI`. -/
inductive ProbeUse where
  | record | command | code
deriving DecidableEq, Repr

/-- What a memory operation does (R197). -/
inductive OpKind where
  | load (sx nl1 ldi : Bool)
  | store
  | atomic (op : AtomOp)
  /-- One `ATF` attempt: condition, signed (R180). -/
  | atf (cc : Nat) (sgn : Bool)
  | pref (l1 : Bool)
  | fetch (line : Nat)
  /-- `TLD` into slots `slots`; `TST` out of them (R211). -/
  | tld (slots : List Nat) (type : Nat) (scl : Bool)
  | tst (slots : List Nat) (type : Nat) (scl : Bool)
  /-- The packet read of `LAUNCH` (R187). -/
  | packet
  | probe (use : ProbeUse)
  | tqpop | tqsteal | tqdone
  /-- A drain of the write-combining buffer, of the remote one, for operations `ops` (R76, R77). -/
  | drain (mask : MaskedLine) (ops : List Nat) (region : Option Nat)
  | remoteDrain (mask : MaskedLine) (ops : List Nat)
  /-- A copy's read or write of one piece of its queue's running copy (R80). -/
  | copyRead (quad : Nat) | copyWrite (quad : Nat)
  /-- A write of the device's own for the group: trace records (R289), deck overflow (R49). -/
  | systemStore
deriving DecidableEq, Repr

/-- A memory operation. Its number orders the operations of the core. -/
structure MemOp where
  kind : OpKind
  seat : Nat
  /-- The group, and the threads that took part. -/
  uid : Nat
  tids : List Nat
  /-- Their lanes, in the same order. -/
  lanes : List Nat
  quad : Nat
  lgid : Nat
  region : Option Nat
  pc : Nat
  /-- Owner cycle of issue. -/
  issued : Nat
  acc : List Access
  /-- Accesses to the scratchpad, with the offset in the place of the virtual address; performed when the operation has every translation. -/
  scr : List Access
  pages : List Page
  /-- Line requests, once every page is translated. -/
  lines : List LineReq
  /-- Translated and, for a store, in the write-combining buffer. -/
  entered : Bool
  dst : Option RegId
  size : Nat
  /-- A returning access (R176). -/
  returning : Bool
  /-- Lanes that receive the one value of a scalar-form access (R196). -/
  bcast : List Nat
  /-- `.acq`: the acquire at this scope when it completes (R262). -/
  acq : Option Nat
  /-- Race conflict reported with the answer (R279): subcause, other group, lane, address. -/
  conflict : Option (Nat × Nat × Nat × DWord)
  /-- A failure answer waits to be raised: cause, address; and the peer from which it came (R313). -/
  failed : Option (Nat × DWord)
  failDev : Option Nat
  /-- Its result is written no earlier than the end of this cycle (R244). -/
  notBefore : Nat
  /-- Its instruction has retired, or does not count (R287, R292). -/
  counted : Bool
  /-- A drain that goes ahead of the access to its line: the operation of that access (R76, R261). -/
  ahead : Option Nat
  /-- The windows of its group at issue, for the entry of a queue step (R216). -/
  segs : DWord × DWord × DWord
  /-- What its instruction read, for one of a pair: executed again, it reads the same (R88, R123). -/
  reads : Option Reads
deriving DecidableEq, Repr

/-- An entry of the write-combining buffer (R76). -/
structure WcEntry where
  line : Nat
  leaf : Leaf
  mask : MaskedLine
  ops : List Nat
  region : Option Nat
  born : Nat
deriving DecidableEq, Repr

/-- An entry of the remote write-combining buffer (R77). -/
structure RwcEntry where
  dev : Nat
  line : Nat
  leaf : Leaf
  mask : MaskedLine
  ops : List Nat
  born : Nat
deriving DecidableEq, Repr

/-- A line of the L1 (R75, R355). `used` grows with every use: the recency. -/
structure L1Line where
  line : Nat
  host : Bool
  code : Bool
  used : Nat
  bytes : List Byte
  /-- It has an uncorrectable error (R335). -/
  bad : Bool := false
deriving DecidableEq, Repr

/-- An entry of a TLB (R86, R355): the first page it maps, its leaf, recency. -/
structure TlbEntry where
  vpn : Nat
  leaf : Leaf
  used : Nat
  /-- It has an uncorrectable error (R335). -/
  bad : Bool := false
deriving DecidableEq, Repr

/-! ### Tile store, engines, copies -/

/-- What holds a tile slot (R68, R332). -/
inductive SlotUse where
  | free
  | handle (seat num : Nat)
  | mailbox (num : Nat)
  | solve (lgid sid : Nat)
  /-- Released, with commands or copies still in flight. -/
  | draining
deriving DecidableEq, Repr

/-- A tile slot (R67): 2,048 words of tile, 512 of sidecar and the band word, at index 2,560. A word that no write has reached since
the allocation is the free value `Config.freeWord (base + index)`. -/
structure Slot where
  use : SlotUse
  /-- A word of the slot has an uncorrectable error (R335). -/
  error : Bool
  gen : BitVec 8
  base : Nat
  words : Map Word
  /-- Writes pending, commands reading (R46). -/
  pending : Nat
  reading : Nat
deriving DecidableEq, Repr

/-- What a mailbox holds (R69). -/
structure Mail where
  slots : List Nat
  gen : BitVec 8
deriving DecidableEq, Repr

/-- An engine command of R223. -/
inductive EngineOp where
  | mma (zc nsa nsb : Bool) (fa fb : Nat) (ha hb : List Nat)
  | mmas (zc nsa nsb : Bool) (fa fb : Nat) (ha hb hb2 hm : List Nat)
  | mmab (zc nsa nsb : Bool) (fa fb : Nat) (ha : List Nat) (hb : Option (List Nat)) (w : DWord) (ch index : Nat)
  | mma64 (zc bh : Bool) (ha hb : List Nat)
  | mmai (zc sat : Bool) (ha hb : List Nat)
  | acz
  | acst (transposed sr sat : Bool) (ofs fa fb : Nat) (hd : List Nat) (salt : Word) (seed : DWord)
  | cvtb (sr sat : Bool) (sf df : Nat) (ha hd : List Nat) (salt : Word) (seed : DWord)
  | bscl (sr : Bool) (df : Nat) (ha hb hd : List Nat) (salt : Word) (seed : DWord)
deriving DecidableEq, Repr

/-- A command in an engine's queue (R223, R251). -/
structure EngineCmd where
  op : EngineOp
  seat : Nat
  uid : Nat
  lgid : Nat
  pc : Nat
  csn : DWord
  org : Option Nat
  issued : Nat
  /-- The threads that issued it (R259). -/
  tids : List Nat
  /-- Cycle b, once it has begun. -/
  begun : Option Nat
  /-- D (R251). -/
  d : Nat
  /-- Of a broadcast whose members have all joined: the source's core and slots of B (R230). -/
  src : Option (Nat × List Nat)
  /-- A fault keeps it from writing anything. -/
  bad : Bool
  /-- Read marks are cleared, and what the command will write is fixed: origin cells, and slot words by slot. -/
  read : Bool
  cells : Words
  tiles : Map (Map Word)
deriving DecidableEq, Repr

/-- A physical origin of an engine (R40, R73). -/
structure Origin where
  holder : Option Nat
  cells : Words
  pending : Nat
  reading : Nat
  /-- Released, with commands still naming it. -/
  draining : Bool
  /-- A cell has an uncorrectable error (R335). -/
  bad : Bool := false
deriving DecidableEq, Repr

/-- An endpoint of a copy (R80): a generic address, with the issuer's windows, or the slots of a handle (R202). -/
inductive Endpoint where
  | addr (a : DWord)
  | handle (slots : List Nat)
  /-- A fill pattern (R205). -/
  | pattern (p : Word)
  /-- The tensor of a layout record with its start coordinates (R81, R82). -/
  | tensor (base : DWord) (ext str : List Nat) (start : List Int) (edge : Nat) (repb : Bool)
  /-- A handle that a box is packed into: line i holds the elements with second box index i (R82). -/
  | lines (slots : List Nat)
deriving DecidableEq, Repr

/-- Source data of a piece of a copy that has reached the core: the unit it starts at, the leaf it was read through, its line when it came from
beyond the package, the cycle, and a race conflict met by the read (units before it, other group, address). -/
structure CopyData where
  pos : Nat
  leaf : Option Leaf
  bytes : List Byte
  ready : Nat
  bad : Option (Nat × Nat × DWord)
  /-- A fault that the read met: cause, subcause, address. -/
  fail : Option (Nat × Nat × DWord)
deriving DecidableEq, Repr

/-- A copy (R202). It moves `count` units in order: bytes, or box elements. `readPos`, `writePos` and `done` count the units asked for, handed to
their write, and written (R83). -/
structure Copy where
  src : Endpoint
  dst : Endpoint
  count : Nat
  /-- Half-bytes of a unit, and the box of a `CPT` (R81); none for a linear copy. -/
  halves : Nat
  box : List Nat
  seat : Nat
  uid : Nat
  lgid : Nat
  region : Option Nat
  pc : Nat
  csn : DWord
  ticket : Word
  segsp : DWord
  segst : DWord
  seggl : DWord
  /-- The number and the cycle of its issue. -/
  issued : Nat
  cycle : Nat
  /-- The threads that issued it (R259). -/
  tids : List Nat
  started : Bool
  data : List CopyData
  readPos : Nat
  writePos : Nat
  done : Nat
  /-- Stopped by a conflict, a fault or a halt; by a fault or a halt, so that it never completes (R83, R330). -/
  stopped : Bool
  faulted : Bool
  /-- Last cycle in which a write was performed or acknowledged. -/
  last : Nat
  /-- Scratchpad lines it has still to write, each with the last unit that writes into it (R65, R66). -/
  lines : List (Nat × Nat)
  /-- A half-byte that waits for its byte's other half, with the leaf it is written through (R204). -/
  carry : Option (Option Leaf × List Byte)
deriving DecidableEq, Repr

/-- A completed copy that `CPQ` can still report (R206): sequence number and bytes. -/
structure CopyDone where
  seq : Nat
  bytes : Nat
deriving DecidableEq, Repr

/-- A quadrant of a core (R2). -/
structure Quad where
  /-- Seats of the rotation (R43), ascending. -/
  rotation : List Nat
  /-- The seat whose slot it is, with the owner cycle in which the slot began. -/
  holder : Option (Nat × Nat)
  /-- The play has ended (R44). -/
  ended : Bool
  /-- Latches b0 to b3 (R45): the value per lane, none when empty. -/
  latches : Map (Map DWord)
  /-- Owner cycle to whose end the multiply-add unit is occupied (R245). -/
  fmaBusy : Nat
  engine : List EngineCmd
  origins : Map Origin
  copies : List Copy
  done : List CopyDone
  /-- Copies enqueued and completed since the team's admission (R202, R206). -/
  enqueued : Nat
  completed : Nat
  /-- Numbered commands so far (R336). -/
  seq : Nat
deriving DecidableEq, Repr

/-! ### Teams -/

/-- A barrier (R55). -/
structure Barrier where
  c : Nat
  a : Nat
  g : BitVec 16
  counted : Bool
  /-- Arrivals and a `BARM` of the current cycle (R175). -/
  newA : Nat
  newC : Option Nat
  /-- The widest scope at which an arrival of the generation orders, 0 for none (R75, R173). -/
  ord : Nat
deriving DecidableEq, Repr

/-- A join counter (R51), with the largest allotment of its arrivals. -/
structure Join where
  e : Nat
  a : Nat
  budget : Nat
deriving DecidableEq, Repr

/-- A spawn record of the deck (R49). `overflow` tells where it stands. -/
structure DeckRec where
  pc : Nat
  tid : Nat
  l : Nat
  bud : Nat
  jmask : BitVec 8
  jn : Nat
  jwait : Bool
  tcheck : Bool
  stamp : Nat
  regs : List Word
  overflow : Bool
  /-- `TRAPV` of the group it left (R324). -/
  trapv : DWord
  /-- Logical id of the group it left, and its windows. -/
  lgid : Nat
  segs : DWord × DWord × DWord
  /-- The lowest `TID` of the group that the thread has been dealt to, while that group waits for a seat (R51, R281). -/
  bundle : Option Nat
  /-- That group may be seated: false for a re-dealt one until its DET team is quiescent (R281). -/
  due : Bool
  /-- It has an uncorrectable error (R335). -/
  bad : Bool := false
deriving DecidableEq, Repr

/-- A participant of a region (R235, R236): its core, logical id, threads, and the seat that arrived for it last; handle numbers of x and g, and for each
carried tile its slot count and the history slots it took. `arrived` is the cycle in which its arrival counts (R300). -/
structure Participant where
  core : Nat
  lgid : Nat
  seat : Nat
  uid : Nat
  tids : List Nat
  xh : List Nat
  gh : List Nat
  counts : List Nat
  history : List (List Nat)
  arrived : Option Nat
  /-- PC of the instruction that it arrived with last. -/
  pc : Nat
deriving DecidableEq, Repr

/-- A step in progress (R237, R300): the cycle r of its rendezvous, T, the state it leaves (1 mixed), and what it leaves; words to write by
32·core + slot. -/
structure SolveStep where
  r : Nat
  t : Nat
  st : Nat
  it : Nat
  best : DWord
  last : DWord
  hist : List Nat
  writes : Map (Map Word)
deriving DecidableEq, Repr

/-- A solve region (R296, R298). FP64 values are bit patterns. -/
structure Region where
  st : Nat
  /-- CLU of `SOLSTAT`: last opened at cluster scope; `clu` is that of the `SOLB` in progress or last completed. -/
  cluster : Bool
  clu : Bool
  /-- Awaiting its `SOLB` rendezvous; open. -/
  busy : Bool
  isOpen : Bool
  it : Nat
  best : DWord
  last : DWord
  parts : List Participant
  /-- Kind of the rendezvous in progress: 0 `SOLB`, 1 `SOLE`, 2 `SOLX`. -/
  kind : Nat
  start : Nat
  nc : Nat
  m : Nat
  l2 : Bool
  cf : Bool
  /-- History entries, oldest first: the index of the history slots that hold each (R238). -/
  hist : List Nat
  step : Option SolveStep
  /-- What other cores of a cluster still see, to the end of a cycle (R300): state, it, last, best, entries. -/
  prev : Option (Nat × Nat × Nat × DWord × DWord × Nat)
  /-- Cycle in which the latest `SOLB` rendezvous of the record completed, and what those cores see of it. -/
  opened : Option Nat
  was : Option Nat
  /-- The last mixing, with a β or λ that is not finite, has left an x that is not finite (R299). -/
  broken : Bool
  /-- `SOLVE-NC` on its way to the other cores of a cluster (R300): the cycle, core, seat, group and `it`. -/
  traps : List (Nat × Nat × Nat × Nat × Nat)
  /-- Releases and outcomes on their way to those cores (R300): the cycle, the participant, and the PC at which it goes on, if not its own. -/
  outs : List (Nat × Participant × Option Nat)
deriving DecidableEq, Repr

/-- A team on its core (R34, R35). -/
structure Team where
  owner : Nat
  grid : Nat
  teamId : Nat
  cluId : Nat
  /-- Cluster number among the owner's live clusters, and place in cluster order; none for a team outside a declared one. -/
  cluster : Option (Nat × Nat)
  /-- Threads at admission, and those that have exited. -/
  threads : Nat
  exited : List Nat
  srseed : DWord
  solthr : DWord
  solmax : Word
  solbeta : Word
  sollam : DWord
  /-- Cycle and logical id of the latest `MTS` to each of the four (R299). -/
  solBy : Map (Nat × Nat)
  barriers : Map Barrier
  joins : Map Join
  deck : List DeckRec
  mail : Map Mail
  /-- Broadcasts that each engine has joined, at 64·channel + engine, of a team outside a declared cluster (R229, R230). -/
  joined : Map Nat
  regions : Map Region
  /-- Admission cycle. -/
  admitted : Nat
  /-- Steal-log index of the team's first entry and the number it made (R288). -/
  stlx : Option Nat
  nstl : Nat
deriving DecidableEq, Repr

/-- A request for registers, origins or tile slots that waits (R42, R67). -/
structure Demand where
  seat : Nat
  lgid : Nat
  since : Nat
  regs : Nat
  orgs : Nat
  /-- Slots of a `HALLOC` to handle `handle`, whose own slots it frees first. -/
  slots : Nat
  handle : Nat
  /-- Granted, and reserved until the instruction issues. -/
  granted : Bool
deriving DecidableEq, Repr

/-- A halt of a core (R330). -/
structure Halt where
  cycle : Nat
  cause : Nat
  sub : Nat
  pc : Nat
  csn : DWord
  lgid : Nat
  addr : DWord
  /-- The peer whose answer or loss it is (R313). -/
  dev : Option Nat
  /-- Halted by a cluster halt (R302). -/
  byCluster : Bool
  /-- The drain ended in this cycle; then the dump was written. -/
  drained : Option Nat
  dumped : Bool
deriving DecidableEq, Repr

/-- A core (R2, R5). -/
structure Core where
  owner : Option Nat
  team : Option Team
  seats : Map Seat
  quads : Map Quad
  /-- Scratchpad bytes, empty lines and race records (R64, R277). -/
  sp : Memory
  spEmpty : List Nat
  /-- Bytes and empty lines as they stood before the accesses of this cycle that are performed at its end, and the lines that these set full (R257). -/
  before : Option (Memory × List Nat × List Nat) := none
  spRace : Map (BitVec 128)
  /-- Words of 8 bytes of the scratchpad with an uncorrectable error, and lines whose race record has one (R335). -/
  spBad : List Nat := []
  spRaceBad : List Nat := []
  slots : Map Slot
  l1 : List L1Line
  tlb : List TlbEntry
  wc : List WcEntry
  rwc : List RwcEntry
  ops : Map MemOp
  nextOp : Nat
  nextUid : Nat
  /-- Grows with every use of an L1 line or a TLB entry (R355). -/
  useClock : Nat
  /-- Last owner cycle in which the core injected a request (R247). -/
  injected : Option Nat
  /-- Quadrant whose queue the copy unit served last (R80). -/
  copyLast : Nat
  demands : List Demand
  /-- `HTAKE` and `HPUT` instructions that wait: mailbox, seat, logical id, since, take (R90). -/
  mailWaits : List (Nat × Nat × Nat × Nat × Bool)
  halt : Option Halt
  /-- Fatal faults of the current cycle, for the primary fault (R330). -/
  faults : List Halt
  dumpbase : DWord
  /-- Cluster halts due: the owner cycle (R302). -/
  haltDue : Option Nat
deriving DecidableEq, Repr

/-! ### Owners -/

/-- A launch packet (R350). -/
structure Packet where
  entry : Nat
  argb : Nat
  argm : DWord
  segsp : DWord
  segst : DWord
  seggl : DWord
  stkb : DWord
  dovb : DWord
  srseed : DWord
  trapv : DWord
  traceb : DWord
  gridid : Word
  teams : Nat
  wthr : Word
  nlog : Nat
  groups : Nat
  cw : Nat
  ch : Nat
  wevent : Nat
  wen : Bool
  cevent : Nat
  prio : Nat
  det : Bool
  trm : Nat
  priv : Bool
  gta : Bool
  fta : Bool
  dbg : Bool
deriving DecidableEq, Repr

/-- A grid that has left its queue (R37, R38). -/
structure Grid where
  id : Nat
  packet : Packet
  /-- Next team to admit, and teams whose threads have all exited and whose work has drained. -/
  nextTeam : Nat
  ended : Nat
  order : Nat
  /-- The key of the commit token (R282); none when no thread is left. -/
  key : Option Nat
  /-- `TQSTEAL` results so far (R289, R290). -/
  steals : Nat
  /-- Threads that have exited, as keys, for the token (R283). -/
  gone : List Nat
  /-- The stores that make the dispatch trace valid have been started (R289). -/
  sealed : Bool
deriving DecidableEq, Repr

/-- A live declared cluster (R34, R35): its cores in cluster order, 2,048 in the place of one whose team has ended, its barriers, the number of
broadcasts per channel and engine (R230). -/
structure Cluster where
  grid : Nat
  cluId : Nat
  cores : List Nat
  /-- Threads that have not exited. -/
  alive : Nat
  barriers : Map Barrier
  /-- Broadcast index that engine e joins next on channel c, at 64·c + e. -/
  joined : Map Nat
  regions : Map Region
deriving DecidableEq, Repr

/-- A launch queue (R36, R349): packets not yet gone, oldest first, and the ring's positions. -/
structure Queue where
  packets : List Packet
  written : Nat
  taken : Nat
deriving DecidableEq, Repr

/-- A token pool (R29): `next` is the refill of the next session. -/
structure Pool where
  cap : Nat
  refill : Nat
  next : Nat
  level : Nat
deriving DecidableEq, Repr

/-- A record ring (R348): PI, a pending DROP flag, and records that wait for room. -/
structure Ring where
  pi : Nat
  drop : Bool
  waiting : List (List Byte)
deriving DecidableEq, Repr

/-- The state of a region id (R275, R276): the logical id of its group at the start, whether the group is still in it, and the
operations of the region that have not been performed. -/
structure RegionId where
  lgid : Nat
  core : Nat
  current : Bool
  open_ : Nat
deriving DecidableEq, Repr

/-- A recorded generation of a fabric barrier (R318): arrivals by rank, in ns after the earliest; the missing ranks of a LATE one; the ranks whose lag bit is set. -/
structure Generation where
  arr : List Nat
  late : Option (List Nat)
  lag : List Nat
deriving DecidableEq, Repr

/-- A scorecard (R317, R318): members by rank, generations newest first; by device, the stamps received and not yet recorded, each with its serial number and its
fabric time, and how many of this device's collectives under the tag had that device as a member. -/
structure Card where
  members : List Nat
  gens : List Generation
  stamps : Map (List (Nat × Nat))
  serials : Map Nat
deriving DecidableEq, Repr

/-- A failure of a collective that is known before its command issues here (R315, R316): the STATUS of a notice that has come; or a contribution that found no room, with
the ranks present in the chunk that it is LATE for, and the device if that chunk's members are known. -/
structure EarlyFail where
  tag : Nat
  /-- The device whose flit it is, and that flit's serial number. -/
  from_ : Nat
  serial : Nat
  code : Nat
  dev : Option Nat
  present_ : Option (List Nat)
  missing : List Nat
  declared : Nat
deriving DecidableEq, Repr

/-- A page that is not present and that a collective's engine waits for: the address, whether it is to be written, the generic address, and since which owner cycle. -/
structure EnginePage where
  va : Nat
  write : Bool
  ga : DWord
  since : Nat
deriving DecidableEq, Repr

/-- A collective command (R220, R221, R315), with the threads that issued it (R259). -/
structure Coll where
  core : Nat
  seat : Nat
  uid : Nat
  tids : List Nat
  lgid : Nat
  region : Option Nat
  csn : DWord
  pc : Nat
  /-- The issuer's windows; the descriptor's address, SRC and DSTA as generic addresses, and its figures. -/
  segsp : DWord
  seggl : DWord
  desc : DWord
  src : DWord
  dsta : DWord
  count : Nat
  op : Nat
  wire : Nat
  red : Nat
  root : Nat
  members : List Nat
  tag : Nat
  rank : Nat
  /-- Fabric time of the issue. -/
  issued : Nat
  /-- Blocks and chunks of DSTA received so far. -/
  got : List (Nat × Nat)
  /-- Failure code and device (R316), with the ranks whose contribution was missing and the fabric time of the declaration (R318). -/
  code : Option (Nat × Nat)
  missing : List Nat
  declared : Nat
  /-- By rank, the number by which the messages between the member and this device are known (`Contribution.serial`). -/
  serials : List Nat
  /-- Data may move, so that a failure leaves DSTA undefined: false for a `COLL` that MISMATCH ends at issue, or a remembered TAG (R221, R314). -/
  moves : Bool
  /-- A page that an access of the engine has found not present (R87, R88). -/
  page : Option EnginePage
  /-- Chunk sends begun, in the order of `Coll.sends` (R19, R255), and whether all have; blocks and chunks that it has reduced as their home. -/
  begun : Nat
  sent : Bool
  reduced : List (Nat × Nat)
deriving DecidableEq, Repr

/-- A contribution that waits at a home, or a result that waits for its command (R315): its device and rank, the serial number of its collective, the fabric time at
which it came, and whether the descriptors agree (R221). -/
structure Waiting where
  tag : Nat
  serial : Nat
  dev : Nat
  rank : Nat
  result : Bool
  block : Nat
  chunk : Nat
  since : Nat
  agrees : Bool
  data : List Byte
deriving DecidableEq, Repr

/-- The fields of an admission record (R345). -/
structure AdmitRecord where
  l1table : Nat
  faultq : Nat
  errlog : Nat
  telem : Nat
  debug : Nat
  trades : Nat
  queues : List Nat
  dumpbase : DWord
  pasid : Nat
  ctx : Nat
  lf : Nat
  lq : Nat
  tick : Nat
  banks : List DWord
  savb : List DWord
  grade : Nat
  lt : Nat
  ways : Nat
  tlbShare : Nat
  replay : List Nat
  counters : List Nat
  raw : List Byte
deriving DecidableEq, Repr

/-- An entry of the merge table (R87): its page, the operations that wait on it, by core and number, and the fault record while it waits for room
in the fault queue (R348). -/
structure MergeEntry where
  vpn : Nat
  waiters : List (Nat × Nat)
  /-- Its record while that waits for the CXL port, and the owner cycle since which it does. -/
  record : Option (List Byte)
  since : Nat
deriving DecidableEq, Repr

/-- An owner's partition of what lies on one die (R12, R87, R221). -/
structure DiePart where
  pool : Pool
  tlb : List TlbEntry
  merge : List MergeEntry
  waiting : List Waiting
  colls : Map Coll
deriving DecidableEq, Repr

/-- An owner (R6, R12). -/
structure Owner where
  admitted : Bool
  resident : Bool
  record : AdmitRecord
  oclk : Nat
  assigned : List Nat
  held : List Nat
  /-- The state of its cores while it is switched out (R27, R345). -/
  saved : Map Core
  dies : Map DiePart
  queues : Map Queue
  ldbst : Word
  events : Words
  grids : List Grid
  nextGrid : Nat
  clusters : Map Cluster
  nextCluster : Nat
  adseq : Nat
  strgt : Word
  strgp : Word
  cards : Map Card
  /-- TAG, code and device of the last 64 failed collectives, newest first (R314). -/
  failedTags : List (Nat × Nat × Nat)
  /-- Failures of collectives that have not issued here (R316). -/
  early : List EarlyFail
  regions : Map RegionId
  rings : Map Ring
  /-- Counters C0 and C1 of a unit, by its UNIT word (R337). -/
  counters : Map (Nat × Nat)
  /-- What the latest latch of a unit held in C2 to C5, with the owner cycle of the latch (R337). -/
  picked : Map (Nat × List Nat)
  /-- UNIT words of the units that have served the owner in the present cycle (MODEL). -/
  served : List Nat
  /-- Snapshot latches due: owner cycle, tag, logical id (R338). -/
  snap : List (Nat × Nat × Nat)
  /-- Next collective number. -/
  nextColl : Nat
  /-- Grows with every use of an L2 or L2 TLB entry (R355). -/
  useClock : Nat
deriving DecidableEq, Repr

/-! ### The device -/

/-- A trade offered or accepted (R22). -/
structure Offer where
  from_ : Nat
  dest : Nat
  mask : BitVec 16
  /-- Device cycle of the offer, then of its acceptance. -/
  at_ : Nat
deriving DecidableEq, Repr

/-- An owner switch (R27): S, W, the cores that the incoming owner takes, and what has happened. -/
structure Switch where
  out : Option Nat
  inc : Option Nat
  cores : List Nat
  start : Nat
  width : Nat
  delivered : Bool
  cut : Bool
deriving DecidableEq, Repr

/-- A line present in an L2 slice (R74, R355), by owner and recency; its data stands in memory, and its race record in `races`. -/
structure L2Line where
  host : Bool
  line : Nat
  owner : Nat
  used : Nat
  die : Nat
  /-- It has been written since its fill. -/
  dirty : Bool := false
deriving DecidableEq, Repr

/-- An access of an HBM controller (R248): begun at device cycle `start`. -/
structure HbmAccess where
  stack : Nat
  chan : Nat
  colour : Nat
  owner : Nat
  start : Nat
deriving DecidableEq, Repr

/-- A page walk (R250). -/
structure Walk where
  owner : Nat
  die : Nat
  walker : Nat
  core : Nat
  op : Nat
  vpn : Nat
  level : Nat
  table : Nat
  /-- The next step may begin from this owner cycle. -/
  from_ : Nat
  /-- A step in progress waits for its line at the controller from `arr`, or ends at `ends`. -/
  arr : Option Nat
  ends : Option Nat
deriving DecidableEq, Repr

/-- An inbound request being served (R311, R312). -/
structure Inbound where
  req : PeerReq
  owner : Nat
  arrived : Nat
  /-- Injected at this owner cycle. -/
  injected : Option Nat
  /-- Parked: since which fabric time, and the address whose page it waits for. -/
  parked : Option (Nat × Nat)
  /-- The fabric time of the last keep-waiting notice, or of the parking: notices follow until the answer. -/
  noticed : Option Nat
  pa : Option Nat
  st : LineState
  answer : Option (Answer × List Byte)
  untr : Bool
  /-- Its flits have come in at the port (R306). -/
  came : Bool
  /-- Only the fetch of the line behind a store that has been answered (R249). -/
  silent : Bool
deriving DecidableEq, Repr

/-- What leaves the device (MODEL output list). -/
inductive OutMsg where
  | request (device : Nat) (r : PeerReq)
  /-- A request to the host for a line, by its number (R344). -/
  | hostRequest (pasid id line : Nat)
  /-- An answer to peer `device`'s request `id`. -/
  | answer (device id : Nat) (head : FlitHead) (a : Answer) (data : List Byte)
  | keepWaiting (device id : Nat) (head : FlitHead)
  | contribution (device : Nat) (c : Contribution)
  | notice (device : Nat) (n : FailNotice)
  | stamp (device : Nat) (s : CardStamp)
  | msix (vector : Nat)
  | status (w : Word)
  | spdm (bytes : List Byte)
  | hostData (bytes : List Byte)
  | replayed (plane owner flits : Nat)
deriving DecidableEq, Repr

/-- A message that waits at the plane ports, in its owner's turns: its plane before the remap, and the flits that have still to leave (R306, R308). -/
structure PortMsg where
  owner : Nat
  plane : Nat
  flits : Nat
  msg : OutMsg
deriving DecidableEq, Repr

/-- What comes in at a plane port: a message, or an inbound request by its number. -/
inductive Incoming where
  | message (i : Instr)
  | request (n : Nat)
deriving DecidableEq, Repr

/-- A message that has reached a plane port of the device and is not a copy: it waits for its owner's turns, in which its flits come in (R306). `ready` tells that all have. -/
structure PortIn where
  owner : Nat
  plane : Nat
  flits : Nat
  what : Incoming
  ready : Bool
deriving DecidableEq, Repr

/-- The fabric side (R305 to R313). -/
structure Fabric where
  lost : List Nat
  dead : List Nat
  gen : BitVec 4
  /-- A dead plane being quiesced. -/
  quiesce : Option Nat
  /-- Unacknowledged flits per plane and owner, at 8·plane + owner (R308). -/
  unacked : Map Nat
  inbound : Map Inbound
  nextIn : Nat
  /-- Newest generation and newest sequence number seen per issuer (R308, R309). -/
  seen : Map (Nat × Nat)
  /-- Messages at the ports, oldest first; flits that have left each port in this cycle; the next link sequence number of each (R306, R308). -/
  ports : List PortMsg
  sent : Map Nat
  nextSeq : Map Nat
  /-- Messages that have reached the ports, oldest first; flits that have come in at each port in this cycle (R306). -/
  arrived : List PortIn
  came : Map Nat
deriving DecidableEq, Repr

/-- SPDM session state (R352). -/
structure Spdm where
  version : Bool
  capabilities : Bool
  algorithms : Bool
  transcript : List Byte
deriving DecidableEq, Repr

/-- Bring-up (R351). -/
inductive Bringup where
  | ready | fwfail
deriving DecidableEq, Repr

/-- The management controller and the I/O die. -/
structure Mgmt where
  /-- The turn table in force (R14, R17). -/
  table : BitVec 64
  /-- The table written for the next session, and one written in the final round for the session after (R15). -/
  nextTable : BitVec 64
  lateTable : Option (BitVec 64)
  offers : List Offer
  accepted : List Offer
  switch : Option Switch
  /-- Refill requests wait in the pools' `next`. -/
  status : Word
  bringup : Bringup
  /-- The flash image carries a valid signature (R351). -/
  signed : Bool
  device : BitVec 10
  spdm : Spdm
  /-- Cold resets so far: names the free origin of fabric time. -/
  boots : Nat
  /-- ns of the global time base (R26). -/
  gtime : Nat
  /-- Thermal slowdown (R3, R353): in force, and when the condition cleared. -/
  slow : Bool
  cleared : Option Nat
  trigger : Bool
  /-- Refresh and scrub work done, per bank or line (R20, R32). -/
  refreshed : Map Nat
  scrubbed : Map Nat
deriving DecidableEq, Repr

/-- Stages of a device cycle, in the order in which work within it is done (MODEL). -/
inductive Stage where
  | boundary | inputs | finish | admission | issue | events | deal | tick
deriving DecidableEq, Repr

/-- Who issues (MODEL): core, quadrant and seat; for the higher slot of a pair, the core and its owner as they stood before the
pair (R123). -/
structure Issuing where
  core : Nat
  quad : Nat
  seat : Nat
  snap : Option (Core × Owner)
deriving DecidableEq, Repr

/-- The scheduler (MODEL): the stage; in `issue` the core and the quadrant that come next, in `events` the phase, in `deal` the core. -/
structure Sched where
  stage : Stage
  core : Nat
  quad : Nat
  cur : Option Issuing
  /-- Events of the current stage still to be done in this cycle, in order. -/
  todo : List Instr
  /-- Quadrants, with their cores, whose `EVWAIT` is tested once more after the cycle's other issue (R188). -/
  late : List (Nat × Nat)
  /-- The higher slot of the pair whose lower one issues, with the core and its owner as they stood before it (R123). -/
  pair : Option (Instr × Core × Owner)
deriving DecidableEq, Repr

/-- The machine. -/
structure State where
  /-- Device cycles since cold reset; the session phase is its value modulo 65,536 (R13). -/
  cycle : Nat
  sched : Sched
  mgmt : Mgmt
  owners : Map Owner
  cores : Map Core
  l2 : List L2Line
  hbm : List HbmAccess
  walks : List Walk
  /-- Device memory by physical address (R74). -/
  mem : Memory
  /-- Host memory as the device reaches it over CXL (R343). -/
  host : Memory
  /-- Race records of HBM lines (R277); an unlisted record is 0. -/
  races : Map (BitVec 128)
  /-- Lines with an uncorrectable error (R335). -/
  errors : List Nat
  fab : Fabric
  /-- Inputs from outside with their device cycle, in order (MODEL). -/
  inbox : List (Nat × Instr)
  outbox : List OutMsg
  /-- Counter of free values (MODEL). -/
  free : Nat
deriving DecidableEq, Repr

/-- Reasons for which the machine stops with a fault. -/
inductive Fault where
  /-- Raised by the meaning of an instruction of the instruction set when no group is issuing it. `step` never asks for this.
  Safe: the machine stops. -/
  | noIssuer
deriving DecidableEq, Repr

/-- Reasons for which an instruction has no meaning. -/
inductive Refusal where
  /-- Raised by an arm of `exec` whose instruction is not modelled yet. Safe: the machine stops. -/
  | notModelled (mnemonic : String)
deriving DecidableEq, Repr

/-! ### Reset (R351). DESIGN CHOICE, unsafe: READY with a signed image (row 7), device number 0 (row 8), zero where the manual gives no value (rows 6, 10, 13) -/

/-- The scorecard and other figures of an owner that is not admitted. -/
def AdmitRecord.blank : AdmitRecord :=
  { l1table := 0, faultq := 0, errlog := 0, telem := 0, debug := 0, trades := 0, queues := [], dumpbase := 0, pasid := 0,
    ctx := 0, lf := 0, lq := 0, tick := 0, banks := [], savb := [], grade := 0, lt := 0, ways := 0, tlbShare := 0,
    replay := [], counters := [], raw := [] }

/-- An owner that is not admitted. -/
def Owner.blank : Owner :=
  { admitted := false, resident := false, record := .blank, oclk := 0, assigned := [], held := [], saved := [], dies := [],
    queues := [], ldbst := 0, events := [], grids := [], nextGrid := 0, clusters := [], nextCluster := 0, adseq := 0,
    strgt := 0, strgp := 0, cards := [], failedTags := [], early := [], regions := [], rings := [], counters := [], picked := [], served := [], snap := [],
    nextColl := 0, useClock := 0 }

/-- An idle quadrant. -/
def Quad.blank : Quad :=
  { rotation := [], holder := none, ended := true, latches := [], fmaBusy := 0, engine := [], origins := [], copies := [],
    done := [], enqueued := 0, completed := 0, seq := 0 }

/-- An idle core. -/
def Core.blank : Core :=
  { owner := none, team := none, seats := [], quads := [], sp := [], spEmpty := [], spRace := [], slots := [], l1 := [],
    tlb := [], wc := [], rwc := [], ops := [], nextOp := 0, nextUid := 0, useClock := 0, injected := none, copyLast := 3, demands := [],
    mailWaits := [], halt := none, faults := [], dumpbase := 0, haltDue := none }

/-- The management controller after cold reset: the table is all house (R15, R190, R351). -/
def Mgmt.reset : Mgmt :=
  { table := 0xFFFFFFFFFFFFFFFF, nextTable := 0xFFFFFFFFFFFFFFFF, lateTable := none, offers := [], accepted := [],
    switch := none, status := 0, bringup := .ready, signed := true, device := 0,
    spdm := { version := false, capabilities := false, algorithms := false, transcript := [] }, boots := 0, gtime := 0,
    slow := false, cleared := none, trigger := false, refreshed := [], scrubbed := [] }

/-- The fabric side after reset: every plane live, no peer lost. -/
def Fabric.reset : Fabric :=
  { lost := [], dead := [], gen := 0, quiesce := none, unacked := [], inbound := [], nextIn := 0, seen := [], ports := [], sent := [], nextSeq := [], arrived := [], came := [] }

/-- The machine right after cold reset reports READY (R351): no owner is admitted, no core is held, the table is all house. -/
def State.reset : State :=
  { cycle := 0, sched := { stage := .boundary, core := 0, quad := 0, cur := none, todo := [.sessionBoundary, .roundBoundary], late := [], pair := none }, mgmt := .reset, owners := [],
    cores := [], l2 := [], hbm := [], walks := [], mem := [], host := [], races := [], errors := [], fab := .reset, inbox := [],
    outbox := [], free := 0 }

end Sys2Proof.Machine
end

