-- ==== Sys2Proof/Machine/Mem.lean ====
section
/-! DEFINITION. Tables, sparse stores and memory as plain data: the operations that read and write them, and byte order
(R9). -/

namespace Sys2Proof.Machine

/-! ### Tables -/

/-- The entry of a table. -/
def mget {α : Type} : Map α → Nat → Option α
  | [], _ => none
  | (j, w) :: t, k => if j = k then some w else mget t k

/-- Sets an entry, keeping the numbers ascending. -/
def mset {α : Type} : Map α → Nat → α → Map α
  | [], k, v => [(k, v)]
  | (j, w) :: t, k, v => if k < j then (k, v) :: (j, w) :: t else if k = j then (k, v) :: t else (j, w) :: mset t k v

/-- Removes an entry. -/
def mdel {α : Type} (m : Map α) (k : Nat) : Map α := m.filter (fun p => p.1 != k)

/-- Applies a function to an entry that is there. -/
def mmod {α : Type} (m : Map α) (k : Nat) (f : α → α) : Map α :=
  m.map (fun p => if p.1 = k then (p.1, f p.2) else p)

/-- Two ascending tables joined; the second's entries replace the first's. -/
def mmerge {α : Type} : Map α → Map α → Map α
  | [], ys => ys
  | (k, v) :: t, ys =>
    ys.takeWhile (fun p => decide (p.1 < k)) ++
      (match ys.dropWhile (fun p => decide (p.1 < k)) with
        | [] => (k, v) :: mmerge t []
        | (j, w) :: r => if j = k then (k, w) :: mmerge t r else (k, v) :: mmerge t ((j, w) :: r))

/-- The numbers of a table. -/
def mkeys {α : Type} (m : Map α) : List Nat := m.map Prod.fst

/-! ### Sparse stores: an unlisted index reads as `d` -/

/-- What an index reads as. -/
def sget {α : Type} (d : α) : List (Nat × α) → Nat → α
  | [], _ => d
  | (j, w) :: t, k => if j = k then w else sget d t k

/-- A write, which lists no entry equal to `d`. -/
def sset {α : Type} [DecidableEq α] (d : α) (m : List (Nat × α)) (k : Nat) (v : α) : List (Nat × α) :=
  if v = d then mdel m k else mset m k v

/-- The canonical form: indexes strictly rising, no entry equal to `d`. -/
def swf {α : Type} [DecidableEq α] (d : α) : List (Nat × α) → Bool
  | [] => true
  | [(_, w)] => w != d
  | (j, w) :: (k, x) :: t => w != d && decide (j < k) && swf d ((k, x) :: t)

/-- Writes consecutive indexes from `k` on. -/
def swrite {α : Type} [DecidableEq α] (d : α) (m : List (Nat × α)) (k : Nat) : List α → List (Nat × α)
  | [] => m
  | v :: vs => swrite d (sset d m k v) (k + 1) vs

/-! ### Memory -/

/-- What an unlisted byte of device, host or scratchpad memory reads as (DESIGN CHOICE for device and host memory; R64 for the
scratchpad). -/
def Memory.unlisted : Byte := 0

/-- One byte. -/
def Memory.read (m : Memory) (a : Nat) : Byte := sget Memory.unlisted m a

/-- One byte written. -/
def Memory.write (m : Memory) (a : Nat) (b : Byte) : Memory := sset Memory.unlisted m a b

/-- The canonical form of a memory. -/
def Memory.wf (m : Memory) : Bool := swf Memory.unlisted m

/-- `n` bytes from `a` on. -/
def Memory.readN (m : Memory) (a : Nat) : Nat → List Byte
  | 0 => []
  | n + 1 => m.read a :: Memory.readN m (a + 1) n

/-- Bytes written from `a` on. -/
def Memory.writeN (m : Memory) (a : Nat) : List Byte → Memory
  | [] => m
  | b :: bs => Memory.writeN (Memory.write m a b) (a + 1) bs

/-- Bytes written where a mask has them, at offsets from `a`. -/
def Memory.writeMask (m : Memory) (a : Nat) : MaskedLine → Memory
  | [] => m
  | b :: bs => Memory.writeMask (Memory.write m (a + b.off) b.val) a bs

/-! ### Byte order (R9): little-endian -/

/-- The number that bytes make. -/
def leNat : List Byte → Nat
  | [] => 0
  | b :: bs => b.toNat + 256 * leNat bs

/-- `n` bytes of a number, low byte first. -/
def leBytes : Nat → Nat → List Byte
  | 0, _ => []
  | n + 1, w => BitVec.ofNat 8 w :: leBytes n (w / 256)

/-- A little-endian number of `n` bytes in memory. -/
def Memory.readLe (m : Memory) (a n : Nat) : Nat := leNat (m.readN a n)

/-- Bytes `o` to `o + n - 1` of a list, as a number. -/
def fieldLe (bs : List Byte) (o n : Nat) : Nat := leNat ((bs.drop o).take n)

/-- Bits [hi:lo] of a number. -/
def bitsOf (w hi lo : Nat) : Nat := w / 2 ^ lo % 2 ^ (hi + 1 - lo)

/-- Replaces bytes of a list from `o` on. -/
def patch (bs : List Byte) (o : Nat) (v : List Byte) : List Byte := bs.take o ++ v ++ bs.drop (o + v.length)

/-- The first number from `n` on that a list does not hold, searching `fuel` numbers. -/
def firstFree (used : List Nat) : Nat → Nat → Option Nat
  | _, 0 => none
  | n, fuel + 1 => if used.contains n then firstFree used (n + 1) fuel else some n

end Sys2Proof.Machine
end

