-- ==== Sys2Proof/Machine/Block.lean ====
section
/-! DEFINITION. Tiles and blocks: where elements and scales stand in a handle (R71, R72, R98), scale formats (R94, R95), block
encoding and decoding (R96, R97, R105 to R107), matrix arithmetic (R109 to R114), collective arithmetic (R115). -/

namespace Sys2Proof.Machine

/-! ### Layout -/

/-- The element format of a code of R98; none for INT8. -/
def fpOfCode : Nat → Option Fp
  | 1 => some .e4m3 | 2 => some .e5m2 | 3 => some .e3m2 | 4 => some .e2m3 | 5 => some .e2m1 | 6 => some .bf16
  | 7 => some .f16 | 8 => some .e4m3 | 9 => some .e5m2 | 10 => some .e3m2 | 11 => some .e2m3 | 12 => some .e2m1
  | 13 => some .e2m1 | 14 => some .f32 | 15 => some .f64
  | _ => none

/-- Bits of an element in a tile (R71). -/
def elemBits : Nat → Nat
  | 0 => 8 | 1 => 8 | 2 => 8 | 3 => 6 | 4 => 6 | 5 => 4 | 6 => 16 | 7 => 16 | 8 => 8 | 9 => 8 | 10 => 6 | 11 => 6
  | 12 => 4 | 13 => 4 | 14 => 32 | _ => 64

/-- Words that the elements of a line fill, for a handle of `n` slots (R71, R210). -/
def lineUsed (type n : Nat) : Nat :=
  match elemBits type with
  | 4 => 16 | 6 => 24 | 8 => 32 | 16 => 64 | _ => 16 * n

/-- Elements of a line (R71). -/
def lineElems (type n : Nat) : Nat := if type = 14 then 16 * n else if type = 15 then 8 * n else 128

/-- Slot and word index of word `j` of line `i` (R71). -/
def lineIndex (type i j : Nat) : Nat × Nat :=
  if 14 ≤ type then (j / 16, 16 * i + j % 16)
  else
    let w := (match elemBits type with | 4 => 16 | 16 => 64 | _ => 32) * i + j
    (w / 2048, w % 2048)

/-- Slot counts that an element type may have (R71). -/
def slotCounts (type : Nat) : List Nat :=
  match elemBits type with
  | 4 => [1] | 6 => [2] | 8 => [2] | 16 => [4] | _ => [1, 2, 3, 4]

/-- Index of the first sidecar word, and of the band word, of a slot (R67). -/
def sideWord : Nat := 2048
def bandWord : Nat := 2560

/-- A word of a slot: written, or the undefined content of its allocation (R68). -/
def Slot.word (s : Slot) (w : Nat) : Word := (mget s.words w).getD (Config.freeWord (s.base + w))

/-- All words of a slot in order, sidecar and band word included. -/
def fillWords (base : Nat) : Map Word → Nat → Nat → List Word
  | _, _, 0 => []
  | [], i, n + 1 => Config.freeWord (base + i) :: fillWords base [] (i + 1) n
  | (j, w) :: t, i, n + 1 =>
    if j = i then w :: fillWords base t (i + 1) n else Config.freeWord (base + i) :: fillWords base ((j, w) :: t) (i + 1) n

def Slot.all (s : Slot) : Array Word := (fillWords s.base s.words 0 2561).toArray

/-- A tile as it is read: the words of its slots in handle order. -/
abbrev Tile := List (Array Word)

def Tile.word (t : Tile) (slot w : Nat) : Word := ((t[slot]?).getD #[]).getD w 0

/-- The number that the words of a line make: element k of b bits is bits [b·k + b − 1 : b·k] (R71). -/
def Tile.lineNat (t : Tile) (type n i : Nat) : Nat :=
  (List.range (lineUsed type n)).foldr
    (fun j acc => let p := lineIndex type i j; (t.word p.1 p.2).toNat + 2 ^ 32 * acc) 0

/-- The element bit patterns of a line. -/
def Tile.lineBits (t : Tile) (type n i : Nat) : List Nat :=
  let v := t.lineNat type n i
  let b := elemBits type
  (List.range (lineElems type n)).map (fun k => v / 2 ^ (b * k) % 2 ^ b)

/-- Byte `b` of the sidecar (R72). -/
def Tile.side (t : Tile) (b : Nat) : Nat := ((t.word 0 (sideWord + b / 4)).toNat / 2 ^ (8 * (b % 4))) % 256

/-- The band scale of a line: BF16 bits (R72). -/
def Tile.band (t : Tile) (i : Nat) : Nat := (t.word 0 bandWord).toNat / (if i < 64 then 1 else 65536) % 65536

/-! ### Scales -/

/-- An E8M0 scale (R94); none is NaN. -/
def e8m0 (code : Nat) : Option Dyad := if code = 255 then none else some (1, (code : Int) - 127)

/-- An E3M5 scale (R95); none is NaN. -/
def e3m5 (code : Nat) : Option Dyad :=
  if code = 255 then none
  else if code < 32 then some ((code : Int), -7)
  else some ((32 + code % 32 : Int), (code / 32 : Int) - 8)

/-- A BF16 band scale (R97): NaN when NaN or infinite. -/
def bandScale (bits : Nat) : Option Dyad :=
  match Fp.bf16.unpack bits with
  | .fin n m e => some (dyadOf n m e)
  | _ => none

/-- The product of two scales, NaN when either is. -/
def scaleMul (a b : Option Dyad) : Option Dyad :=
  match a, b with
  | some x, some y => some (Dyad.mul x y)
  | _, _ => none

/-- Block length along k of a type (R96, R97, R111). -/
def blockLen (type : Nat) : Nat := if type = 13 ∨ type = 6 ∨ type = 7 then 8 else 32

/-- The scale of block `b` of line `i` (R72); 1 for a plain type, or when `ns` (R225). -/
def Tile.scale (t : Tile) (type : Nat) (ns : Bool) (i b : Nat) : Option Dyad :=
  if ns then some (1, 0)
  else if 8 ≤ type ∧ type ≤ 12 then e8m0 (t.side (4 * i + b))
  else if type = 13 then scaleMul (e3m5 (t.side (16 * i + b))) (bandScale (t.band i))
  else some (1, 0)

/-- The values of a line. -/
def Tile.line (t : Tile) (type n i : Nat) : List FVal :=
  match fpOfCode type with
  | some f => (t.lineBits type n i).map f.unpack
  | none => (t.lineBits type n i).map (fun b =>
      let x := (BitVec.ofNat 8 b).toInt
      .fin (decide (x < 0)) x.natAbs 0)

/-! ### Decoding to FP32 (R107) -/

/-- An element times its scale, rounded once to FP32. A zero that comes of a scale of 0 or a band scale of −0 has the sign of the element (DESIGN CHOICE, row 49 of
notes/assumptions). -/
def decodeElem (scale : Option Dyad) (x : FVal) : Nat :=
  match scale with
  | none => 0x7FC00002
  | some s =>
    match x with
    | .nan _ _ _ => 0x7FC00001
    | .inf n => Fp.f32.infBits n
    | .fin n m e =>
      let p := Dyad.mul (dyadOf n m e) s
      (Fp.f32.roundDyad .rn false (n != decide (s.1 < 0)) p).1

/-- Cuts a list into pieces of length `n`. -/
def chunks {α : Type} (n : Nat) : Nat → List α → List (List α)
  | 0, _ => []
  | k + 1, xs => xs.take n :: chunks n k (xs.drop n)

/-- A line of a tile for a conversion (R160): exact values, or for block types the FP32 decodings. -/
def Tile.convLine (t : Tile) (type n i : Nat) : List FVal :=
  if 8 ≤ type ∧ type ≤ 13 then
    let bl := blockLen type
    let bs := chunks bl (128 / bl) (t.line type n i)
    ((List.range (128 / bl)).zip bs).flatMap (fun p => p.2.map (fun x => Fp.f32.unpack (decodeElem (t.scale type false i p.1) x)))
  else t.line type n i

/-! ### Encoding (R103, R105, R106) -/

/-- The format that a value of a source type is a value of, for NaN payloads (R103). -/
def convFp (type : Nat) : Fp := if 8 ≤ type ∧ type ≤ 13 then .f32 else (fpOfCode type).getD .f32

/-- The magnitude of a finite value; zero for others. -/
def FVal.mag : FVal → Dyad
  | .fin _ m e => (m, e)
  | _ => (0, 0)

def FVal.isFin : FVal → Bool
  | .fin _ _ _ => true
  | _ => false

/-- The largest magnitude. -/
def amax (xs : List FVal) : Dyad := xs.foldl (fun a x => if Dyad.lt a x.mag then x.mag else a) (0, 0)

/-- emax of an MX element type (R105). -/
def mxEmax : Nat → Int
  | 8 => 8 | 9 => 15 | 10 => 4 | _ => 2

/-- The scale code and element codes of a block under R105; `mode k` is the rounding of element k. -/
def encodeMx (type : Nat) (mode : Nat → Mode) (k0 : Nat) (xs : List FVal) : Nat × List Nat :=
  let f := (fpOfCode type).getD .e2m1
  if xs.all FVal.isFin then
    let a := amax xs
    let x : Int := if a.1 = 0 then -127 else ratLog2 a.1.natAbs 1 + a.2 - mxEmax type
    let code := (max 0 (min 254 (x + 127))).toNat
    (code, (xs.zip (List.range xs.length)).map (fun p =>
      match p.1 with
      | .fin n m e => (f.round (mode (k0 + p.2)) true n m (e - ((code : Int) - 127))).1
      | _ => 0))
  else (255, xs.map (fun _ => 0))

/-- The least E3M5 code from `c` on whose value is at least num / den · 2^e. -/
def ceilE3m5 (num den : Nat) (e : Int) : Nat → Nat → Nat
  | 0, c => c
  | n + 1, c =>
    match e3m5 c with
    | some (m, x) =>
      -- m · 2^x ≥ num / den · 2^e
      let d := Dyad.add (m * den, x) (-(num : Int), e)
      if 0 ≤ d.1 then c else ceilE3m5 num den e n (c + 1)
    | none => 254

/-- The BF16 band scale of a band with largest magnitude `a` (R106). -/
def gf4Band (a : Dyad) (finite : Bool) : Nat :=
  if !finite then 0x7FC0
  else if a.1 = 0 then 0x3F80
  else (Fp.bf16.roundRat .ru false false a.1.natAbs 186 a.2).1

/-- The block scale code and element codes of a block of 8 under R106, with band scale bits `g`. -/
def encodeGf4 (g : Nat) (mode : Nat → Mode) (k0 : Nat) (xs : List FVal) : Nat × List Nat :=
  match bandScale g with
  | none => (255, xs.map (fun _ => 0))
  | some (gm, ge) =>
    let a := amax xs
    if a.1 = 0 then (0, xs.map (fun _ => 0))
    else
      let code := ceilE3m5 a.1.natAbs (6 * gm.natAbs) (a.2 - ge) 254 1
      match e3m5 code with
      | none => (255, xs.map (fun _ => 0))
      | some (sm, se) =>
        (code, (xs.zip (List.range xs.length)).map (fun p =>
          match p.1 with
          | .fin n m e =>
            if m = 0 then Fp.e2m1.sign n 0
            else (Fp.e2m1.roundRat (mode (k0 + p.2)) true n m (sm.natAbs * gm.natAbs) (e - se - ge)).1
          | _ => 0))

/-- An encoded tile: element codes by line, scale bytes by line, band scales of the two bands. -/
structure Encoded where
  lines : List (List Nat)
  scales : List (List Nat)
  bands : Nat × Nat
deriving DecidableEq, Repr

/-- Encodes the values of a tile into a type (R103, R105, R106). `mode i k` is the rounding of element (i, k). -/
def encodeTile (src type : Nat) (sat : Bool) (mode : Nat → Nat → Mode) (vs : List (List FVal)) : Encoded :=
  let idx := (List.range vs.length).zip vs
  if 8 ≤ type ∧ type ≤ 12 then
    let e := idx.map (fun p => ((List.range 4).zip (chunks 32 4 p.2)).map (fun b => encodeMx type (mode p.1) (32 * b.1) b.2))
    { lines := e.map (fun l => l.flatMap Prod.snd), scales := e.map (fun l => l.map Prod.fst), bands := (0, 0) }
  else if type = 13 then
    let g (vs : List (List FVal)) : Nat := gf4Band (amax (vs.flatten)) (vs.all (fun l => l.all FVal.isFin))
    let g0 := g (vs.take 64)
    let g1 := g (vs.drop 64)
    let e := idx.map (fun p =>
      ((List.range 16).zip (chunks 8 16 p.2)).map (fun b => encodeGf4 (if p.1 < 64 then g0 else g1) (mode p.1) (8 * b.1) b.2))
    { lines := e.map (fun l => l.flatMap Prod.snd), scales := e.map (fun l => l.map Prod.fst), bands := (g0, g1) }
  else
    let f := (fpOfCode type).getD .f32
    { lines := idx.map (fun p => ((List.range p.2.length).zip p.2).map (fun x => (fpConvert (convFp src) f (mode p.1 x.1) sat x.2).1)),
      scales := [], bands := (0, 0) }

/-- A line's words from its element codes. -/
def lineWords (type : Nat) (cs : List Nat) : List Word :=
  let b := elemBits type
  let v := cs.foldr (fun c acc => c % 2 ^ b + 2 ^ b * acc) 0
  (List.range (b * cs.length / 32)).map (fun j => BitVec.ofNat 32 (v / 2 ^ (32 * j)))

/-- Four bytes as a word. -/
def wordOfBytes : List Nat → List Word
  | a :: b :: c :: d :: t => BitVec.ofNat 32 (a + 256 * b + 65536 * c + 16777216 * d) :: wordOfBytes t
  | _ => []

/-- The words that an encoded tile writes, by slot of the handle (R71, R72): elements, then the whole sidecar and the band word of
the first slot, unused bytes and bits being zero. -/
def Encoded.writes (e : Encoded) (type : Nat) : List (Nat × Nat × Word) :=
  let els := ((List.range e.lines.length).zip e.lines).flatMap (fun p =>
    ((List.range 4096).zip (lineWords type p.2)).map (fun q => let x := lineIndex type p.1 q.1; (x.1, x.2, q.2)))
  let sb := e.scales.flatten
  let side := wordOfBytes (sb ++ List.replicate (2048 - sb.length) 0)
  els ++ ((List.range 512).zip side).map (fun q => (0, sideWord + q.1, q.2))
    ++ [(0, bandWord, BitVec.ofNat 32 (e.bands.1 + 65536 * e.bands.2))]

/-! ### Matrix arithmetic (R109 to R114) -/

/-- The exact total of a block of products (R113): a NaN cause, an infinity, or a sum. -/
inductive Total where
  | nan (cause : Nat)
  | inf (neg : Bool)
  | fin (d : Dyad)
deriving DecidableEq, Repr

/-- The products of a block in ascending k, from the sum and the infinity met so far, the accumulator's at first. -/
def sumProducts : List (FVal × FVal) → Dyad → Option Bool → Total
  | [], d, none => .fin d
  | [], _, some n => .inf n
  | (a, b) :: t, d, i =>
    if a.isNan || b.isNan then .nan 1
    else
      match a, b with
      | .fin n m e, .fin n' m' e' => sumProducts t (Dyad.add d (Dyad.mul (dyadOf n m e) (dyadOf n' m' e'))) i
      | _, _ =>
        let zero := (a.isFin && a.mag.1 == 0) || (b.isFin && b.mag.1 == 0)
        if zero then .nan 4
        else
          let n := a.isNeg != b.isNeg
          match i with
          | some o => if o = n then sumProducts t d i else .nan 3
          | none => sumProducts t d (some n)

/-- The infinity that an accumulator cell holds. -/
def accInf (acc : Nat) : Option Bool :=
  match Fp.f32.unpack acc with
  | .inf n => some n
  | _ => none

/-- A block's total with its scales, on its way to an accumulator that holds the infinity `i`: an opposite infinity counts at its own k. A finite total stays one:
what it comes to in FP32 is not known before it is rounded (R110). -/
def blockTotal (i : Option Bool) (sa sb : Option Dyad) (ps : List (FVal × FVal)) : Total :=
  match sa, sb with
  | some x, some y =>
    match sumProducts ps (0, 0) none with
    | .fin d => .fin (Dyad.mul d (Dyad.mul x y))
    | _ => sumProducts ps (0, 0) i
  | _, _ => .nan 2

/-- acc + T rounded once to FP32 (R109, R112, R113). -/
def accAdd (acc : Nat) (t : Total) : Nat :=
  let f := Fp.f32
  match f.unpack acc with
  | .nan _ _ _ => acc
  | .inf n =>
    match t with
    | .nan c => f.genNan c
    | .inf n' => if n = n' then acc else f.genNan 3
    | .fin _ => acc
  | .fin n m e =>
    match t with
    | .nan c => f.genNan c
    | .inf n' => f.infBits n'
    | .fin d => (f.roundDyad .rn false false (Dyad.add (dyadOf n m e) d)).1

/-- GF4: the block's total is first rounded to FP32 (R110). A total that rounds to −0 counts as a zero without a sign: added to a −0 accumulator it gives +0
(DESIGN CHOICE, row 49 of notes/assumptions). -/
def gf4Round : Total → Total
  | .fin d =>
    match Fp.f32.unpack (Fp.f32.roundDyad .rn false false d).1 with
    | .fin n m e => .fin (dyadOf n m e)
    | .inf n => .inf n
    | .nan _ _ _ => .nan 5
  | t => t

/-- A line prepared for a product: blocks of values with their scale. -/
abbrev BlockLine := List (List FVal × Option Dyad)

/-- One cell of `MMA`: the blocks in ascending k. -/
def mmaCell (gf4 : Bool) : Nat → BlockLine → BlockLine → Nat
  | acc, (as, sa) :: ta, (bs, sb) :: tb =>
    let t := blockTotal (accInf acc) sa sb (as.zip bs)
    mmaCell gf4 (accAdd acc (if gf4 then gf4Round t else t)) ta tb
  | acc, _, _ => acc

/-- A dense line of a tile as blocks of `bl`. -/
def Tile.blocks (t : Tile) (type n bl : Nat) (ns : Bool) (i : Nat) : BlockLine :=
  let xs := t.line type n i
  ((List.range (xs.length / bl)).zip (chunks bl (xs.length / bl) xs)).map (fun p => (p.2, t.scale type ns i p.1))

/-- One cell of `MMAS`: blocks of kept products over dense k. -/
def mmasCell (gf4 : Bool) : Nat → List (List (Option FVal) × Option Dyad) → BlockLine → Nat
  | acc, (as, sa) :: ta, (bs, sb) :: tb =>
    let t := blockTotal (accInf acc) sa sb ((as.zip bs).filterMap (fun p => p.1.map (fun a => (a, p.2))))
    mmasCell gf4 (accAdd acc (if gf4 then gf4Round t else t)) ta tb
  | acc, _, _ => acc

/-- The mask of group `g` of line `i` in a metadata slot (R227). -/
def maskHalf (t : Tile) (i g : Nat) : Nat := (t.word 0 (8 * i + g / 2)).toNat / (if g % 2 = 0 then 1 else 65536) % 65536

/-- Number of ones in the low `n` bits. -/
def popNat : Nat → Nat → Nat
  | 0, _ => 0
  | n + 1, w => w % 2 + popNat n (w / 2)

/-- Every mask keeps exactly 6 of 12 (R114, R228). -/
def masksOk (t : Tile) : Bool :=
  (List.range 128).all (fun i => (List.range 16).all (fun g =>
    let m := maskHalf t i g
    decide (m < 4096) && popNat 12 m == 6))

/-- Spreads the kept values of a line over dense positions, by its masks (R114): `n` positions from `p` on. -/
def spread (masks : List Nat) : Nat → Nat → List FVal → List (Option FVal)
  | 0, _, _ => []
  | n + 1, p, xs =>
    if ((masks[p / 12]?).getD 0) / 2 ^ (p % 12) % 2 = 1 then
      match xs with
      | x :: t => some x :: spread masks n (p + 1) t
      | [] => none :: spread masks n (p + 1) []
    else none :: spread masks n (p + 1) xs

/-- Byte `b` of a metadata slot. -/
def metaByte (t : Tile) (b : Nat) : Nat := (t.word 0 (b / 4)).toNat / 2 ^ (8 * (b % 4)) % 256

/-- A's blocks of line `i` for `MMAS` (R227, R228). -/
def sparseBlocks (a m : Tile) (type n : Nat) (ns : Bool) (i : Nat) : List (List (Option FVal) × Option Dyad) :=
  let bl := blockLen type
  let masks := (List.range 16).map (maskHalf m i)
  let dense := spread masks 192 0 ((a.line type n i).take 96)
  let scale (b : Nat) : Option Dyad :=
    if ns then some (1, 0)
    else if 8 ≤ type ∧ type ≤ 12 then e8m0 (metaByte m (4096 + 8 * i + b))
    else if type = 13 then scaleMul (e3m5 (metaByte m (4096 + 24 * i + b))) (bandScale (a.band i))
    else some (1, 0)
  ((List.range (192 / bl)).zip (chunks bl (192 / bl) dense)).map (fun p => (p.2, scale p.1))

/-- B's blocks of line `j` for `MMAS`: dense k 0 to 127 from one handle, 128 to 191 from the other (R227, R228). -/
def sparseB (b b2 : Tile) (type n bl : Nat) (ns : Bool) (j : Nat) : BlockLine :=
  b.blocks type n bl ns j ++ (b2.blocks type n bl ns j).take (64 / bl)

/-- One step of `MMA64`: IEEE fused multiply-add with the NaN causes of R113. -/
def fma64 (acc : Nat) (a b : FVal) : Nat :=
  let f := Fp.f64
  match f.unpack acc with
  | .nan _ _ _ => acc
  | c =>
    if a.isNan || b.isNan then f.genNan 1 else (f.fmaV .rn a b c).1

/-- Clamps to 32 signed bits, or wraps (R111). -/
def narrow32 (sat : Bool) (t : Int) : Word :=
  if sat then BitVec.ofInt 32 (max (-(2 ^ 31)) (min (2 ^ 31 - 1) t)) else BitVec.ofInt 32 t

/-! ### Collective arithmetic (R115) -/

/-- Adds FP32 values in order with RN; the sum starts at the first. A NaN of a later rank makes a generated NaN (DESIGN CHOICE, row 49 of notes/assumptions: 'the lowest
rank' is read as rank 0). -/
def sumF32 : List Nat → Nat
  | [] => 0
  | x :: t => t.foldl (fun acc y =>
      match Fp.f32.unpack acc with
      | .nan _ _ _ => acc
      | a =>
        match Fp.f32.unpack y with
        | .nan _ _ _ => Fp.f32.genNan 1
        | b => (Fp.f32.addV .rn a b).1) x

/-- One element of a reduction in ascending rank (R115, R220): WIRE and RED. In every float reduction a NaN of rank 0 stays bit for bit, and a NaN of a later rank makes a
generated one. -/
def reduceElem (wire red : Nat) (xs : List Nat) : Nat :=
  match wire with
  | 0 | 1 =>
    let f : Fp := if wire = 0 then .bf16 else .f32
    match xs with
    | [] => 0
    | x :: t =>
      if (f.unpack x).isNan then x
      else if red = 0 then
        let s := sumF32 (xs.map (fun b => (fpConvert f .f32 .rn false (f.unpack b)).1))
        (fpConvert .f32 f .rn false (Fp.f32.unpack s)).1
      else if t.any (fun y => (f.unpack y).isNan) then f.genNan 1
      else t.foldl (fun acc y => (f.minmax (red == 2) acc y).1) x
  | _ =>
    let key (n : Nat) : Int := if wire = 2 then (BitVec.ofNat 32 n).toInt else n
    match xs with
    | [] => 0
    | x :: t => t.foldl (fun acc y =>
        if red = 0 then (acc + y) % 2 ^ 32
        else if red = 1 then (if key y < key acc then y else acc)
        else (if key acc < key y then y else acc)) x

end Sys2Proof.Machine
end

