-- ==== Sys2Proof/Machine/Rows.lean ====
section
/-! DEFINITION. What the encoding tables and the reference entries fix for each instruction (R122, R124 to R132, R139 to
R241): major opcode, SUB, operand classes and widths, guard classes, the other fields' legal values, latching, and the
result latency of R244 and R354. WellFormed, Decode and the issue checks read it. -/

namespace Sys2Proof.Machine

/-- What an operand field accepts (R125): nothing (the code must be zero), registers, registers or latches, one
class only, or a handle. `n` is the number of registers of the operand: 1, 2 for 64 bits, 4 for 16 bytes (R196). -/
inductive Fk where
  | zero | reg (n : Nat) | lat (n : Nat) | v (n : Nat) | s (n : Nat) | h | sh | shPair
  /-- A base register whose index is computed (R149). -/
  | base
deriving DecidableEq, Repr

/-- Which guards an instruction accepts (R47, R126, R132, R167). -/
inductive Gk where
  | none | scalar | any
deriving DecidableEq, Repr

/-- Pair classes (R122). -/
inductive PairClass where
  | p | m | n
deriving DecidableEq, Repr

/-- The row of an instruction. -/
structure Row where
  opc : BitVec 8
  hdr : Hdr
  guard : Gk
  dst : Opd
  dk : Fk
  /-- Sources in the order of their fields. -/
  src : List (Opd × Fk)
  /-- SUB and every other field hold a legal value. -/
  ok : Bool
  /-- The scalar form rule of R139 applies. -/
  scalar : Bool
  /-- The instruction writes a latch (R45), so NWB = 1 is allowed. -/
  latch : Bool
  /-- Result latency L (R244, R354); 0 when the entry gives its own time. -/
  lat : Nat
  /-- Uses the multiply-add unit (R245), for one cycle or for two. -/
  fma : Nat
  /-- A 32-lane mask is needed (R54). -/
  full : Bool
  /-- The destination is also read (R148). -/
  rdDst : Bool
deriving DecidableEq, Repr

/-- Registers of an operand of type `t` (R91, R125). -/
def tyRegs : Ty → Nat
  | .s64 => 2
  | .f64 => 2
  | _ => 1

def tysInt : List Ty := [.s32, .u32, .s64]
def tysFloat : List Ty := [.f32, .f64, .f16x2, .bf16x2]
def tysAll : List Ty := [.s32, .u32, .s64, .f32, .f64, .f16x2, .bf16x2]
/-- The rounding modes RN to RU (R124). -/
def rmsDet : List Rm := [.rn, .rz, .rd, .ru]

/-- The code zero, `v0`. -/
def opd0 : Opd := .v 0

/-- A format A row with no operands filled in. -/
def rowA (opc : BitVec 8) (f : FmtA) (tys : List Ty) (rms : List Rm) (sat : Bool) (optOk : Bool) : Row :=
  { opc := opc, hdr := f.hdr, guard := .any, dst := f.dst, dk := .zero, src := [(f.a, .zero), (f.b, .zero), (f.c, .zero)],
    ok := f.hdr.sub == 0 && tys.contains f.ty && rms.contains f.rm && (sat || !f.sat) && optOk,
    scalar := true, latch := false, lat := 2, fma := 0, full := false, rdDst := false }

/-- A latching format A row (R45, R139): destination `d`, sources `a`, `b`, `c`. -/
def rowAlu (opc : BitVec 8) (f : FmtA) (tys : List Ty) (rms : List Rm) (sat optOk : Bool) (d a b c : Fk) (lat : Nat) : Row :=
  { rowA opc f tys rms sat optOk with
    dk := d, src := [(f.a, a), (f.b, b), (f.c, c)], latch := true, lat := lat }

/-- RM of a format I word: SUB[2:0] (R127). -/
def immRm (f : FmtI) : Rm :=
  match (f.hdr.sub.extractLsb' 0 3).toNat with
  | 0 => .rn
  | 1 => .rz
  | 2 => .rd
  | 3 => .ru
  | _ => .sr

/-- SAT of a format I word: SUB[3] (R127). -/
def immSat (f : FmtI) : Bool := f.hdr.sub.getLsbD 3

/-- The condition code of a format I word: SUB[6:4] (R127, R143). -/
def immCc (f : FmtI) : Nat := (f.hdr.sub.extractLsb' 4 3).toNat

/-- A format I row (R127, R131): SUB = 0x80 + 16·cc + 8·SAT + RM; IMM takes the last source's place. `rms` is the number of
rounding modes allowed, `ccs` the number of condition codes. -/
def rowI (opc : BitVec 8) (f : FmtI) (tys : List Ty) (rms : Nat) (sat : Bool) (ccs : Nat) (d a b : Fk) (lat : Nat) : Row :=
  { opc := opc, hdr := f.hdr, guard := .any, dst := f.dst, dk := d, src := [(f.a, a), (f.b, b)],
    ok := f.hdr.sub.getLsbD 7 && tys.contains f.ty && decide ((f.hdr.sub.extractLsb' 0 3).toNat < rms) && (sat || !immSat f)
      && decide (immCc f < ccs),
    scalar := true, latch := true, lat := lat, fma := 0, full := false, rdDst := false }

/-- Cycles that a float type occupies the multiply-add unit (R245). -/
def fmaCycles (t : Ty) : Nat := if t == .f64 then 2 else 1

/-- Latency of the float instructions of R150 to R153 (R244). -/
def fpLat (t : Ty) : Nat := if t == .f64 then 8 else 4

/-- Latency of the function unit and of `FSQRT` (R244). -/
def fuLat (t : Ty) : Nat := if t == .f64 then 32 else 16

/-- Marks a row as using the multiply-add unit (R245). -/
def Row.onFma (r : Row) (t : Ty) : Row := { r with fma := fmaCycles t }

/-- A format B row (R167). -/
def rowB (opc : BitVec 8) (f : FmtB) (g : Gk) (d a : Fk) (sub live jn off : Bool) : Row :=
  { opc := opc, hdr := f.hdr, guard := g, dst := f.dst, dk := d, src := [(f.a, a), (f.b, .zero)],
    ok := sub && decide (f.live.toNat ≤ 32) && (live || f.live == 0) && (jn || f.jn == 0) && (off || f.off == 0),
    scalar := false, latch := false, lat := 2, fma := 0, full := false, rdDst := false }

/-- A format M row (R196). -/
def rowM (opc : BitVec 8) (f : FmtM) (g : Gk) (d a x c : Fk) (ok : Bool) (lat : Nat) : Row :=
  { opc := opc, hdr := f.hdr, guard := g, dst := f.dst, dk := d, src := [(f.addr, a), (f.data, x), (f.c, c)],
    ok := ok, scalar := false, latch := false, lat := lat, fma := 0, full := false, rdDst := false }

/-- A format X row (R207, R222). -/
def rowX (opc : BitVec 8) (f : FmtX) (d a b c : Fk) (sub : BitVec 8) (ok full : Bool) : Row :=
  { opc := opc, hdr := f.hdr, guard := .scalar, dst := f.dst, dk := d, src := [(f.a, a), (f.b, b), (f.c, c)],
    ok := f.hdr.sub == sub && ok, scalar := false, latch := false, lat := 2, fma := 0, full := full, rdDst := false }

/-- A format S row (R167). -/
def rowS (opc : BitVec 8) (f : FmtS) (g : Gk) (d a b : Fk) (spr smod : Bool) : Row :=
  { opc := opc, hdr := f.hdr, guard := g, dst := f.dst, dk := d, src := [(f.a, a), (f.b, b), (f.c, .zero)],
    ok := f.hdr.sub == 0 && (spr || f.spr == 0) && smod, scalar := false, latch := false, lat := 2, fma := 0,
    full := false, rdDst := false }

/-! Format A and I families. -/

/-- R141: integer arithmetic with `n` sources. -/
def rowInt (opc : BitVec 8) (f : FmtA) (tys : List Ty) (sat : Bool) (n lat : Nat) : Row :=
  rowAlu opc f tys [.rn] sat (f.opt == 0) (.reg (tyRegs f.ty)) (.lat (tyRegs f.ty))
    (if n < 2 then .zero else .lat (tyRegs f.ty)) (if n < 3 then .zero else .lat (tyRegs f.ty)) lat

/-- R141: the I form of a two-source integer instruction. -/
def rowIntI (opc : BitVec 8) (f : FmtI) (sat : Bool) (lat : Nat) : Row :=
  rowI opc f tysInt 1 sat 1 (.reg (tyRegs f.ty)) (.lat (tyRegs f.ty)) .zero lat

/-- R145, R147: shifts and `BFX`, whose second source is 32 bits. -/
def rowShift (opc : BitVec 8) (f : FmtA) : Row :=
  rowAlu opc f tysInt [.rn] false (f.opt == 0) (.reg (tyRegs f.ty)) (.lat (tyRegs f.ty)) (.lat 1) .zero 2

/-- R146: one source, one 32-bit result. -/
def rowCount (opc : BitVec 8) (f : FmtA) : Row :=
  rowAlu opc f tysInt [.rn] false (f.opt == 0) (.reg 1) (.lat (tyRegs f.ty)) .zero .zero 2

/-- R150: float arithmetic with `n` sources. -/
def rowFp (opc : BitVec 8) (f : FmtA) (rms : List Rm) (n : Nat) : Row :=
  rowAlu opc f tysFloat rms false (f.opt == 0) (.reg (tyRegs f.ty)) (.lat (tyRegs f.ty))
    (if n < 2 then .zero else .lat (tyRegs f.ty)) (if n < 3 then .zero else .lat (tyRegs f.ty)) (fpLat f.ty)

/-- R150, R151: the I form of a two-source float instruction, with `rms` rounding modes. -/
def rowFpI (opc : BitVec 8) (f : FmtI) (rms : Nat) : Row :=
  rowI opc f tysFloat rms false 1 (.reg (tyRegs f.ty)) (.lat (tyRegs f.ty)) .zero (fpLat f.ty)

/-- R154 and `FSQRT`: the function unit, which writes no latch (R45). -/
def rowFu (opc : BitVec 8) (f : FmtA) (tys : List Ty) (rms : List Rm) : Row :=
  { rowAlu opc f tys rms false (f.opt == 0) (.reg (tyRegs f.ty)) (.lat (tyRegs f.ty)) .zero .zero (fuLat f.ty) with
    latch := false }

/-- Conversion codes of OPT[18:15] and OPT[14:11] (R155, R156). -/
def cvtSty (f : FmtA) : Nat := (f.opt.extractLsb' 15 4).toNat
def cvtDty (f : FmtA) : Nat := (f.opt.extractLsb' 11 4).toNat

/-- Registers of a value of a conversion code (R155). -/
def cvtRegs (code : Nat) : Nat := if code == 2 || code == 4 then 2 else 1

/-- Conversion codes that name an integer type (R155). -/
def cvtIsInt (code : Nat) : Bool := decide (code ≤ 2) || code == 12 || code == 13

/-- R156: `CVT`. -/
def rowCvt (f : FmtA) : Row :=
  { rowA 0x50 f [.s32] [.rn, .rz, .rd, .ru, .sr] true
      (f.opt.extractLsb' 0 11 == 0 && decide (cvtSty f ≤ 13) && decide (cvtDty f ≤ 13) && !(f.rm == .sr && cvtIsInt (cvtDty f))) with
    dk := .reg (cvtRegs (cvtDty f)),
    src := [(f.a, .lat (cvtRegs (cvtSty f))), (f.b, if f.rm == .sr then .lat 1 else .zero), (f.c, .zero)],
    lat := if cvtRegs (cvtDty f) == 2 || cvtRegs (cvtSty f) == 2 then 8 else 4 }

/-- R157: `CVTS`. -/
def rowCvts (f : FmtA) : Row :=
  { rowA 0x51 f [.s32] [.rn] true
      (f.opt.extractLsb' 15 4 == 0 && f.opt.extractLsb' 0 11 == 0 && decide (5 ≤ cvtDty f ∧ cvtDty f ≤ 8)) with
    dk := .reg 1, src := [(f.a, .lat 1), (f.b, .lat 1), (f.c, .lat 1)], lat := 4 }

/-- R158: `CVTU`; OPT[0] is SCL. -/
def rowCvtu (f : FmtA) : Row :=
  { rowA 0x53 f [.s32] [.rn] false
      (f.opt.extractLsb' 15 4 == 0 && f.opt.extractLsb' 1 10 == 0 && [7, 8, 11, 12, 13].contains (cvtDty f)
        && !(f.opt.getLsbD 0 && (cvtDty f == 12 || cvtDty f == 13))) with
    dk := .reg 1, src := [(f.a, .lat 1), (f.b, .lat 1), (f.c, if f.opt.getLsbD 0 then .lat 1 else .zero)], lat := 4 }

/-- R160: `CVTB`. -/
def rowCvtb (f : FmtA) : Row :=
  { rowA 0x52 f [.s32] [.rn, .sr] (decide (cvtDty f ≤ 7))
      (f.opt.extractLsb' 0 11 == 0 && decide (1 ≤ cvtSty f ∧ cvtSty f ≤ 13) && decide (1 ≤ cvtDty f ∧ cvtDty f ≤ 13)) with
    guard := .scalar, dk := .h, src := [(f.a, .h), (f.b, if f.rm == .sr then .s 1 else .zero), (f.c, .zero)],
    scalar := false, lat := 0 }

/-- R161: `BSCL`. -/
def rowBscl (f : FmtA) : Row :=
  { rowA 0x54 f [.s32] [.rn, .sr] false
      (f.opt.extractLsb' 15 4 == 0 && f.opt.extractLsb' 0 11 == 0 && decide (8 ≤ cvtDty f ∧ cvtDty f ≤ 13)) with
    guard := .scalar, dk := .h, src := [(f.a, .h), (f.b, .h), (f.c, if f.rm == .sr then .s 1 else .zero)],
    scalar := false, lat := 0 }

/-- R163: `SHFL`. -/
def rowShfl (f : FmtA) : Row :=
  { rowA 0x58 f tysAll [.rn] false (f.opt.extractLsb' 2 17 == 0) with
    dk := .v (tyRegs f.ty), src := [(f.a, .lat (tyRegs f.ty)), (f.b, .lat 1), (f.c, .zero)], lat := 8 }

/-- R164: `VOTE`, whose s destination takes sources and guards of every class, a latch too (DEDUCED, row 42 of notes/assumptions). -/
def rowVote (f : FmtA) : Row :=
  { rowA 0x59 f [.s32] [.rn] false (f.opt.extractLsb' 7 12 == 0) with
    dk := .reg 1, src := [(f.a, .lat 1), (f.b, .zero), (f.c, .zero)], scalar := false, lat := 8 }

/-- Types of `GRED` and `GSCAN` (R165). -/
def tysRed : List Ty := [.s32, .u32, .s64, .f32, .f64]

def tyIsFloat (t : Ty) : Bool := [Ty.f32, .f64, .f16x2, .bf16x2].contains t

/-- Operation, rounding and saturation of a reduction (R165). -/
def redOk (f : FmtA) : Bool :=
  let op := (f.opt.extractLsb' 0 3).toNat
  decide (op ≤ 5) && (!tyIsFloat f.ty || decide (op ≤ 2)) && (f.rm == .rn || (tyIsFloat f.ty && op == 0))
    && (!f.sat || (!tyIsFloat f.ty && op == 0))

/-- R165: `GRED`, whose s destination takes a latch too (DEDUCED, row 42 of notes/assumptions). -/
def rowGred (f : FmtA) : Row :=
  { rowA 0x5A f tysRed rmsDet true (f.opt.extractLsb' 3 16 == 0 && redOk f) with
    dk := .reg (tyRegs f.ty), src := [(f.a, .lat (tyRegs f.ty)), (f.b, .zero), (f.c, .zero)], scalar := false, lat := 8 }

/-- R166: `GSCAN`. -/
def rowGscan (f : FmtA) : Row :=
  { rowA 0x5B f tysRed rmsDet true (f.opt.extractLsb' 4 15 == 0 && redOk f) with
    dk := .v (tyRegs f.ty), src := [(f.a, .lat (tyRegs f.ty)), (f.b, .zero), (f.c, .zero)], lat := 8 }

/-! Format M families. -/

/-- ADDR names an s register: the scalar form (R176, R196). -/
def isS : Opd → Bool
  | .s _ => true
  | _ => false

/-- Registers of an access size (R124, R196). -/
def sizeRegs (z : BitVec 3) : Nat := if z == 3 then 2 else if z == 4 then 4 else 1

/-- The guard that an access takes: any in the lane form, an s register in the scalar form (R196). -/
def formGuard (a : Opd) : Gk := if isS a then .scalar else .any

/-- R176: an atomic; `subs` are its SUB values, `y` its SRCC. Float operations and signed minima are told by SUB. -/
def rowAtom (opc : BitVec 8) (f : FmtM) (subOk : Bool) (noret : Bool) (cmp : Bool) (ords : List Nat) : Row :=
  let n := sizeRegs f.size
  let nr := f.hint.getLsbD 3
  let sc := isS f.addr
  rowM opc f (formGuard f.addr) (if nr then .zero else if sc then .s n else .reg n) (.reg 2)
    (if sc then .s n else .lat n) (if cmp then (if sc then .s n else .reg n) else .zero)
    (subOk && (f.size == 2 || f.size == 3) && ords.contains f.sem.toNat && decide ((f.hint.extractLsb' 0 3).toNat ≤ 4)
      && (noret || !nr)) 5

/-- R178: `ATOM` with SUB `n`. -/
def rowAtomSub (n : BitVec 8) (f : FmtM) : Row := rowAtom 0x7C f (f.hdr.sub == n) true false [0, 1, 2, 3]

/-- R180: `ATF`: SUB[2:0] is the condition, SUB[3] is SGN. -/
def rowAtf (f : FmtM) : Row :=
  rowAtom 0x7E f (f.hdr.sub.extractLsb' 4 4 == 0 && decide ((f.hdr.sub.extractLsb' 0 3).toNat ≤ 5)
    && (f.size == 2 || f.hdr.sub.getLsbD 3)) false false [0, 1]

/-- R198: a load; `hb` are the HINT bits it uses: SX, NL1. -/
def rowLoad (opc : BitVec 8) (f : FmtM) (nl1 : Bool) (idx : Bool) : Row :=
  let sc := if idx then isS f.c else isS f.addr
  rowM opc f (if sc then .scalar else .any) (.reg (sizeRegs f.size)) (if idx then .s 2 else .reg 2) .zero
    (if idx then .reg 1 else .zero)
    (f.hdr.sub == 0 && decide (f.size.toNat ≤ 4) && f.sem == 0 && f.hint.extractLsb' 2 2 == 0 && (nl1 || !f.hint.getLsbD 1)
      && (!f.hint.getLsbD 0 || decide (f.size.toNat < 2))) 7

/-- R198: a store. -/
def rowStore (opc : BitVec 8) (f : FmtM) (idx : Bool) : Row :=
  let sc := if idx then isS f.c else isS f.addr
  rowM opc f (if sc then .scalar else .any) .zero (if idx then .s 2 else .reg 2) (.lat (sizeRegs f.size))
    (if idx then .reg 1 else .zero)
    (f.hdr.sub == 0 && decide (f.size.toNat ≤ 4) && f.sem == 0 && f.hint == 0) 0

/-- SIZE, SEM and HINT are zero (R196). -/
def mPlain (f : FmtM) (sub : BitVec 8) : Bool := f.hdr.sub == sub && f.size == 0 && f.sem == 0 && f.hint == 0

/-- R200: full/empty bits. -/
def rowSp (opc : BitVec 8) (f : FmtM) (d : Fk) : Row :=
  rowM opc f (formGuard f.addr) d (.reg 2) .zero .zero (mPlain f 0) 2

/-- R202: a copy. -/
def rowCopy (opc : BitVec 8) (f : FmtM) (sub : BitVec 8) (a x : Fk) : Row :=
  rowM opc f .scalar (.s 1) a x (.s 1) (mPlain f sub && f.off == 0) 2

/-! Format S helpers. -/

/-- R173: a barrier's SMOD. -/
def barOk (f : FmtS) (ord : Bool) : Bool :=
  f.smod.extractLsb' 7 8 == 0 && (ord || f.smod.extractLsb' 5 2 == 0) && !(f.smod.getLsbD 4 && f.smod.getLsbD 3)

/-- How a special register is accessed (R190). -/
inductive SprAccess where
  | ro | rw | priv
deriving DecidableEq, Repr

/-- The special registers (R190): number, 64 bits wide, read per lane, access. -/
def sprTable : List (Nat × Bool × Bool × SprAccess) :=
  [(0x000, true, false, .ro), (0x001, true, false, .ro), (0x002, false, false, .ro), (0x003, true, false, .ro),
   (0x004, true, false, .ro), (0x005, true, false, .ro), (0x006, true, false, .ro), (0x007, true, false, .ro),
   (0x010, false, false, .ro), (0x011, false, false, .ro), (0x012, false, true, .ro), (0x013, false, false, .ro),
   (0x014, false, false, .ro), (0x015, false, false, .ro), (0x016, false, true, .ro)] ++
  [(0x020, true, false, .rw), (0x021, true, false, .rw), (0x022, false, false, .rw), (0x023, false, false, .rw),
   (0x024, true, false, .rw), (0x025, false, false, .ro), (0x030, true, false, .rw), (0x031, false, false, .ro),
   (0x032, true, false, .ro), (0x033, false, false, .ro), (0x040, true, false, .priv), (0x041, true, false, .priv),
   (0x042, true, false, .priv), (0x050, false, false, .ro), (0x051, true, false, .ro), (0x052, false, false, .priv),
   (0x053, false, false, .priv), (0x054, true, false, .priv), (0x055, true, false, .ro)]

/-- The entry of a special register. -/
def sprInfo (n : BitVec 12) : Option (Bool × Bool × SprAccess) := sprTable.lookup n.toNat

/-- R189: `MFS`: SMOD[1:0] is the part read. -/
def rowMfs (f : FmtS) : Row :=
  let part := (f.smod.extractLsb' 0 2).toNat
  match sprInfo f.spr with
  | none => rowS 0xE0 f .scalar (.reg 1) .zero .zero true false
  | some (wide, lane, _) =>
    rowS 0xE0 f .scalar (if lane then .v 1 else .reg (if wide && part == 0 then 2 else 1)) .zero .zero true
      (f.smod.extractLsb' 2 13 == 0 && decide (part ≤ 2) && (wide || part == 0))

/-- R189: `MTS` and `MTSP`. -/
def rowMts (opc : BitVec 8) (f : FmtS) (acc : SprAccess) (d : Fk) : Row :=
  match sprInfo f.spr with
  | none => rowS opc f .scalar d (.s 1) .zero true false
  | some (wide, _, a) => rowS opc f .scalar d (.s (if wide then 2 else 1)) .zero true (f.smod == 0 && a == acc)

/-! Format X helpers. -/

/-- R207: ORG, FMTA, FMTB and SCS are zero. -/
def xPlain (f : FmtX) : Bool := f.org == 0 && f.fmta == 0 && f.fmtb == 0 && f.scs == 0

/-- R211: `TLD` and `TST` (FMTA and SCS are used). -/
def tileOk (f : FmtX) : Bool :=
  f.org == 0 && f.fmtb == 0 && f.xmod == 0 && (f.scs == 0 || (f.scs == 1 && decide (8 ≤ f.fmta.toNat ∧ f.fmta.toNat ≤ 13)))

/-- The pairs of operand types that a matrix command multiplies (R108), by class of element type: MX and narrow floats
among themselves, GF4 with GF4, BF16 and FP16 among themselves. -/
def mmaPair (fa fb : Nat) : Bool :=
  (decide (1 ≤ fa ∧ fa ≤ 5) || decide (8 ≤ fa ∧ fa ≤ 12)) && (decide (1 ≤ fb ∧ fb ≤ 5) || decide (8 ≤ fb ∧ fb ≤ 12))
  || (fa == 13 && fb == 13) || ((fa == 6 || fa == 7) && (fb == 6 || fb == 7))

/-- NSA and NSB stand only on block types (R225). -/
def nsOk (f : FmtX) : Bool :=
  (!f.scs.getLsbD 0 || decide (8 ≤ f.fmta.toNat ∧ f.fmta.toNat ≤ 13))
  && (!f.scs.getLsbD 1 || decide (8 ≤ f.fmtb.toNat ∧ f.fmtb.toNat ≤ 13))

/-- R231, R232: FMTA, FMTB, SR, SAT and OFS of `ACST` and `ACTH` that do not depend on the destination's slots. -/
def acstOk (f : FmtX) (th : Bool) : Bool :=
  let fa := f.fmta.toNat
  let fb := f.fmtb.toNat
  let sr := f.xmod.getLsbD 0
  let sat := f.xmod.getLsbD 1
  let ofs := (f.xmod.extractLsb' 2 7).toNat
  f.scs == 0 && f.xmod.extractLsb' 9 7 == 0 &&
  (if fb == 14 then
    (decide (1 ≤ fa ∧ fa ≤ 7) && ofs == 0) || (decide (8 ≤ fa ∧ fa ≤ 13) && !sat && ofs == 0)
      || (fa == 14 && !sr && !sat && ofs % 16 == 0)
  else if fb == 15 then
    !th && ((fa == 15 && !sr && !sat && ofs % 8 == 0) || (fa == 14 && ofs % 16 == 0))
  else if fb == 0 then
    (fa == 0 && !sr && ofs == 0) || (fa == 14 && !sat && ofs % 16 == 0)
  else false)


/-- The row of an operation of the instruction set; none for a device, host or fabric event. -/
def row? : Instr → Option Row
  | .nop f => some { rowA 0x00 f [.s32] [.rn] false (f.opt == 0 && !f.hdr.nwb) with guard := .none, lat := 0, scalar := false }
  | .iadd f => some (rowInt 0x01 f tysInt true 2 2)
  | .iaddImm f => some (rowIntI 0x01 f true 2)
  | .isub f => some (rowInt 0x02 f tysInt true 2 2)
  | .isubImm f => some (rowIntI 0x02 f true 2)
  | .imul f => some (rowInt 0x03 f tysInt true 2 4)
  | .imulImm f => some (rowIntI 0x03 f true 4)
  | .imulh f => some (rowInt 0x04 f tysInt false 2 4)
  | .imulhImm f => some (rowIntI 0x04 f false 4)
  | .imad f => some (rowInt 0x05 f tysInt true 3 4)
  | .imadImm f => some (rowI 0x05 f tysInt 1 true 1 (.reg (tyRegs f.ty)) (.lat (tyRegs f.ty)) (.lat (tyRegs f.ty)) 4)
  | .imin f => some (rowInt 0x06 f tysInt false 2 2)
  | .iminImm f => some (rowIntI 0x06 f false 2)
  | .imax f => some (rowInt 0x07 f tysInt false 2 2)
  | .imaxImm f => some (rowIntI 0x07 f false 2)
  | .iabs f => some (rowInt 0x08 f [.s32, .s64] true 1 2)
  | .ineg f => some (rowInt 0x09 f [.s32, .s64] true 1 2)
  | .iset f => some (rowAlu 0x0A f tysInt [.rn] false (decide (f.opt.toNat ≤ 5)) (.reg 1) (.lat (tyRegs f.ty)) (.lat (tyRegs f.ty)) .zero 2)
  | .isetImm f => some (rowI 0x0A f tysInt 1 false 6 (.reg 1) (.lat (tyRegs f.ty)) .zero 2)
  | .aadd f => some (rowAlu 0x0B f [.s32, .u32] [.rn] false (f.opt == 0) (.reg 2) (.lat 2) (.lat 1) .zero 2)
  | .aaddImm f => some (rowI 0x0B f [.s32, .u32] 1 false 1 (.reg 2) (.lat 2) .zero 2)
  | .amad f => some (rowAlu 0x0C f [.s32, .u32] [.rn] false (f.opt == 0) (.reg 2) (.lat 2) (.lat 1) (.lat 1) 4)
  | .amadImm f => some (rowI 0x0C f [.s32, .u32] 1 false 1 (.reg 2) (.lat 2) (.lat 1) 4)
  | .and f => some (rowInt 0x10 f tysInt false 2 2)
  | .andImm f => some (rowIntI 0x10 f false 2)
  | .or f => some (rowInt 0x11 f tysInt false 2 2)
  | .orImm f => some (rowIntI 0x11 f false 2)
  | .xor f => some (rowInt 0x12 f tysInt false 2 2)
  | .xorImm f => some (rowIntI 0x12 f false 2)
  | .andn f => some (rowInt 0x13 f tysInt false 2 2)
  | .andnImm f => some (rowIntI 0x13 f false 2)
  | .not f => some (rowInt 0x14 f tysInt false 1 2)
  | .bits f => some (rowAlu 0x22 f tysInt [.rn] false (f.opt.extractLsb' 8 11 == 0) (.reg (tyRegs f.ty)) (.lat (tyRegs f.ty)) (.lat (tyRegs f.ty)) (.lat (tyRegs f.ty)) 2)
  | .shl f => some (rowShift 0x18 f)
  | .shlImm f => some (rowIntI 0x18 f false 2)
  | .shr f => some (rowShift 0x19 f)
  | .shrImm f => some (rowIntI 0x19 f false 2)
  | .sar f => some (rowShift 0x1A f)
  | .sarImm f => some (rowIntI 0x1A f false 2)
  | .rot f => some (rowShift 0x1B f)
  | .rotImm f => some (rowIntI 0x1B f false 2)
  | .popc f => some (rowCount 0x1C f)
  | .clz f => some (rowCount 0x1D f)
  | .brev f => some (rowInt 0x1E f tysInt false 1 2)
  | .bfx f => some (rowShift 0x20 f)
  | .bfxImm f => some (rowIntI 0x20 f false 2)
  | .bfi f => some (rowAlu 0x21 f tysInt [.rn] false (f.opt == 0) (.reg (tyRegs f.ty)) (.lat (tyRegs f.ty)) (.lat 1) (.lat (tyRegs f.ty)) 2)
  | .mov f => some (rowInt 0x28 f tysAll false 1 2)
  | .movImm f => some (rowI 0x28 f tysAll 1 false 1 (.reg (tyRegs f.ty)) .zero .zero 2)
  | .movi f => some (rowAlu 0x29 f tysAll [.rn] false (f.opt == 0) (.reg (tyRegs f.ty)) .base (.lat 1) .zero 2)
  | .movh f => some { rowAlu 0x2A f [.s64] [.rn] false (f.opt == 0) (.reg 2) (.lat 1) .zero .zero 2 with rdDst := true }
  | .movhImm f => some { rowI 0x2A f [.s64] 1 false 1 (.reg 2) .zero .zero 2 with rdDst := true }
  | .sel f => some (rowAlu 0x2B f tysAll [.rn] false (f.opt.extractLsb' 5 14 == 0) (.reg (tyRegs f.ty)) (.lat (tyRegs f.ty)) (.lat (tyRegs f.ty)) (.lat 1) 2)
  | .fadd f => some ((rowFp 0x30 f rmsDet 2).onFma f.ty)
  | .faddImm f => some ((rowFpI 0x30 f 4).onFma f.ty)
  | .fsub f => some ((rowFp 0x31 f rmsDet 2).onFma f.ty)
  | .fsubImm f => some ((rowFpI 0x31 f 4).onFma f.ty)
  | .fmul f => some ((rowFp 0x32 f rmsDet 2).onFma f.ty)
  | .fmulImm f => some ((rowFpI 0x32 f 4).onFma f.ty)
  | .ffma f => some ((rowFp 0x33 f rmsDet 3).onFma f.ty)
  | .ffmaImm f => some ((rowI 0x33 f tysFloat 4 false 1 (.reg (tyRegs f.ty)) (.lat (tyRegs f.ty)) (.lat (tyRegs f.ty)) (fpLat f.ty)).onFma f.ty)
  | .fsqrt f => some (rowFu 0x42 f tysFloat rmsDet)
  | .fscale f => some ((rowAlu 0x47 f tysFloat rmsDet false (f.opt == 0) (.reg (tyRegs f.ty)) (.lat (tyRegs f.ty)) (.lat 1) .zero (fpLat f.ty)).onFma f.ty)
  | .fscaleImm f => some ((rowFpI 0x47 f 4).onFma f.ty)
  | .fmin f => some ((rowFp 0x34 f [.rn] 2).onFma f.ty)
  | .fminImm f => some ((rowFpI 0x34 f 1).onFma f.ty)
  | .fmax f => some ((rowFp 0x35 f [.rn] 2).onFma f.ty)
  | .fmaxImm f => some ((rowFpI 0x35 f 1).onFma f.ty)
  | .fabs f => some (rowFp 0x36 f [.rn] 1)
  | .fneg f => some (rowFp 0x37 f [.rn] 1)
  | .fclass f => some (rowAlu 0x39 f tysFloat [.rn] false (f.opt == 0) (.reg 1) (.lat (tyRegs f.ty)) .zero .zero (fpLat f.ty))
  | .fset f => some (rowAlu 0x38 f tysFloat [.rn] false (decide (f.opt.toNat ≤ 7)) (.reg 1) (.lat (tyRegs f.ty)) (.lat (tyRegs f.ty)) .zero (fpLat f.ty))
  | .fsetImm f => some (rowI 0x38 f tysFloat 1 false 8 (.reg 1) (.lat (tyRegs f.ty)) .zero (fpLat f.ty))
  | .frcp f => some (rowFu 0x40 f [.f32, .f64] [.rn])
  | .frsq f => some (rowFu 0x41 f [.f32, .f64] [.rn])
  | .fexp2 f => some (rowFu 0x43 f [.f32] [.rn])
  | .flog2 f => some (rowFu 0x44 f [.f32] [.rn])
  | .fsin f => some (rowFu 0x45 f [.f32] [.rn])
  | .fcos f => some (rowFu 0x46 f [.f32] [.rn])
  | .cvt f => some (rowCvt f)
  | .cvts f => some (rowCvts f)
  | .cvtu f => some (rowCvtu f)
  | .cvtb f => some (rowCvtb f)
  | .bscl f => some (rowBscl f)
  | .shfl f => some (rowShfl f)
  | .vote f => some (rowVote f)
  | .gred f => some (rowGred f)
  | .gscan f => some (rowGscan f)
  | .bra f => some (rowB 0x60 f .any .zero .zero (f.hdr.sub == 0) false false true)
  | .brd f => some (rowB 0x61 f .any .zero .zero (f.hdr.sub == 0) true false true)
  | .jmp f => some (rowB 0x62 f .any .zero (.s 2) (f.hdr.sub == 0) false false false)
  | .call f => some (rowB 0x63 f .any (.reg 2) .zero (f.hdr.sub == 0) false false true)
  | .calli f => some (rowB 0x64 f .any (.v 2) (.v 2) (f.hdr.sub == 0) true false false)
  | .ret f => some (rowB 0x65 f .any .zero (.reg 2) (f.hdr.sub == 0) false false false)
  | .dmark f => some (rowB 0x66 f .scalar .zero .zero (f.hdr.sub == 0) false true false)
  | .reform f => some (rowB 0x67 f .scalar .zero .zero (f.hdr.sub == 0) true true false)
  | .exit f => some (rowB 0x68 f .any .zero .zero (f.hdr.sub == 0) false false false)
  | .yield f => some (rowB 0x69 f .scalar .zero .zero (f.hdr.sub == 0) false false false)
  | .yieldDone f => some (rowB 0x69 f .scalar .zero .zero (f.hdr.sub == 1) false false false)
  | .barr f => some (rowS 0x70 f .any (.s 1) .zero .zero false (barOk f true))
  | .barw f => some (rowS 0x71 f .any .zero .zero .zero false (barOk f true))
  | .bara f => some (rowS 0x72 f .scalar (.s 1) (.s 1) .zero false (barOk f true))
  | .barm f => some (rowS 0x73 f .scalar .zero (.s 1) .zero false (barOk f false))
  | .barq f => some (rowS 0x74 f .scalar (.s 1) .zero .zero false (barOk f false))
  | .barv f => some (rowS 0x75 f .scalar .zero (.s 1) .zero false (barOk f true))
  | .fence f => some (rowS 0x76 f .scalar (if f.smod.getLsbD 5 then .s 1 else .zero) .zero .zero false (f.smod.extractLsb' 6 9 == 0 && decide ((f.smod.extractLsb' 0 3).toNat ≤ 4) && decide ((f.smod.extractLsb' 3 2).toNat ≤ 2)))
  | .xfence f => some (rowS 0x77 f .scalar .zero .zero .zero false (f.smod.extractLsb' 9 6 == 0 && decide ((f.smod.extractLsb' 0 3).toNat ≤ 4) && decide ((f.smod.extractLsb' 3 3).toNat ≤ 4) && decide ((f.smod.extractLsb' 6 3).toNat ≤ 4) && (f.smod.extractLsb' 0 3 != f.smod.extractLsb' 3 3)))
  | .afence f => some (rowS 0x78 f .scalar .zero .zero .zero false (decide (f.smod.toNat ≤ 4)))
  | .sysf f => some (rowS 0x79 f .scalar (.s 1) .zero .zero false (f.smod == 0))
  | .tokw f => some (rowS 0x7A f .scalar .zero .zero .zero false (f.smod == 0))
  | .tokp f => some (rowS 0x7B f .scalar .zero .zero .zero false (f.smod == 0))
  | .atomAdd f => some (rowAtomSub 0 f)
  | .atomMinSigned f => some (rowAtomSub 1 f)
  | .atomMinUnsigned f => some { rowAtomSub 2 f with ok := (rowAtomSub 2 f).ok && f.size == 2 }
  | .atomMaxSigned f => some (rowAtomSub 3 f)
  | .atomMaxUnsigned f => some { rowAtomSub 4 f with ok := (rowAtomSub 4 f).ok && f.size == 2 }
  | .atomAnd f => some (rowAtomSub 5 f)
  | .atomOr f => some (rowAtomSub 6 f)
  | .atomXor f => some (rowAtomSub 7 f)
  | .atomExch f => some (rowAtomSub 8 f)
  | .atomFadd f => some (rowAtomSub 9 f)
  | .atomFmin f => some (rowAtomSub 10 f)
  | .atomFmax f => some (rowAtomSub 11 f)
  | .atcas f => some (rowAtom 0x7D f (f.hdr.sub == 0) false true [0, 1, 2, 3])
  | .atf f => some (rowAtf f)
  | .atfAttemptAnswer _ _ => none
  | .ld f => some (rowLoad 0x80 f true false)
  | .st f => some (rowStore 0x81 f false)
  | .ldg f => some (rowLoad 0x82 f true true)
  | .stg f => some (rowStore 0x83 f true)
  | .ldi f => some (rowLoad 0x84 f false false)
  | .pref f => some (rowM 0x85 f (formGuard f.addr) .zero (.reg 2) .zero .zero (f.hdr.sub == 0 && f.size == 0 && f.sem == 0 && f.hint.extractLsb' 1 3 == 0) 0)
  | .spset f => some (rowSp 0x86 f .zero)
  | .spclr f => some (rowSp 0x87 f .zero)
  | .sptst f => some (rowSp 0x88 f (.reg 1))
  | .wcfl f => some (rowM 0x89 f .any .zero .zero .zero .zero (mPlain f 0 && f.off == 0) 0)
  | .cpy f => some (rowCopy 0x90 f 0 .shPair .shPair)
  | .cptLd f => some (rowCopy 0x91 f 0 (.s 2) .shPair)
  | .cptSt f => some (rowCopy 0x91 f 1 (.s 2) .shPair)
  | .cpx f => some (rowCopy 0x94 f 0 .shPair (.s 1))
  | .cpw f => some (rowM 0x92 f .scalar .zero .zero (.s 1) .zero (mPlain f 0 && f.off == 0) 0)
  | .cpq f => some (rowM 0x93 f .scalar (.s 2) .zero (.s 1) .zero (mPlain f 0 && f.off == 0) 2)
  | .copyLineWrite _ _ => none
  | .copyCompletion _ _ => none
  | .halloc f => some (rowX 0x98 f .h .zero .zero .zero 0 (xPlain f && decide (f.xmod.toNat ≤ 2)) false)
  | .hallocGrant _ => none
  | .hfree f => some (rowX 0x99 f .zero .h .zero .zero 0 (xPlain f && f.xmod == 0) false)
  | .hput f => some (rowX 0x9A f .zero .h .zero .zero 0 (xPlain f && decide (f.xmod.toNat ≤ 7)) false)
  | .htake f => some (rowX 0x9B f .h .zero .zero .zero 0 (xPlain f && decide (f.xmod.toNat ≤ 7)) false)
  | .hqry f => some (rowX 0x9C f (.s 1) .zero .zero .zero 0 (xPlain f && f.xmod == 0) false)
  | .tld f => some (rowX 0x9D f .h (.s 2) (.s 1) .zero 0 (tileOk f) false)
  | .tst f => some (rowX 0x9D f .zero (.s 2) (.s 1) .h 1 (tileOk f) false)
  | .trd f => some { rowX 0x9E f (.reg 1) .h (.reg 1) .zero 0 (xPlain f && decide (f.xmod.toNat ≤ 1) && !(isS f.dst && !isS f.b)) false with lat := 6 }
  | .twr f => some (rowX 0x9E f .h (.reg 1) (.reg 1) .zero 1 (xPlain f && decide (f.xmod.toNat ≤ 1)) false)
  | .tfill f => some (rowX 0x9F f .h (.s 1) (if f.xmod.getLsbD 0 then .s 1 else .zero) .zero 0 (xPlain f && decide (f.xmod.toNat ≤ 1)) false)
  | .tqpop f => some (rowM 0xA0 f .scalar (.s 2) (.s 2) .zero .zero (mPlain f 0) 0)
  | .tqsteal f => some (rowM 0xA1 f .scalar (.s 2) (.s 2) .zero .zero (mPlain f 0) 2)
  | .tqdone f => some (rowM 0xA2 f .scalar (.s 1) (.s 2) .zero .zero (mPlain f 0) 0)
  | .strg f => some (rowM 0xA3 f .scalar (.s 1) .zero (.s 1) .zero (f.hdr.sub == 0 && f.size == 0 && f.sem == 0 && !f.hint.getLsbD 3 && f.off == 0) 8)
  | .strgT f => some (rowM 0xA3 f .scalar (.s 1) .zero (.s 1) (.s 1) (f.hdr.sub == 1 && f.size == 0 && f.sem == 0 && !f.hint.getLsbD 3 && f.off == 0) 8)
  | .coll f => some { rowM 0xA4 f .scalar .zero (.s 2) .zero .zero (mPlain f 0 && f.off == 0) 0 with full := true }
  | .mma f => some (rowX 0xB0 f .zero .h .h .zero 0 (nsOk f && mmaPair f.fmta.toNat f.fmtb.toNat && f.xmod.extractLsb' 1 15 == 0) true)
  | .mmas f => some (rowX 0xB1 f .h .h .h .h 0 (nsOk f && mmaPair f.fmta.toNat f.fmtb.toNat && f.xmod.extractLsb' 1 15 == 0 && f.dst != f.a && f.dst != f.b && f.dst != f.c) true)
  | .mmab f => some (rowX 0xB2 f .zero .h (if f.b == opd0 then .zero else .h) (.s 2) 0 (nsOk f && mmaPair f.fmta.toNat f.fmtb.toNat && f.xmod.extractLsb' 4 12 == 0) true)
  | .mma64 f => some (rowX 0xB3 f .zero .h .h .zero 0 (f.scs == 0 && f.fmta == 15 && f.fmtb == 15 && f.xmod.extractLsb' 2 14 == 0) true)
  | .mmai f => some (rowX 0xB4 f .zero .h .h .zero 0 (f.scs == 0 && f.fmta == 0 && f.fmtb == 0 && f.xmod.extractLsb' 3 13 == 0 && !f.xmod.getLsbD 1) true)
  | .acz f => some (rowX 0xB8 f .zero .zero .zero .zero 0 (f.fmta == 0 && f.fmtb == 0 && f.scs == 0 && f.xmod == 0) true)
  | .acst f => some (rowX 0xB9 f .h .zero .zero (if f.xmod.getLsbD 0 then .s 1 else .zero) 0 (acstOk f false) true)
  | .acth f => some (rowX 0xBA f .h .zero .zero (if f.xmod.getLsbD 0 then .s 1 else .zero) 0 (acstOk f true) true)
  | .acrd f => some { rowX 0xBB f (.reg (if f.xmod.getLsbD 0 then 2 else 1)) (.reg 1) .zero .zero 0 (f.fmta == 0 && f.fmtb == 0 && f.scs == 0 && decide (f.xmod.toNat ≤ 1) && !(isS f.dst && !isS f.a)) true with lat := 6 }
  | .acwr f => some (rowX 0xBC f .zero (.reg 1) (.reg (if f.xmod.getLsbD 0 then 2 else 1)) .zero 0 (f.fmta == 0 && f.fmtb == 0 && f.scs == 0 && decide (f.xmod.toNat ≤ 1)) true)
  | .engineCommandCompletion _ _ => none
  | .solb f => some (rowX 0xC0 f .zero (.s 1) .zero .zero 0 (xPlain f && f.xmod.extractLsb' 10 6 == 0) true)
  | .sole f => some (rowX 0xC1 f .zero .zero .zero .zero 0 (xPlain f && decide (f.xmod.toNat ≤ 3)) true)
  | .solveStepCompletion _ => none
  | .solq f => some (rowX 0xC2 f (.s (if f.xmod.extractLsb' 2 2 == 1 || f.xmod.extractLsb' 2 2 == 2 then 2 else 1)) .zero .zero .zero 0 (xPlain f && f.xmod.extractLsb' 4 12 == 0) true)
  | .solx f => some (rowX 0xC3 f .zero .zero .zero .zero 0 (xPlain f && decide (f.xmod.toNat ≤ 3)) true)
  | .solh f => some (rowX 0xC4 f .h .zero .zero .zero 0 (xPlain f && f.xmod.extractLsb' 8 8 == 0) true)
  | .mfs f => some (rowMfs f)
  | .mts f => some (rowMts 0xE1 f .rw .zero)
  | .mtsp f => some (rowMts 0xE2 f .priv (.s 1))
  | .acq f => some (rowS 0xE3 f .scalar .zero .zero .zero false (f.smod.extractLsb' 13 2 == 0 && decide (2 ≤ (f.smod.extractLsb' 0 6).toNat ∧ (f.smod.extractLsb' 0 6).toNat ≤ 32) && decide (2 ≤ (f.smod.extractLsb' 6 5).toNat ∧ (f.smod.extractLsb' 6 5).toNat ≤ 16) && decide ((f.smod.extractLsb' 11 2).toNat ≤ 2)))
  | .allotmentGrant _ => none
  | .rela f => some (rowS 0xE4 f .scalar .zero .zero .zero false (f.smod == 0))
  | .rdoc f => some (rowS 0xE5 f .scalar (.s 2) .zero .zero false (f.smod == 0))
  | .trap f => some (rowS 0xE6 f .scalar .zero .zero .zero false true)
  | .rft f => some (rowS 0xE7 f .scalar .zero .zero .zero false (f.smod == 0))
  | .halt f => some (rowS 0xE8 f .scalar .zero .zero .zero false true)
  | .snap f => some (rowS 0xE9 f .scalar .zero .zero .zero false (f.smod.extractLsb' 8 7 == 0))
  | .dbg f => some (rowS 0xEA f .scalar .zero .zero .zero false true)
  | .trade f => some (rowS 0xEB f .scalar (.s 1) (.s 1) (.s 1) false (f.smod == 0))
  | .tradea f => some (rowS 0xEC f .scalar (.s 1) (.s 1) (.s 1) false (f.smod == 0))
  | .launch f => some (rowS 0xED f .scalar (.s 1) (.s 2) .zero false (f.smod == 0))
  | .signal f => some (rowS 0xEE f .scalar .zero (.s 1) .zero false (f.smod.extractLsb' 6 9 == 0))
  | .evwait f => some (rowS 0xEF f .scalar .zero (.s 1) .zero false (f.smod.extractLsb' 6 9 == 0))
  | .teamAdmission _ => none
  | .gridCompletion _ _ => none
  | .deal _ => none
  | .roundBoundary => none
  | .sessionBoundary => none
  | .switchCutoff => none
  | .switchResume => none
  | .lineFetchArrival _ _ => none
  | .l2SliceService _ _ _ => none
  | .responseArrival _ => none
  | .hbmAccessBegin _ _ _ => none
  | .hbmLineFill _ => none
  | .l2TlbLookup _ _ => none
  | .walkStep _ => none
  | .mergeTableInsert _ _ => none
  | .wcAgeDrain _ _ => none
  | .remoteWcAgeDrain _ _ _ => none
  | .mmx _ _ => none
  | .regionIdSweep => none
  | .hbmRefresh _ _ => none
  | .hbmScrub _ => none
  | .dump _ => none
  | .globalTick _ => none
  | .snapshotLatch _ => none
  | .externalDebugTrigger => none
  | .remoteRequestArrival _ => none
  | .keepWaitingSend _ => none
  | .keepWaitingNotice _ => none
  | .linkTimeout _ => none
  | .peerLost _ => none
  | .peerReadmit _ => none
  | .planeDead _ => none
  | .linkReplay _ _ => none
  | .linkAck _ _ _ => none
  | .chunkContributionArrival _ => none
  | .collLateTimeout _ _ => none
  | .failureNotice _ => none
  | .collCompletion _ _ => none
  | .scorecardStamp _ => none
  | .thermalEmergency => none
  | .clockRestore => none
  | .coldReset => none
  | .coldResetUnsigned => none
  | .hotReset => none
  | .hostCxlMemAccess _ => none
  | .ldb _ _ => none
  | .fansResume _ _ => none
  | .fansNomap _ _ => none
  | .fansFrameUnavailable _ _ => none
  | .crel _ _ => none
  | .dres _ _ _ => none
  | .admitOwner _ => none
  | .retire _ => none
  | .turns _ => none
  | .cores _ _ => none
  | .switch _ _ => none
  | .refill _ _ => none
  | .getVersion => none
  | .getCapabilities => none
  | .negotiateAlgorithms _ _ => none
  | .getDigests => none
  | .getCertificate _ _ => none
  | .challenge _ => none
  | .getMeasurements _ => none
  | .unsupportedRequest _ => none
  | .ringHasRoom _ _ => none
  | .engineReadMarkClear _ _ => none
  | .clusterHalt _ => none
  | .cxlCacheSnoop _ => none

/-- Pair class of a major opcode (R122). An opcode of no class range counts as class N, so that a pair which holds one is illegal as a pair (DESIGN CHOICE,
row 42 of notes/assumptions). -/
def pairClass (opc : BitVec 8) : PairClass :=
  let o := opc.toNat
  if o ≤ 0x51 ∨ o = 0x53 then .p
  else if o = 0x52 ∨ o = 0x54 ∨ (0x58 ≤ o ∧ o ≤ 0x5F) ∨ (0x7C ≤ o ∧ o ≤ 0x7E) ∨ (0x80 ≤ o ∧ o ≤ 0x9F) ∨ (0xB0 ≤ o ∧ o ≤ 0xBF) then .m
  else .n

/-- A register number that starts an operand of `n` registers (R125, R196). -/
def aligned (n r : Nat) : Bool := r % n == 0

/-- The field accepts the operand (R125). -/
def fieldOk : Fk → Opd → Bool
  | .zero, o => o == opd0
  | .reg n, .v r => aligned n r.toNat
  | .reg n, .s r => aligned n r.toNat
  | .lat n, .v r => aligned n r.toNat
  | .lat n, .s r => aligned n r.toNat
  | .lat _, .b _ => true
  | .v n, .v r => aligned n r.toNat
  | .s n, .s r => aligned n r.toNat
  | .h, .h _ => true
  | .sh, .s _ => true
  | .sh, .h _ => true
  | .shPair, .s r => aligned 2 r.toNat
  | .shPair, .h _ => true
  | .base, .v _ => true
  | .base, .s _ => true
  | _, _ => false

/-- The operand is an s register or is not used (R139). -/
def scalarSrc : Opd × Fk → Bool
  | (_, .zero) => true
  | (.s _, _) => true
  | _ => false

/-- The guard's register class is accepted (R47, R126, R139). -/
def guardOk (k : Gk) (g : Option Grd) : Bool :=
  match g with
  | none => true
  | some g =>
    match k, g.reg with
    | .any, .v _ => true
    | .any, .s _ => true
    | .scalar, .s _ => true
    | _, _ => false

def guardIsV : Option Grd → Bool
  | some { reg := .v _, .. } => true
  | _ => false

end Sys2Proof.Machine
end

