-- ==== Sys2Proof/WellFormed.lean ====
section
/-! DEFINITION. Well-formed instructions: the static checks of step 3 of R130, one named check each. -/

namespace Sys2Proof

open Sys2Proof.Machine

/-- SUB, types, rounding, saturation and the instruction-specific fields hold legal values (R124, R127, R131, R132). -/
def Instr.fieldsLegal (i : Instr) : Bool :=
  match row? i with
  | some r => r.ok
  | none => true

/-- The guard is of a class that the instruction accepts (R47, R126). -/
def Instr.guardLegal (i : Instr) : Bool :=
  match row? i with
  | some r => guardOk r.guard r.hdr.guard
  | none => true

/-- NWB = 1 stands only on a latching instruction whose DST is zero (R45, R129). -/
def Instr.nwbLegal (i : Instr) : Bool :=
  match row? i with
  | some r => !r.hdr.nwb || (r.latch && r.dst == opd0)
  | none => true

/-- Every operand is of a class and an evenness that its field accepts (R125). -/
def Instr.operandsLegal (i : Instr) : Bool :=
  match row? i with
  | some r => fieldOk r.dk r.dst && r.src.all (fun p => fieldOk p.2 p.1)
  | none => true

/-- In scalar form every source is an s register or the immediate, and so is the guard (R139). -/
def Instr.scalarLegal (i : Instr) : Bool :=
  match row? i with
  | some r => !(r.scalar && isS r.dst) || (r.src.all scalarSrc && !guardIsV r.hdr.guard)
  | none => true

/-- The instruction passes every static check; an event always does. -/
def Instr.wf (i : Instr) : Bool :=
  i.fieldsLegal && i.guardLegal && i.nwbLegal && i.operandsLegal && i.scalarLegal

end Sys2Proof
end

