-- ==== Sys2Proof/Decode.lean ====
section
/-! DEFINITION. From bits to instructions and back: the header and the six formats of R124, the opcode map of R131, the
fetch line of R116 to R118, and slots and PCs (R119). Rejection is by name. -/

namespace Sys2Proof

open Sys2Proof.Machine

/-- Why a word is no instruction; each is the fatal fault illegal instruction (R132). -/
inductive Reject where
  /-- The major opcode is not assigned. -/
  | unassignedOpcode
  /-- No entry of the major opcode lists the SUB. -/
  | unassignedSub
  /-- An operand field holds a reserved code (R125). -/
  | reservedOperand
  /-- The guard's fields are not those of R126. -/
  | badGuard
  /-- TYPE, RM or SAT holds a reserved code (R124, R127). -/
  | reservedMode
  /-- A static check of the instruction's entry fails. -/
  | illFormed
deriving DecidableEq, Repr

/-- An operand specifier from its code (R125). -/
def opdOfCode (c : BitVec 9) : Option Opd :=
  if c.toNat < 0x100 then some (.v (c.extractLsb' 0 8))
  else if c.toNat < 0x140 then some (.s (c.extractLsb' 0 6))
  else if c.toNat < 0x150 then some (.h (c.extractLsb' 0 4))
  else if c.toNat < 0x154 then some (.b (c.extractLsb' 0 2))
  else none

/-- The code of an operand specifier (R125). -/
def codeOfOpd : Opd → BitVec 9
  | .v n => 0#1 ++ n
  | .s n => 4#3 ++ n
  | .h n => 20#5 ++ n
  | .b n => 84#7 ++ n

/-- TYPE (R127). -/
def tyOfCode (c : BitVec 4) : Option Ty :=
  match c.toNat with
  | 0 => some .s32
  | 1 => some .u32
  | 2 => some .s64
  | 3 => some .f32
  | 4 => some .f64
  | 5 => some .f16x2
  | 6 => some .bf16x2
  | _ => none

def codeOfTy : Ty → BitVec 4
  | .s32 => 0
  | .u32 => 1
  | .s64 => 2
  | .f32 => 3
  | .f64 => 4
  | .f16x2 => 5
  | .bf16x2 => 6

/-- RM (R124). -/
def rmOfCode (c : BitVec 3) : Option Rm :=
  match c.toNat with
  | 0 => some .rn
  | 1 => some .rz
  | 2 => some .rd
  | 3 => some .ru
  | 4 => some .sr
  | _ => none

def codeOfRm : Rm → BitVec 3
  | .rn => 0
  | .rz => 1
  | .rd => 2
  | .ru => 3
  | .sr => 4

/-- An instruction word (R116, R124): 96 bits. -/
abbrev IWord := BitVec 96

/-- OPC, bits [95:88]. -/
def IWord.opc (w : IWord) : BitVec 8 := w.extractLsb' 88 8
/-- SUB, bits [87:80]. -/
def IWord.sub (w : IWord) : BitVec 8 := w.extractLsb' 80 8

/-- The guard of bits [79:64] (R126): none when GEN = 0 and the other fields are zero. -/
def guardOfBits (g : BitVec 16) : Except Reject (Option Grd) :=
  if g.getLsbD 0 then
    match opdOfCode (g.extractLsb' 7 9) with
    | some r => .ok (some { reg := r, bit := g.extractLsb' 2 5, neg := g.getLsbD 1 })
    | none => .error .reservedOperand
  else if g == 0 then .ok none
  else .error .badGuard

def bitsOfGuard : Option Grd → BitVec 16
  | none => 0
  | some g => codeOfOpd g.reg ++ g.bit ++ BitVec.ofBool g.neg ++ 1#1

/-- The header (R124). -/
def parseHdr (w : IWord) : Except Reject Hdr :=
  match guardOfBits (w.extractLsb' 64 16) with
  | .ok g => .ok { sub := w.sub, guard := g, nwb := w.getLsbD 63 }
  | .error e => .error e

/-- Bits [95:63] of a word (R124). -/
def packHdr (opc : BitVec 8) (h : Hdr) : BitVec 33 := opc ++ h.sub ++ bitsOfGuard h.guard ++ BitVec.ofBool h.nwb

/-- An operand field, or the rejection of a reserved code. -/
def parseOpd (c : BitVec 9) : Except Reject Opd :=
  match opdOfCode c with
  | some o => .ok o
  | none => .error .reservedOperand

def parseTy (c : BitVec 4) : Except Reject Ty :=
  match tyOfCode c with
  | some t => .ok t
  | none => .error .reservedMode

def parseRm (c : BitVec 3) : Except Reject Rm :=
  match rmOfCode c with
  | some t => .ok t
  | none => .error .reservedMode

/-- Format A (R124). -/
def parseA (w : IWord) : Except Reject FmtA := do
  let hdr ← parseHdr w
  let dst ← parseOpd (w.extractLsb' 54 9)
  let a ← parseOpd (w.extractLsb' 45 9)
  let b ← parseOpd (w.extractLsb' 36 9)
  let c ← parseOpd (w.extractLsb' 27 9)
  let ty ← parseTy (w.extractLsb' 23 4)
  let rm ← parseRm (w.extractLsb' 20 3)
  .ok { hdr := hdr, dst := dst, a := a, b := b, c := c, ty := ty, rm := rm, sat := w.getLsbD 19, opt := w.extractLsb' 0 19 }

def packA (opc : BitVec 8) (f : FmtA) : IWord :=
  packHdr opc f.hdr ++ codeOfOpd f.dst ++ codeOfOpd f.a ++ codeOfOpd f.b ++ codeOfOpd f.c ++ codeOfTy f.ty ++ codeOfRm f.rm
    ++ BitVec.ofBool f.sat ++ f.opt

/-- Format I (R124). -/
def parseI (w : IWord) : Except Reject FmtI := do
  let hdr ← parseHdr w
  let dst ← parseOpd (w.extractLsb' 54 9)
  let a ← parseOpd (w.extractLsb' 45 9)
  let b ← parseOpd (w.extractLsb' 36 9)
  let ty ← parseTy (w.extractLsb' 32 4)
  .ok { hdr := hdr, dst := dst, a := a, b := b, ty := ty, imm := w.extractLsb' 0 32 }

def packI (opc : BitVec 8) (f : FmtI) : IWord :=
  packHdr opc f.hdr ++ codeOfOpd f.dst ++ codeOfOpd f.a ++ codeOfOpd f.b ++ codeOfTy f.ty ++ f.imm

/-- Format B (R124). -/
def parseB (w : IWord) : Except Reject FmtB := do
  let hdr ← parseHdr w
  let dst ← parseOpd (w.extractLsb' 54 9)
  let a ← parseOpd (w.extractLsb' 45 9)
  let b ← parseOpd (w.extractLsb' 36 9)
  .ok { hdr := hdr, dst := dst, a := a, b := b, live := w.extractLsb' 30 6, jn := w.extractLsb' 27 3, off := w.extractLsb' 0 27 }

def packB (opc : BitVec 8) (f : FmtB) : IWord :=
  packHdr opc f.hdr ++ codeOfOpd f.dst ++ codeOfOpd f.a ++ codeOfOpd f.b ++ f.live ++ f.jn ++ f.off

/-- Format M (R124). -/
def parseM (w : IWord) : Except Reject FmtM := do
  let hdr ← parseHdr w
  let dst ← parseOpd (w.extractLsb' 54 9)
  let addr ← parseOpd (w.extractLsb' 45 9)
  let data ← parseOpd (w.extractLsb' 36 9)
  let c ← parseOpd (w.extractLsb' 27 9)
  .ok { hdr := hdr, dst := dst, addr := addr, data := data, c := c, size := w.extractLsb' 24 3, sem := w.extractLsb' 20 4,
        hint := w.extractLsb' 16 4, off := w.extractLsb' 0 16 }

def packM (opc : BitVec 8) (f : FmtM) : IWord :=
  packHdr opc f.hdr ++ codeOfOpd f.dst ++ codeOfOpd f.addr ++ codeOfOpd f.data ++ codeOfOpd f.c ++ f.size ++ f.sem ++ f.hint ++ f.off

/-- Format X (R124). -/
def parseX (w : IWord) : Except Reject FmtX := do
  let hdr ← parseHdr w
  let dst ← parseOpd (w.extractLsb' 54 9)
  let a ← parseOpd (w.extractLsb' 45 9)
  let b ← parseOpd (w.extractLsb' 36 9)
  let c ← parseOpd (w.extractLsb' 27 9)
  .ok { hdr := hdr, dst := dst, a := a, b := b, c := c, org := w.extractLsb' 26 1, fmta := w.extractLsb' 22 4,
        fmtb := w.extractLsb' 18 4, scs := w.extractLsb' 16 2, xmod := w.extractLsb' 0 16 }

def packX (opc : BitVec 8) (f : FmtX) : IWord :=
  packHdr opc f.hdr ++ codeOfOpd f.dst ++ codeOfOpd f.a ++ codeOfOpd f.b ++ codeOfOpd f.c ++ f.org ++ f.fmta ++ f.fmtb ++ f.scs ++ f.xmod

/-- Format S (R124). -/
def parseS (w : IWord) : Except Reject FmtS := do
  let hdr ← parseHdr w
  let dst ← parseOpd (w.extractLsb' 54 9)
  let a ← parseOpd (w.extractLsb' 45 9)
  let b ← parseOpd (w.extractLsb' 36 9)
  let c ← parseOpd (w.extractLsb' 27 9)
  .ok { hdr := hdr, dst := dst, a := a, b := b, c := c, spr := w.extractLsb' 15 12, smod := w.extractLsb' 0 15 }

def packS (opc : BitVec 8) (f : FmtS) : IWord :=
  packHdr opc f.hdr ++ codeOfOpd f.dst ++ codeOfOpd f.a ++ codeOfOpd f.b ++ codeOfOpd f.c ++ f.spr ++ f.smod

/-- A parsed format under its constructor. -/
def build {α : Type} (c : α → Instr) (x : Except Reject α) : Except Reject Instr :=
  match x with
  | .ok f => .ok (c f)
  | .error e => .error e

/-- The instruction that (OPC, SUB) names, with the word's fields (R131). Formats A and I are told apart by SUB[7]. -/
def parse (w : IWord) : Except Reject Instr :=
  match w.opc.toNat with
  | 0x00 => build .nop (parseA w)
  | 0x01 => if w.sub.getLsbD 7 then build .iaddImm (parseI w) else build .iadd (parseA w)
  | 0x02 => if w.sub.getLsbD 7 then build .isubImm (parseI w) else build .isub (parseA w)
  | 0x03 => if w.sub.getLsbD 7 then build .imulImm (parseI w) else build .imul (parseA w)
  | 0x04 => if w.sub.getLsbD 7 then build .imulhImm (parseI w) else build .imulh (parseA w)
  | 0x05 => if w.sub.getLsbD 7 then build .imadImm (parseI w) else build .imad (parseA w)
  | 0x06 => if w.sub.getLsbD 7 then build .iminImm (parseI w) else build .imin (parseA w)
  | 0x07 => if w.sub.getLsbD 7 then build .imaxImm (parseI w) else build .imax (parseA w)
  | 0x08 => build .iabs (parseA w)
  | 0x09 => build .ineg (parseA w)
  | 0x0A => if w.sub.getLsbD 7 then build .isetImm (parseI w) else build .iset (parseA w)
  | 0x0B => if w.sub.getLsbD 7 then build .aaddImm (parseI w) else build .aadd (parseA w)
  | 0x0C => if w.sub.getLsbD 7 then build .amadImm (parseI w) else build .amad (parseA w)
  | 0x10 => if w.sub.getLsbD 7 then build .andImm (parseI w) else build .and (parseA w)
  | 0x11 => if w.sub.getLsbD 7 then build .orImm (parseI w) else build .or (parseA w)
  | 0x12 => if w.sub.getLsbD 7 then build .xorImm (parseI w) else build .xor (parseA w)
  | 0x13 => if w.sub.getLsbD 7 then build .andnImm (parseI w) else build .andn (parseA w)
  | 0x14 => build .not (parseA w)
  | 0x18 => if w.sub.getLsbD 7 then build .shlImm (parseI w) else build .shl (parseA w)
  | 0x19 => if w.sub.getLsbD 7 then build .shrImm (parseI w) else build .shr (parseA w)
  | 0x1A => if w.sub.getLsbD 7 then build .sarImm (parseI w) else build .sar (parseA w)
  | 0x1B => if w.sub.getLsbD 7 then build .rotImm (parseI w) else build .rot (parseA w)
  | 0x1C => build .popc (parseA w)
  | 0x1D => build .clz (parseA w)
  | 0x1E => build .brev (parseA w)
  | 0x20 => if w.sub.getLsbD 7 then build .bfxImm (parseI w) else build .bfx (parseA w)
  | 0x21 => build .bfi (parseA w)
  | 0x22 => build .bits (parseA w)
  | 0x28 => if w.sub.getLsbD 7 then build .movImm (parseI w) else build .mov (parseA w)
  | 0x29 => build .movi (parseA w)
  | 0x2A => if w.sub.getLsbD 7 then build .movhImm (parseI w) else build .movh (parseA w)
  | 0x2B => build .sel (parseA w)
  | 0x30 => if w.sub.getLsbD 7 then build .faddImm (parseI w) else build .fadd (parseA w)
  | 0x31 => if w.sub.getLsbD 7 then build .fsubImm (parseI w) else build .fsub (parseA w)
  | 0x32 => if w.sub.getLsbD 7 then build .fmulImm (parseI w) else build .fmul (parseA w)
  | 0x33 => if w.sub.getLsbD 7 then build .ffmaImm (parseI w) else build .ffma (parseA w)
  | 0x34 => if w.sub.getLsbD 7 then build .fminImm (parseI w) else build .fmin (parseA w)
  | 0x35 => if w.sub.getLsbD 7 then build .fmaxImm (parseI w) else build .fmax (parseA w)
  | 0x36 => build .fabs (parseA w)
  | 0x37 => build .fneg (parseA w)
  | 0x38 => if w.sub.getLsbD 7 then build .fsetImm (parseI w) else build .fset (parseA w)
  | 0x39 => build .fclass (parseA w)
  | 0x40 => build .frcp (parseA w)
  | 0x41 => build .frsq (parseA w)
  | 0x42 => build .fsqrt (parseA w)
  | 0x43 => build .fexp2 (parseA w)
  | 0x44 => build .flog2 (parseA w)
  | 0x45 => build .fsin (parseA w)
  | 0x46 => build .fcos (parseA w)
  | 0x47 => if w.sub.getLsbD 7 then build .fscaleImm (parseI w) else build .fscale (parseA w)
  | 0x50 => build .cvt (parseA w)
  | 0x51 => build .cvts (parseA w)
  | 0x52 => build .cvtb (parseA w)
  | 0x53 => build .cvtu (parseA w)
  | 0x54 => build .bscl (parseA w)
  | 0x58 => build .shfl (parseA w)
  | 0x59 => build .vote (parseA w)
  | 0x5A => build .gred (parseA w)
  | 0x5B => build .gscan (parseA w)
  | 0x60 => build .bra (parseB w)
  | 0x61 => build .brd (parseB w)
  | 0x62 => build .jmp (parseB w)
  | 0x63 => build .call (parseB w)
  | 0x64 => build .calli (parseB w)
  | 0x65 => build .ret (parseB w)
  | 0x66 => build .dmark (parseB w)
  | 0x67 => build .reform (parseB w)
  | 0x68 => build .exit (parseB w)
  | 0x69 =>
    match w.sub.toNat with
    | 0 => build .yield (parseB w)
    | 1 => build .yieldDone (parseB w)
    | _ => .error .unassignedSub
  | 0x70 => build .barr (parseS w)
  | 0x71 => build .barw (parseS w)
  | 0x72 => build .bara (parseS w)
  | 0x73 => build .barm (parseS w)
  | 0x74 => build .barq (parseS w)
  | 0x75 => build .barv (parseS w)
  | 0x76 => build .fence (parseS w)
  | 0x77 => build .xfence (parseS w)
  | 0x78 => build .afence (parseS w)
  | 0x79 => build .sysf (parseS w)
  | 0x7A => build .tokw (parseS w)
  | 0x7B => build .tokp (parseS w)
  | 0x7C =>
    match w.sub.toNat with
    | 0 => build .atomAdd (parseM w)
    | 1 => build .atomMinSigned (parseM w)
    | 2 => build .atomMinUnsigned (parseM w)
    | 3 => build .atomMaxSigned (parseM w)
    | 4 => build .atomMaxUnsigned (parseM w)
    | 5 => build .atomAnd (parseM w)
    | 6 => build .atomOr (parseM w)
    | 7 => build .atomXor (parseM w)
    | 8 => build .atomExch (parseM w)
    | 9 => build .atomFadd (parseM w)
    | 10 => build .atomFmin (parseM w)
    | 11 => build .atomFmax (parseM w)
    | _ => .error .unassignedSub
  | 0x7D => build .atcas (parseM w)
  | 0x7E => build .atf (parseM w)
  | 0x80 => build .ld (parseM w)
  | 0x81 => build .st (parseM w)
  | 0x82 => build .ldg (parseM w)
  | 0x83 => build .stg (parseM w)
  | 0x84 => build .ldi (parseM w)
  | 0x85 => build .pref (parseM w)
  | 0x86 => build .spset (parseM w)
  | 0x87 => build .spclr (parseM w)
  | 0x88 => build .sptst (parseM w)
  | 0x89 => build .wcfl (parseM w)
  | 0x90 => build .cpy (parseM w)
  | 0x91 =>
    match w.sub.toNat with
    | 0 => build .cptLd (parseM w)
    | 1 => build .cptSt (parseM w)
    | _ => .error .unassignedSub
  | 0x92 => build .cpw (parseM w)
  | 0x93 => build .cpq (parseM w)
  | 0x94 => build .cpx (parseM w)
  | 0x98 => build .halloc (parseX w)
  | 0x99 => build .hfree (parseX w)
  | 0x9A => build .hput (parseX w)
  | 0x9B => build .htake (parseX w)
  | 0x9C => build .hqry (parseX w)
  | 0x9D =>
    match w.sub.toNat with
    | 0 => build .tld (parseX w)
    | 1 => build .tst (parseX w)
    | _ => .error .unassignedSub
  | 0x9E =>
    match w.sub.toNat with
    | 0 => build .trd (parseX w)
    | 1 => build .twr (parseX w)
    | _ => .error .unassignedSub
  | 0x9F => build .tfill (parseX w)
  | 0xA0 => build .tqpop (parseM w)
  | 0xA1 => build .tqsteal (parseM w)
  | 0xA2 => build .tqdone (parseM w)
  | 0xA3 =>
    match w.sub.toNat with
    | 0 => build .strg (parseM w)
    | 1 => build .strgT (parseM w)
    | _ => .error .unassignedSub
  | 0xA4 => build .coll (parseM w)
  | 0xB0 => build .mma (parseX w)
  | 0xB1 => build .mmas (parseX w)
  | 0xB2 => build .mmab (parseX w)
  | 0xB3 => build .mma64 (parseX w)
  | 0xB4 => build .mmai (parseX w)
  | 0xB8 => build .acz (parseX w)
  | 0xB9 => build .acst (parseX w)
  | 0xBA => build .acth (parseX w)
  | 0xBB => build .acrd (parseX w)
  | 0xBC => build .acwr (parseX w)
  | 0xC0 => build .solb (parseX w)
  | 0xC1 => build .sole (parseX w)
  | 0xC2 => build .solq (parseX w)
  | 0xC3 => build .solx (parseX w)
  | 0xC4 => build .solh (parseX w)
  | 0xE0 => build .mfs (parseS w)
  | 0xE1 => build .mts (parseS w)
  | 0xE2 => build .mtsp (parseS w)
  | 0xE3 => build .acq (parseS w)
  | 0xE4 => build .rela (parseS w)
  | 0xE5 => build .rdoc (parseS w)
  | 0xE6 => build .trap (parseS w)
  | 0xE7 => build .rft (parseS w)
  | 0xE8 => build .halt (parseS w)
  | 0xE9 => build .snap (parseS w)
  | 0xEA => build .dbg (parseS w)
  | 0xEB => build .trade (parseS w)
  | 0xEC => build .tradea (parseS w)
  | 0xED => build .launch (parseS w)
  | 0xEE => build .signal (parseS w)
  | 0xEF => build .evwait (parseS w)
  | _ => .error .unassignedOpcode

/-- The decoder (R131, R132): total, rejecting by name. -/
def decode (w : IWord) : Except Reject Instr :=
  match parse w with
  | .ok i => if i.wf then .ok i else .error .illFormed
  | .error e => .error e

/-- The encoder, from the same tables; an event has no encoding and gives the all-zero word, which is `NOP`. -/
def encode : Instr → IWord
  | .nop f => packA 0x00 f
  | .iadd f => packA 0x01 f
  | .iaddImm f => packI 0x01 f
  | .isub f => packA 0x02 f
  | .isubImm f => packI 0x02 f
  | .imul f => packA 0x03 f
  | .imulImm f => packI 0x03 f
  | .imulh f => packA 0x04 f
  | .imulhImm f => packI 0x04 f
  | .imad f => packA 0x05 f
  | .imadImm f => packI 0x05 f
  | .imin f => packA 0x06 f
  | .iminImm f => packI 0x06 f
  | .imax f => packA 0x07 f
  | .imaxImm f => packI 0x07 f
  | .iabs f => packA 0x08 f
  | .ineg f => packA 0x09 f
  | .iset f => packA 0x0A f
  | .isetImm f => packI 0x0A f
  | .aadd f => packA 0x0B f
  | .aaddImm f => packI 0x0B f
  | .amad f => packA 0x0C f
  | .amadImm f => packI 0x0C f
  | .and f => packA 0x10 f
  | .andImm f => packI 0x10 f
  | .or f => packA 0x11 f
  | .orImm f => packI 0x11 f
  | .xor f => packA 0x12 f
  | .xorImm f => packI 0x12 f
  | .andn f => packA 0x13 f
  | .andnImm f => packI 0x13 f
  | .not f => packA 0x14 f
  | .bits f => packA 0x22 f
  | .shl f => packA 0x18 f
  | .shlImm f => packI 0x18 f
  | .shr f => packA 0x19 f
  | .shrImm f => packI 0x19 f
  | .sar f => packA 0x1A f
  | .sarImm f => packI 0x1A f
  | .rot f => packA 0x1B f
  | .rotImm f => packI 0x1B f
  | .popc f => packA 0x1C f
  | .clz f => packA 0x1D f
  | .brev f => packA 0x1E f
  | .bfx f => packA 0x20 f
  | .bfxImm f => packI 0x20 f
  | .bfi f => packA 0x21 f
  | .mov f => packA 0x28 f
  | .movImm f => packI 0x28 f
  | .movi f => packA 0x29 f
  | .movh f => packA 0x2A f
  | .movhImm f => packI 0x2A f
  | .sel f => packA 0x2B f
  | .fadd f => packA 0x30 f
  | .faddImm f => packI 0x30 f
  | .fsub f => packA 0x31 f
  | .fsubImm f => packI 0x31 f
  | .fmul f => packA 0x32 f
  | .fmulImm f => packI 0x32 f
  | .ffma f => packA 0x33 f
  | .ffmaImm f => packI 0x33 f
  | .fsqrt f => packA 0x42 f
  | .fscale f => packA 0x47 f
  | .fscaleImm f => packI 0x47 f
  | .fmin f => packA 0x34 f
  | .fminImm f => packI 0x34 f
  | .fmax f => packA 0x35 f
  | .fmaxImm f => packI 0x35 f
  | .fabs f => packA 0x36 f
  | .fneg f => packA 0x37 f
  | .fclass f => packA 0x39 f
  | .fset f => packA 0x38 f
  | .fsetImm f => packI 0x38 f
  | .frcp f => packA 0x40 f
  | .frsq f => packA 0x41 f
  | .fexp2 f => packA 0x43 f
  | .flog2 f => packA 0x44 f
  | .fsin f => packA 0x45 f
  | .fcos f => packA 0x46 f
  | .cvt f => packA 0x50 f
  | .cvts f => packA 0x51 f
  | .cvtu f => packA 0x53 f
  | .cvtb f => packA 0x52 f
  | .bscl f => packA 0x54 f
  | .shfl f => packA 0x58 f
  | .vote f => packA 0x59 f
  | .gred f => packA 0x5A f
  | .gscan f => packA 0x5B f
  | .bra f => packB 0x60 f
  | .brd f => packB 0x61 f
  | .jmp f => packB 0x62 f
  | .call f => packB 0x63 f
  | .calli f => packB 0x64 f
  | .ret f => packB 0x65 f
  | .dmark f => packB 0x66 f
  | .reform f => packB 0x67 f
  | .exit f => packB 0x68 f
  | .yield f => packB 0x69 f
  | .yieldDone f => packB 0x69 f
  | .barr f => packS 0x70 f
  | .barw f => packS 0x71 f
  | .bara f => packS 0x72 f
  | .barm f => packS 0x73 f
  | .barq f => packS 0x74 f
  | .barv f => packS 0x75 f
  | .fence f => packS 0x76 f
  | .xfence f => packS 0x77 f
  | .afence f => packS 0x78 f
  | .sysf f => packS 0x79 f
  | .tokw f => packS 0x7A f
  | .tokp f => packS 0x7B f
  | .atomAdd f => packM 0x7C f
  | .atomMinSigned f => packM 0x7C f
  | .atomMinUnsigned f => packM 0x7C f
  | .atomMaxSigned f => packM 0x7C f
  | .atomMaxUnsigned f => packM 0x7C f
  | .atomAnd f => packM 0x7C f
  | .atomOr f => packM 0x7C f
  | .atomXor f => packM 0x7C f
  | .atomExch f => packM 0x7C f
  | .atomFadd f => packM 0x7C f
  | .atomFmin f => packM 0x7C f
  | .atomFmax f => packM 0x7C f
  | .atcas f => packM 0x7D f
  | .atf f => packM 0x7E f
  | .atfAttemptAnswer _ _ => 0
  | .ld f => packM 0x80 f
  | .st f => packM 0x81 f
  | .ldg f => packM 0x82 f
  | .stg f => packM 0x83 f
  | .ldi f => packM 0x84 f
  | .pref f => packM 0x85 f
  | .spset f => packM 0x86 f
  | .spclr f => packM 0x87 f
  | .sptst f => packM 0x88 f
  | .wcfl f => packM 0x89 f
  | .cpy f => packM 0x90 f
  | .cptLd f => packM 0x91 f
  | .cptSt f => packM 0x91 f
  | .cpx f => packM 0x94 f
  | .cpw f => packM 0x92 f
  | .cpq f => packM 0x93 f
  | .copyLineWrite _ _ => 0
  | .copyCompletion _ _ => 0
  | .halloc f => packX 0x98 f
  | .hallocGrant _ => 0
  | .hfree f => packX 0x99 f
  | .hput f => packX 0x9A f
  | .htake f => packX 0x9B f
  | .hqry f => packX 0x9C f
  | .tld f => packX 0x9D f
  | .tst f => packX 0x9D f
  | .trd f => packX 0x9E f
  | .twr f => packX 0x9E f
  | .tfill f => packX 0x9F f
  | .tqpop f => packM 0xA0 f
  | .tqsteal f => packM 0xA1 f
  | .tqdone f => packM 0xA2 f
  | .strg f => packM 0xA3 f
  | .strgT f => packM 0xA3 f
  | .coll f => packM 0xA4 f
  | .mma f => packX 0xB0 f
  | .mmas f => packX 0xB1 f
  | .mmab f => packX 0xB2 f
  | .mma64 f => packX 0xB3 f
  | .mmai f => packX 0xB4 f
  | .acz f => packX 0xB8 f
  | .acst f => packX 0xB9 f
  | .acth f => packX 0xBA f
  | .acrd f => packX 0xBB f
  | .acwr f => packX 0xBC f
  | .engineCommandCompletion _ _ => 0
  | .solb f => packX 0xC0 f
  | .sole f => packX 0xC1 f
  | .solveStepCompletion _ => 0
  | .solq f => packX 0xC2 f
  | .solx f => packX 0xC3 f
  | .solh f => packX 0xC4 f
  | .mfs f => packS 0xE0 f
  | .mts f => packS 0xE1 f
  | .mtsp f => packS 0xE2 f
  | .acq f => packS 0xE3 f
  | .allotmentGrant _ => 0
  | .rela f => packS 0xE4 f
  | .rdoc f => packS 0xE5 f
  | .trap f => packS 0xE6 f
  | .rft f => packS 0xE7 f
  | .halt f => packS 0xE8 f
  | .snap f => packS 0xE9 f
  | .dbg f => packS 0xEA f
  | .trade f => packS 0xEB f
  | .tradea f => packS 0xEC f
  | .launch f => packS 0xED f
  | .signal f => packS 0xEE f
  | .evwait f => packS 0xEF f
  | .teamAdmission _ => 0
  | .gridCompletion _ _ => 0
  | .deal _ => 0
  | .roundBoundary => 0
  | .sessionBoundary => 0
  | .switchCutoff => 0
  | .switchResume => 0
  | .lineFetchArrival _ _ => 0
  | .l2SliceService _ _ _ => 0
  | .responseArrival _ => 0
  | .hbmAccessBegin _ _ _ => 0
  | .hbmLineFill _ => 0
  | .l2TlbLookup _ _ => 0
  | .walkStep _ => 0
  | .mergeTableInsert _ _ => 0
  | .wcAgeDrain _ _ => 0
  | .remoteWcAgeDrain _ _ _ => 0
  | .mmx _ _ => 0
  | .regionIdSweep => 0
  | .hbmRefresh _ _ => 0
  | .hbmScrub _ => 0
  | .dump _ => 0
  | .globalTick _ => 0
  | .snapshotLatch _ => 0
  | .externalDebugTrigger => 0
  | .remoteRequestArrival _ => 0
  | .keepWaitingSend _ => 0
  | .keepWaitingNotice _ => 0
  | .linkTimeout _ => 0
  | .peerLost _ => 0
  | .peerReadmit _ => 0
  | .planeDead _ => 0
  | .linkReplay _ _ => 0
  | .linkAck _ _ _ => 0
  | .chunkContributionArrival _ => 0
  | .collLateTimeout _ _ => 0
  | .failureNotice _ => 0
  | .collCompletion _ _ => 0
  | .scorecardStamp _ => 0
  | .thermalEmergency => 0
  | .clockRestore => 0
  | .coldReset => 0
  | .coldResetUnsigned => 0
  | .hotReset => 0
  | .hostCxlMemAccess _ => 0
  | .ldb _ _ => 0
  | .fansResume _ _ => 0
  | .fansNomap _ _ => 0
  | .fansFrameUnavailable _ _ => 0
  | .crel _ _ => 0
  | .dres _ _ _ => 0
  | .admitOwner _ => 0
  | .retire _ => 0
  | .turns _ => 0
  | .cores _ _ => 0
  | .switch _ _ => 0
  | .refill _ _ => 0
  | .getVersion => 0
  | .getCapabilities => 0
  | .negotiateAlgorithms _ _ => 0
  | .getDigests => 0
  | .getCertificate _ _ => 0
  | .challenge _ => 0
  | .getMeasurements _ => 0
  | .unsupportedRequest _ => 0
  | .ringHasRoom _ _ => 0
  | .engineReadMarkClear _ _ => 0
  | .clusterHalt _ => 0
  | .cxlCacheSnoop _ => 0

/-- Bytes of a word, lowest address first (R9, R116). -/
def bytesOfWord (n : Nat) (w : Nat) : List Byte :=
  (List.range n).map (fun i => BitVec.ofNat 8 (w / 2 ^ (8 * i)))

/-- The number that bytes make, lowest address first (R9). -/
def natOfBytes : List Byte → Nat
  | [] => 0
  | b :: bs => b.toNat + 256 * natOfBytes bs

/-- Slot `i` of a 64-byte fetch line (R116). -/
def slotWord (line : List Byte) (i : Nat) : IWord := BitVec.ofNat 96 (natOfBytes ((line.drop (12 * i)).take 12))

/-- The line word of a fetch line (R116). -/
def lineWord (line : List Byte) : BitVec 32 := BitVec.ofNat 32 (natOfBytes ((line.drop 60).take 4))

/-- Exclusive-or of the low `n` bits: the even parity of R116. -/
def parity : Nat → Nat → Bool
  | 0, _ => false
  | n + 1, w => (w % 2 == 1) ^^ parity n (w / 2)

/-- All 16 parity bits of a line agree (R117). -/
def lineParityOk (line : List Byte) : Bool :=
  let lw := lineWord line
  (List.range 15).all (fun j => parity 32 (natOfBytes ((line.drop (4 * j)).take 4)) == lw.getLsbD (16 + j))
    && parity 16 (lw.toNat % 65536) == lw.getLsbD 31

/-- TMASK bit `i` of a line (R116). -/
def lineTmask (line : List Byte) (i : Nat) : Bool := (lineWord line).getLsbD i

/-- PAIR bit of slot `i` (R116). -/
def linePair (line : List Byte) (i : Nat) : Bool := decide (i < 4) && (lineWord line).getLsbD (5 + i)

/-- A non-zero bit in [15:9] of the line word (R118). -/
def lineReserved (line : List Byte) : Bool := (lineWord line).extractLsb' 9 7 != 0

/-- Two adjacent PAIR bits, or a branch target on the second slot of a pair (R118). -/
def lineBadPair (line : List Byte) : Bool :=
  (List.range 4).any (fun i => linePair line i && (linePair line (i + 1) || lineTmask line (i + 1)))

/-- The parity of a line's slots and of its low half word, as a line word carries it (R116). -/
def lineWordOf (slots : List Byte) (tmask pair : Nat) : BitVec 32 :=
  let low := tmask + 32 * pair
  let parw := (List.range 15).foldl
    (fun acc j => acc + (if parity 32 (natOfBytes ((slots.drop (4 * j)).take 4)) then 2 ^ (16 + j) else 0)) 0
  BitVec.ofNat 32 (low + parw + (if parity 16 low then 2 ^ 31 else 0))

/-- A fetch line that holds `ws` in its first slots and `NOP` in the others (R116). -/
def lineOf (ws : List IWord) (tmask pair : Nat) : List Byte :=
  let slots := (List.range 5).flatMap (fun i => bytesOfWord 12 ((ws[i]?.getD 0).toNat))
  slots ++ bytesOfWord 4 (lineWordOf slots tmask pair).toNat

/-- The slot number of a PC (R119). -/
def slotNumber (pc : Nat) : Nat := 5 * (pc / 64) + pc % 64 / 12

/-- The PC of a slot number (R119). -/
def pcOfSlot (n : Nat) : Nat := 64 * (n / 5) + 12 * (n % 5)

/-- PC[5:0] is one of the five slot offsets and the PC fits in 48 bits (R119, R120). -/
def pcOk (pc : Nat) : Bool := decide (pc < 2 ^ 48) && [0, 12, 24, 36, 48].contains (pc % 64)

/-- The PC of the slot after `pc` in sequential flow (R119). Behind the last slot of the 48-bit space the PC goes on upwards, to an address that no fetch
can translate (DESIGN CHOICE, row 43 of notes/assumptions). -/
def nextPc (pc : Nat) : Nat := pcOfSlot (slotNumber pc + 1)

/-- What the decoder reads from an instruction whose bits, numbered from the first byte's bit 0, are `w`: the 12 bytes of a
slot, little-endian (R116). -/
def decodeTableWord (nbits w : Nat) : Option Instr :=
  match decode (BitVec.ofNat 96 (natOfBytes (bytesOfWord 12 (w % 2 ^ nbits)))) with
  | .ok i => some i
  | .error _ => none

end Sys2Proof
end

