-- ==== Sys2Proof/Machine/Ops.lean ====
section
/-! DEFINITION. The named operations over owners, cores, quadrants and groups; turns; fetching code lines; ending a play; taking a
program trap and returning from one; fatal faults and the halt of a core; regions. -/

namespace Sys2Proof.Machine

/-! ### Parts of the state -/

/-- Owner `k`; one that was never admitted is blank. -/
def State.owner (s : State) (k : Nat) : Owner := (mget s.owners k).getD .blank

def State.setOwner (s : State) (k : Nat) (o : Owner) : State := { s with owners := mset s.owners k o }

def State.modOwner (s : State) (k : Nat) (f : Owner → Owner) : State := s.setOwner k (f (s.owner k))

/-- Core `n`; an idle one is blank. -/
def State.core (s : State) (n : Nat) : Core := (mget s.cores n).getD .blank

def State.setCore (s : State) (n : Nat) (c : Core) : State := { s with cores := mset s.cores n c }

def State.modCore (s : State) (n : Nat) (f : Core → Core) : State := s.setCore n (f (s.core n))

/-- Quadrant `q` of a core. -/
def Core.quad (c : Core) (q : Nat) : Quad := (mget c.quads q).getD .blank

def Core.setQuad (c : Core) (q : Nat) (x : Quad) : Core := { c with quads := mset c.quads q x }

def Core.modQuad (c : Core) (q : Nat) (f : Quad → Quad) : Core := c.setQuad q (f (c.quad q))

/-- The group of a seat. -/
def Core.group? (c : Core) (seat : Nat) : Option Group :=
  match mget c.seats seat with
  | some (.group g) => some g
  | _ => none

def Core.setGroup (c : Core) (seat : Nat) (g : Group) : Core := { c with seats := mset c.seats seat (.group g) }

def Core.modGroup (c : Core) (seat : Nat) (f : Group → Group) : Core :=
  match c.group? seat with
  | some g => c.setGroup seat (f g)
  | none => c

def State.group? (s : State) (core seat : Nat) : Option Group := (s.core core).group? seat

def State.modGroup (s : State) (core seat : Nat) (f : Group → Group) : State := s.modCore core (fun c => c.modGroup seat f)

def State.modQuad (s : State) (core q : Nat) (f : Quad → Quad) : State := s.modCore core (fun c => c.modQuad q f)

/-- Seated groups of a core with their seats, ascending. -/
def Core.groups (c : Core) : List (Nat × Group) :=
  c.seats.filterMap (fun p => match p.2 with | .group g => some (p.1, g) | .blank => none)

def Core.modTeam (c : Core) (f : Team → Team) : Core := { c with team := c.team.map f }

def State.modTeam (s : State) (core : Nat) (f : Team → Team) : State := s.modCore core (fun c => c.modTeam f)

/-- The owner number of a core; 0 for an idle one. -/
def State.ownerOf (s : State) (core : Nat) : Nat := (s.core core).owner.getD 0

/-- `OCLK` of a core's owner (R25). -/
def State.now (s : State) (core : Nat) : Nat := (s.owner (s.ownerOf core)).oclk

/-- The compute die of a core (R2). -/
def dieOf (core : Nat) : Nat := core / 256

/-- An owner's partition on a die. -/
def DiePart.blank : DiePart :=
  { pool := { cap := 0, refill := 0, next := 0, level := 0 }, tlb := [], merge := [], waiting := [], colls := [] }

def Owner.die (o : Owner) (d : Nat) : DiePart := (mget o.dies d).getD .blank

def Owner.modDie (o : Owner) (d : Nat) (f : DiePart → DiePart) : Owner := { o with dies := mset o.dies d (f (o.die d)) }

def Owner.grid? (o : Owner) (g : Nat) : Option Grid := o.grids.find? (fun x => x.id = g)

def Owner.modGrid (o : Owner) (g : Nat) (f : Grid → Grid) : Owner :=
  { o with grids := o.grids.map (fun x => if x.id = g then f x else x) }

/-- The grid of a core's team. -/
def State.gridOf (s : State) (core : Nat) : Option Grid :=
  match (s.core core).team with
  | some t => (s.owner t.owner).grid? t.grid
  | none => none

def State.det (s : State) (core : Nat) : Bool :=
  match s.gridOf core with
  | some g => g.packet.det
  | none => false

/-! ### Owners that are switched out (R27) -/

/-- Applies a change to the cores of owner `k`, which may be saved. -/
def State.visiting (s : State) (k : Nat) (f : State → State) : State :=
  let o := s.owner k
  if o.resident then f s
  else if o.saved.isEmpty then s
  else
    let t := f { s with cores := o.saved }
    { t.modOwner k (fun o => { o with saved := t.cores }) with cores := s.cores }

/-- Applies a change to the cores in place, and to those of every owner that is switched out. -/
def State.everywhere (s : State) (f : State → State) : State :=
  s.owners.foldl (fun s p => if p.2.resident || p.2.saved.isEmpty then s else s.visiting p.1 f) (f s)

/-! ### Turns (R13, R14, R18) -/

/-- The session phase of a device cycle (R13). -/
def phase (cycle : Nat) : Nat := cycle % 65536

/-- Entry `i` of a turn table (R14). -/
def tableEntry (t : BitVec 64) (i : Nat) : Nat := (t.extractLsb' (4 * i) 4).toNat

/-- The owner, 0 to 7, or the house, 15, of a device cycle (R14). -/
def State.turnOf (s : State) : Nat := tableEntry s.mgmt.table (phase s.cycle / 4 % 16)

/-- The cycle is an owned cycle of owner `k`: its turn, with the owner resident (R16, R18), outside a switch's transfer (R27). -/
def State.owned (s : State) (k : Nat) : Bool := s.turnOf == k && (s.owner k).resident

/-- Turn-table entries of an owner, as a mask (R17). -/
def turnMask (t : BitVec 64) (k : Nat) : BitVec 16 :=
  BitVec.ofNat 16 ((List.range 16).foldl (fun acc i => acc + (if tableEntry t i = k then 2 ^ i else 0)) 0)

/-- The table with the entries of a mask given to an owner. -/
def setEntries (t : BitVec 64) (mask : BitVec 16) (k : Nat) : BitVec 64 :=
  BitVec.ofNat 64 ((List.range 16).foldl
    (fun acc i => acc + (if mask.getLsbD i then k % 16 else tableEntry t i) * 2 ^ (4 * i)) 0)

/-- Fabric time in ns (R8, R26): its origin is free. -/
def State.fabricTime (s : State) : Nat := s.mgmt.gtime + Config.fabricOrigin s.mgmt.boots

/-! ### Units that count (R337) -/

/-- A UNIT word (R337): kind 0 issue port, 1 matrix engine, 2 copy unit, 3 mixing engine, 4 L2 slice, 5 walker, 6 HBM controller, 7 collective engine,
8 plane port, 9 CXL port. -/
def unitWord (die kind index : Nat) : Nat := die * 4096 + kind * 256 + index

/-- The unit serves the owner in this cycle. -/
def State.serves (s : State) (k unit : Nat) : State :=
  s.modOwner k (fun o => if o.served.contains unit then o else { o with served := o.served ++ [unit] })

/-! ### Groups -/

/-- Active lanes, ascending (R35). -/
def Group.lanes (g : Group) : List Nat := g.threads.map Prod.fst

/-- The mask of active lanes. -/
def maskOf (ls : List Nat) : Word := BitVec.ofNat 32 (ls.foldl (fun acc l => acc + 2 ^ l) 0)

def Group.mask (g : Group) : Word := maskOf g.lanes

/-- The lowest `TID` of the group's threads. -/
def Group.lowTid (g : Group) : Nat := (g.threads.map (fun p => p.2.tid)).foldl min 1024 % 1024

/-- The logical id (R35). -/
def lgidOf (teamId : Nat) (g : Group) : Nat := teamId * 1024 + g.lowTid

def State.lgid (s : State) (core seat : Nat) : Nat :=
  match (s.core core).team, s.group? core seat with
  | some t, some g => lgidOf t.teamId g
  | _, _ => 0

/-- The quadrant of a seat (R2). -/
def quadOf (seat : Nat) : Nat := seat / 16

/-- The group holds the commit token of its grid (R282). -/
def State.holdsToken (s : State) (core : Nat) (g : Group) : Bool :=
  match (s.core core).team, s.gridOf core with
  | some t, some gr =>
    match gr.key with
    | some k => g.threads.any (fun p => t.teamId * 1024 + p.2.tid = k)
    | none => false
  | _, _ => false

/-- Cause words (R325). -/
def causeWord (cause sub lane : Nat) : Word := BitVec.ofNat 32 (cause + 256 * sub + 65536 * lane)

/-- The lowest set bit of a mask, or 0. -/
def lowestBit (m : Word) : Nat := ((List.range 32).find? (fun i => m.getLsbD i)).getD 0

/-! ### Code lines (R246) -/

/-- The group has the line, held or requested. -/
def Group.hasLine (g : Group) (line : Nat) : Bool := g.lines.any (fun l => l.line = line)

/-- A memory operation of the core with nothing filled in. -/
def MemOp.blank : MemOp :=
  { kind := .store, seat := 0, uid := 0, tids := [], lanes := [], quad := 0, lgid := 0, region := none, pc := 0, issued := 0, acc := [], scr := [], pages := [], lines := [],
    entered := false, dst := none, size := 0, returning := false, bcast := [], acq := none, conflict := none, failed := none, failDev := none, notBefore := 0, counted := false, ahead := none, segs := (0, 0, 0), reads := none }

/-- Adds a memory operation to a core. -/
def Core.addOp (c : Core) (o : MemOp) : Core := { c with ops := mset c.ops c.nextOp o, nextOp := c.nextOp + 1 }

/-- The offset of an address in the window of a segment register; none outside it or when the window is disabled (R61). -/
def windowOffset (seg : DWord) (a : DWord) : Option Nat :=
  let sz := (seg.extractLsb' 0 6).toNat
  let base := seg.toNat / 2 ^ 15 * 2 ^ 15
  if sz = 0 then none
  else if base ≤ a.toNat ∧ a.toNat < base + 2 ^ sz then some (a.toNat - base) else none

/-- Where a fetch goes (R60, R119): the place in the global window; none for an address that no window or an earlier window decides. -/
def Group.fetchVa (g : Group) (line : Nat) : Option Nat :=
  let a := BitVec.ofNat 64 line
  match windowOffset g.segsp a, windowOffset g.segst a with
  | none, none => windowOffset g.seggl a
  | _, _ => none

/-- Requests a code line for a group (R246), at owner cycle `now`: a new fetch operation, whose translation and L1 lookup follow. A line already
requested is not requested again. Lines that are neither `line` nor the group's present line are let go. A request made as the group comes to issue
from the line (`demand`) takes the faults that any other request is dropped at (R256). -/
def Core.requestLine (c : Core) (seat line now : Nat) (demand : Bool) : Core :=
  match c.group? seat with
  | none => c
  | some g =>
    if g.hasLine line then c
    else
      let va := (g.fetchVa line).getD 0
      let st : PageState := if (g.fetchVa line).isSome then .start else .failed now 0x20
      let o : MemOp := { MemOp.blank with
        kind := .fetch line, seat := seat, uid := g.uid, quad := quadOf seat, lgid := (c.team.map (fun t => lgidOf t.teamId g)).getD 0, pc := g.pc, issued := now, returning := demand,
        pages := [{ vpn := va / Config.pageBytes, lane := 0, va := va, st := st }],
        acc := [{ lane := 0, ga := BitVec.ofNat 64 line, va := va, bytes := 64, data := [], cmp := [], res := [], bad := false }] }
      let keep := g.lines.filter (fun l => l.line = g.pc / 64 * 64)
      let cl : CodeLine := { line := line, ready := none, op := some c.nextOp, bytes := [], again := false, checked := false, next := false }
      (c.addOp o).setGroup seat { g with lines := keep ++ [cl] }

/-! ### The play (R43, R44, R45) -/

/-- Ends the play of a quadrant: its latches are emptied. -/
def Quad.endPlay (q : Quad) : Quad := { q with ended := true, latches := [] }

/-- The play of a seat ends, if the slot is the seat's. -/
def Core.endPlayOf (c : Core) (seat : Nat) : Core :=
  c.modQuad (quadOf seat) (fun q => if q.holder.map Prod.fst == some seat then q.endPlay else q)

/-- Requests the line of a transfer's target in every case: the lines that the group held are let go (R246). -/
def Core.requestTarget (c : Core) (seat pc now : Nat) : Core :=
  (c.modGroup seat (fun g => { g with lines := [] })).requestLine seat (pc / 64 * 64) now false

/-- Moves a group to a PC by a checked transfer of control (R120) and requests the target's line. -/
def Core.transfer (c : Core) (seat pc now : Nat) : Core :=
  (c.modGroup seat (fun g => { g with pc := pc, tcheck := true })).requestTarget seat pc now

/-! ### Fatal faults and halts (R330) -/

/-- A fatal fault of a group, or of work that a group named by `lg` started: recorded for the primary fault of the cycle. -/
def State.fatalOf (s : State) (core cause sub pc : Nat) (csn : DWord) (lg : Nat) (addr : DWord) (dev : Option Nat) : State :=
  let h : Halt := { cycle := s.now core, cause := cause, sub := sub, pc := pc, csn := csn, lgid := lg, addr := addr, dev := dev,
                    byCluster := false, drained := none, dumped := false }
  s.modCore core (fun c => if c.halt.isSome then c else { c with faults := c.faults ++ [h] })

/-- A fatal fault in which no peer has a part. -/
def State.fatalAs (s : State) (core cause sub pc : Nat) (csn : DWord) (lg : Nat) (addr : DWord) : State :=
  s.fatalOf core cause sub pc csn lg addr none

/-- The group that an operation belongs to, if its seat still holds it. -/
def Core.groupOf (c : Core) (seat uid : Nat) : Option Group :=
  match c.group? seat with
  | some g => if g.uid = uid then some g else none
  | none => none

def State.groupOf (s : State) (core seat uid : Nat) : Option Group := (s.core core).groupOf seat uid

def State.modGroupOf (s : State) (core seat uid : Nat) (f : Group → Group) : State :=
  match s.groupOf core seat uid with
  | some g => s.modCore core (fun c => c.setGroup seat (f g))
  | none => s

/-- Notes a cause word in the record of a group's seat; what a halted core still does raises nothing further (R330, R332). -/
def State.noteFault (s : State) (core seat uid : Nat) (w : Word) : State :=
  if (s.core core).halt.isSome then s else s.modGroupOf core seat uid (fun g => { g with faultWord := w })

/-- A fatal fault of a group by a command or a collective of its: it is noted in the record of the group's seat (R332). -/
def State.fatalFor (s : State) (core seat uid cause sub pc : Nat) (csn : DWord) (lg : Nat) (addr : DWord) : State :=
  (s.fatalAs core cause sub pc csn lg addr).noteFault core seat uid (causeWord cause sub 0)

/-- A fatal fault of a seated group, noted in its seat record too. -/
def State.fatal (s : State) (core seat cause sub pc : Nat) (csn addr : DWord) : State :=
  match s.group? core seat with
  | some g => ((s.fatalAs core cause sub pc csn (s.lgid core seat) addr).noteFault core seat g.uid (causeWord cause sub 0)).modCore core (fun c => c.endPlayOf seat)
  | none => s

/-- A fatal fault of the group itself, at the instruction of PC `pc`. -/
def State.groupFatalAt (s : State) (core seat pc cause sub : Nat) (addr : DWord) : State :=
  match s.group? core seat with
  | some g => s.fatal core seat cause sub pc g.csn addr
  | none => s

/-- A fatal fault of the group itself, at its PC. -/
def State.groupFatal (s : State) (core seat cause sub : Nat) (addr : DWord) : State :=
  match s.group? core seat with
  | some g => s.groupFatalAt core seat g.pc cause sub addr
  | none => s

/-! ### Traps (R324 to R329) -/

/-- HPC of `TRAPV` (R324). -/
def hpc (trapv : DWord) : Nat := (trapv.extractLsb' 0 48).toNat

/-- FPEN of `TRAPV` (R324): bit 0 invalid to bit 4 inexact. -/
def fpen (trapv : DWord) : BitVec 5 := trapv.extractLsb' 48 5

/-- The group waits for a rise that a split or a join brings (R51, R53). -/
def Group.rising (g : Group) : Bool := match g.wait with | some (.rise _) => true | _ => false

/-- The wait that a trap leaves in force, for no handler runs before it has ended: the stop of a `DBG` (R339), and a rise that PRE does not come into (R51). -/
def Group.stays (g : Group) (pre : Bool) : Option Wait :=
  match g.wait with
  | some .debug => some .debug
  | some (.rise n) => if pre then none else some (.rise n)
  | _ => none

/-- The wait that the group goes back to behind the handler (R28, R56, R328): an access that it waited for is made again instead. -/
def Group.goesBack (g : Group) (pre : Bool) : Option Wait :=
  match g.wait with
  | some .debug => none
  | some (.op _) => none
  | some (.rise n) => if pre then some (.rise n) else none
  | w => w

/-- TAKING A PROGRAM TRAP (R327) that the instruction at `pc` raises: the play ends and the latches are emptied; the resume PC is saved; `TRAPC`, `TRAPA` and
`TRAPM` are written; control passes to HPC. In a handler it is NESTED-TRAP, and without a handler UNHANDLED. An instruction that waits when the trap is taken
keeps its effect: its wait goes on behind the handler (DEDUCED, row 24 of notes/assumptions). -/
def State.takeTrap (s : State) (core seat pc : Nat) (t : TrapInfo) (resume : Nat) : State :=
  match s.group? core seat with
  | none => s
  | some g =>
    if g.handling.isSome then s.groupFatalAt core seat pc 0x2A t.cause t.addr
    else if hpc g.trapv = 0 then s.groupFatalAt core seat pc 0x31 t.cause t.addr
    else
      let cw := causeWord t.cause t.sub t.lane
      let g' : Group := { g with
        trapc := cw, trapa := t.addr, trapm := t.mask, fpe := [], wait := g.stays (t.cause == 8),
        half := none, reads := none,
        handling := some { resume := resume, pre := t.cause = 8, cause := cw, cycle := s.now core, old := (g.trapc, g.trapa, g.trapm),
                           wait := g.goesBack (t.cause == 8), half := g.half, reads := g.reads } }
      let s := s.modCore core (fun c => (({ c with
        demands := c.demands.filter (fun d => d.seat != seat || g.rising), mailWaits := c.mailWaits.filter (fun w => w.2.1 != seat) }.setGroup seat g').transfer
          seat (hpc g.trapv) (s.now core)))
      s.modCore core (fun c => c.endPlayOf seat)

/-- The trap FPE of a play's collected exceptions (R326, R328). -/
def fpeInfo (notes : List FpeNote) : Option TrapInfo :=
  match notes with
  | [] => none
  | n :: _ => some { cause := 1, sub := n.flags.toNat, addr := BitVec.ofNat 64 n.pc, mask := n.mask, lane := lowestBit n.mask }

/-- Ends the play of a group: the latches are emptied, and FPE is taken when an instruction of the play raised an enabled
exception (R328). The resume PC is the group's PC: the slot after the last instruction that issued. -/
def State.endPlay (s : State) (core seat : Nat) : State :=
  let s := s.modQuad core (quadOf seat) Quad.endPlay
  match s.group? core seat with
  | none => s
  | some g =>
    match fpeInfo g.fpe with
    | none => s
    | some t => s.takeTrap core seat t.addr.toNat t g.pc

/-- A precise trap of the instruction at `pc` (R328, R329): an FPE collected earlier in the play is taken first, and then the instruction
traps again after `RFT`. -/
def State.preciseTrap (s : State) (core seat pc : Nat) (t : TrapInfo) (resume : Nat) : State :=
  match s.group? core seat with
  | none => s
  | some g =>
    match fpeInfo g.fpe with
    | some t' => s.takeTrap core seat t'.addr.toNat t' g.pc
    | none => s.takeTrap core seat pc t resume

/-- A trap's values for the active lanes (R326). -/
def TrapInfo.active (cause sub : Nat) (addr : DWord) (g : Group) : TrapInfo :=
  { cause := cause, sub := sub, addr := addr, mask := g.mask, lane := lowestBit g.mask }

/-- RETURN FROM A TRAP (R327): the play ends and the group continues at the resume PC, with no TMASK check, not even one that was due there before the
trap (DEDUCED, row 43 of notes/assumptions); a wait that PRE came into goes on. -/
def State.returnTrap (s : State) (core seat : Nat) : State :=
  match s.group? core seat with
  | none => s
  | some g =>
    match g.handling with
    | none => s
    | some h =>
      let s := s.modCore core (fun c =>
        (c.setGroup seat { g with handling := none, pc := h.resume, tcheck := false, wait := h.wait, half := h.half, reads := h.reads }).requestTarget seat h.resume (s.now core))
      s.endPlay core seat

/-! ### Regions (R275, R276) -/

/-- The lowest free region id of an owner. -/
def Owner.freeRegion (o : Owner) : Option Nat := firstFree (mkeys o.regions) 0 Config.regionIds

/-- Starts a new region for a group; the old one is no longer current. -/
def State.newRegion (s : State) (core seat : Nat) : State :=
  match s.group? core seat with
  | none => s
  | some g =>
    let k := s.ownerOf core
    let o := s.owner k
    let o := match g.region with
      | some r => { o with regions := mmod o.regions r (fun x => { x with current := false }) }
      | none => o
    match o.freeRegion with
    | none => (s.setOwner k o).modGroup core seat (fun g => { g with region := none })
    | some r =>
      let o := { o with regions := mset o.regions r { lgid := s.lgid core seat, core := core, current := true, open_ := 0 } }
      (s.setOwner k o).modGroup core seat (fun g => { g with region := some r })

/-- Counts an operation of a region as outstanding, or as performed. -/
def State.regionOpen (s : State) (core : Nat) (r : Option Nat) (up : Bool) : State :=
  match r with
  | none => s
  | some r => s.modOwner (s.ownerOf core) (fun o =>
      { o with regions := mmod o.regions r (fun x => { x with open_ := if up then x.open_ + 1 else x.open_ - 1 }) })

/-- Ends the current region of a group that retires. -/
def State.dropRegion (s : State) (core seat : Nat) : State :=
  match s.group? core seat with
  | none => s
  | some g =>
    match g.region with
    | none => s
    | some r => s.modOwner (s.ownerOf core) (fun o => { o with regions := mmod o.regions r (fun x => { x with current := false }) })

/-! ### The L1 on an acquire (R75) -/

/-- Applies a function to every line request of the operations that are not fetches. -/
def Core.mapLines (c : Core) (f : LineReq → LineReq) : Core :=
  { c with ops := c.ops.map (fun p => match p.2.kind with
      | .fetch _ => p
      | _ => (p.1, { p.2 with lines := p.2.lines.map f })) }

/-- The L1 loses its data lines; a request under way leaves none in it either. -/
def Core.loseL1 (c : Core) : Core :=
  { c with l1 := c.l1.filter (fun l => l.code) }.mapLines (fun r => { r with fill := false })

/-- A store or an atomic removes a data line from the L1 (R75); a request under way does not leave it there. -/
def Core.l1Lose (c : Core) (line : Nat) (host : Bool) : Core :=
  { c with l1 := c.l1.filter (fun l => l.code || l.line != line || l.host != host) }.mapLines
    (fun r => if r.addr = line ∧ (r.leaf.tgt == 1) = host then { r with fill := false } else r)

/-- An acquire at a scope: cluster scope or wider loses the L1's data lines (R75, R176). -/
def Core.acquire (c : Core) (scope : Nat) : Core := if 2 ≤ scope then c.loseL1 else c

/-! ### Free values -/

/-- The next free word, and the state with the counter advanced. -/
def State.takeFree (s : State) : Word × State := (Config.freeWord s.free, { s with free := s.free + 1 })

/-! ### Tile slots -/

/-- A slot that was never allocated. -/
def Slot.blank : Slot := { use := .free, error := false, gen := 0, base := 0, words := [], pending := 0, reading := 0 }

def Core.slot (c : Core) (n : Nat) : Slot := (mget c.slots n).getD .blank

def Core.setSlot (c : Core) (n : Nat) (x : Slot) : Core := { c with slots := mset c.slots n x }

def Core.modSlot (c : Core) (n : Nat) (f : Slot → Slot) : Core := c.setSlot n (f (c.slot n))

def Core.modSlots (c : Core) (ns : List Nat) (f : Slot → Slot) : Core := ns.foldl (fun c n => c.modSlot n f) c

/-- Nothing in flight names the slot. -/
def Slot.idle (x : Slot) : Bool := x.pending == 0 && x.reading == 0

/-- Free slots, ascending (R67). -/
def Core.freeSlots (c : Core) : List Nat := (List.range Config.numSlots).filter (fun n => (c.slot n).use == .free)

/-- A slot whose holder gives it up: free at once, or once what names it has drained (R68). -/
def Core.letGo (c : Core) (n : Nat) : Core := c.modSlot n (fun x => { x with use := if x.idle then .free else .draining })

/-- Released slots that have drained become free. -/
def Core.settleSlots (c : Core) : Core :=
  { c with slots := c.slots.map (fun p => (p.1, if p.2.use == .draining && p.2.idle then { p.2 with use := .free } else p.2)) }

/-- A slot of a tile has an uncorrectable error (R335). -/
def Core.tileBad (c : Core) (slots : List Nat) : Bool := slots.any (fun n => (c.slot n).error)

/-- The pending marks of a write of slots clear. -/
def Core.unpend (c : Core) (slots : List Nat) : Core := (c.modSlots slots (fun x => { x with pending := x.pending - 1 })).settleSlots

end Sys2Proof.Machine
end

