-- ==== Sys2Proof/Machine/Operands.lean ====
section
/-! DEFINITION. Operand forms (R125 to R127, R129, R139): registers, pairs, latches, immediates, guards; the context in which an
instruction issues; writing destinations, latches and scoreboard marks. -/

namespace Sys2Proof.Machine

/-- Where `Group.vregs` lists register `r` of lane `l`. -/
def vkey (r l : Nat) : Nat := 1024 * l + r

/-- A lane register. -/
def Group.vreg (g : Group) (r l : Nat) : Word := sget 0 g.vregs (vkey r l)

/-- A register that is written has no error any longer (R335). -/
def Group.mend (g : Group) (lane : Option Nat) (r : Nat) : Group := { g with bad := g.bad.filter (fun b => b != (lane, r)) }

def Group.setVreg (g : Group) (r l : Nat) (w : Word) : Group := { g.mend (some l) r with vregs := sset 0 g.vregs (vkey r l) w }

/-- Lane registers at and above an allotment are lost (R40). A later rise makes them read 0 (DESIGN CHOICE, row 50 of notes/assumptions). -/
def Group.cutRegs (g : Group) (regs : Nat) : Group := { g with vregs := g.vregs.filter (fun p => decide (p.1 % 1024 < regs)) }

/-- A scalar register. -/
def Group.sreg (g : Group) (r : Nat) : Word := sget 0 g.sregs r

def Group.setSreg (g : Group) (r : Nat) (w : Word) : Group := { g.mend none r with sregs := sset 0 g.sregs r w }

/-- Two words as a pair, low half first (R91). -/
def pair64 (lo hi : Word) : DWord := hi ++ lo

def lo32 (d : DWord) : Word := d.extractLsb' 0 32
def hi32 (d : DWord) : Word := d.extractLsb' 32 32

/-- The context of an issuing instruction: who issues, and the group and quadrant whose registers and latches it reads (R123). -/
structure Ctx where
  core : Nat
  quad : Nat
  seat : Nat
  g : Group
  q : Quad
  owner : Nat
  now : Nat
  /-- PC of the instruction, and of the first slot of its pair (R123). -/
  pc : Nat
  first : Nat

/-- The register of `n` words from `r` on, in a lane. -/
def Group.readReg (g : Group) (v : Bool) (n r l : Nat) : DWord :=
  let x (k : Nat) : Word := if v then g.vreg k l else g.sreg k
  if n = 1 then (x r).zeroExtend 64 else pair64 (x r) (x (r + 1))

/-- An operand's value in a lane (R125, R129, R133): `n` registers, 1 or 2. -/
def Ctx.read (c : Ctx) (n : Nat) (o : Opd) (l : Nat) : DWord :=
  match o with
  | .v r => c.g.readReg true n r.toNat l
  | .s r => c.g.readReg false n r.toNat l
  | .b b =>
    let d := ((mget c.q.latches b.toNat).bind (fun m => mget m l)).getD 0
    if n = 1 then (lo32 d).zeroExtend 64 else d
  | .h _ => 0

/-- A 32-bit operand. -/
def Ctx.read32 (c : Ctx) (o : Opd) (l : Nat) : Word := lo32 (c.read 1 o l)

/-- The lowest active lane, which stands for the group in scalar form. -/
def Ctx.lane0 (c : Ctx) : Nat := (c.g.lanes.head?).getD 0

/-- An operand that is an s register or pair. -/
def Ctx.sval (c : Ctx) (n : Nat) (o : Opd) : DWord := c.read n o c.lane0

def Ctx.sval32 (c : Ctx) (o : Opd) : Word := c.read32 o c.lane0

/-- The bytes of a store operand of `size` bytes in a lane (R196). -/
def Ctx.readBytes (c : Ctx) (bytes : Nat) (o : Opd) (l : Nat) : List Byte :=
  if bytes ≤ 4 then leBytes bytes (c.read32 o l).toNat
  else if bytes = 8 then leBytes 8 (c.read 2 o l).toNat
  else
    match o with
    | .v r => leBytes 8 (c.g.readReg true 2 r.toNat l).toNat ++ leBytes 8 (c.g.readReg true 2 (r.toNat + 2) l).toNat
    | .s r => leBytes 8 (c.g.readReg false 2 r.toNat l).toNat ++ leBytes 8 (c.g.readReg false 2 (r.toNat + 2) l).toNat
    | o => leBytes 16 (c.read 2 o l).toNat

/-- The number of a handle operand. -/
def hnum : Opd → Nat
  | .h n => n.toNat
  | _ => 0

/-- The number of a register operand. -/
def regNum : Opd → Nat
  | .v n => n.toNat
  | .s n => n.toNat
  | .h n => n.toNat
  | .b n => n.toNat

/-- The register that an operand names. -/
def regId? : Opd → Option RegId
  | .v n => some (.v n.toNat)
  | .s n => some (.s n.toNat)
  | _ => none

/-- The guard holds in a lane (R126). -/
def Ctx.guard (c : Ctx) (gd : Option Grd) (l : Nat) : Bool :=
  match gd with
  | none => true
  | some x => (c.read32 x.reg l).getLsbD x.bit.toNat != x.neg

/-- Active lanes in which the instruction takes effect. -/
def Ctx.effLanes (c : Ctx) (gd : Option Grd) : List Nat := c.g.lanes.filter (c.guard gd)

/-- The value of IMM under a type (R127). -/
def immValue (t : Ty) (imm : BitVec 32) : DWord :=
  match t with
  | .s64 => imm.signExtend 64
  | .f64 =>
    match Fp.f32.unpack imm.toNat with
    | .nan neg quiet p =>
      BitVec.ofNat 64 (Fp.f64.sign neg (0x7FF * 2 ^ 52 + (if quiet then 2 ^ 51 else 0) + p))
    | x => BitVec.ofNat 64 (fpConvert .f32 .f64 .rn false x).1
  | _ => imm.zeroExtend 64

/-! ### Writing -/

/-- Writes `n` words of a register in a lane, or of the group for an s register. -/
def Group.writeOpd (g : Group) (o : Opd) (n l : Nat) (d : DWord) : Group :=
  match o with
  | .v r => if n = 1 then g.setVreg r.toNat l (lo32 d) else (g.setVreg r.toNat l (lo32 d)).setVreg (r.toNat + 1) l (hi32 d)
  | .s r => if n = 1 then g.setSreg r.toNat (lo32 d) else (g.setSreg r.toNat (lo32 d)).setSreg (r.toNat + 1) (hi32 d)
  | _ => g

/-- Writes a register by its name. -/
def Group.writeReg (g : Group) (r : RegId) (n l : Nat) (d : DWord) : Group :=
  match r with
  | .v k => if n = 1 then g.setVreg k l (lo32 d) else (g.setVreg k l (lo32 d)).setVreg (k + 1) l (hi32 d)
  | .s k => if n = 1 then g.setSreg k (lo32 d) else (g.setSreg k (lo32 d)).setSreg (k + 1) (hi32 d)

/-- Writes bytes to consecutive registers from a register on, low bytes first (R196). -/
def Group.writeRegBytes (g : Group) (r : RegId) (l : Nat) (bs : List Byte) : Group :=
  let n := (bs.length + 3) / 4
  (List.range n).foldl (fun g j =>
    let w := BitVec.ofNat 32 (fieldLe bs (4 * j) 4)
    match r with
    | .v k => g.setVreg (k + j) l w
    | .s k => g.setSreg (k + j) w) g

/-- Results by lane, each with its register value. -/
abbrev Results := List (Nat × DWord)

/-- Writes results to a destination of `n` words; an s destination takes the last of them. -/
def Group.writeResults (g : Group) (o : Opd) (n : Nat) (rs : Results) : Group :=
  rs.foldl (fun g p => g.writeOpd o n p.1 p.2) g

/-- The consecutive registers of an operand. -/
def regsFrom (o : Opd) (n : Nat) : List RegId :=
  match o with
  | .v r => (List.range n).map (fun j => .v (r.toNat + j))
  | .s r => (List.range n).map (fun j => .s (r.toNat + j))
  | _ => []

/-- Marks a destination of `n` words pending to the end of cycle `last` (R46, R244). -/
def Group.markRegs (g : Group) (o : Opd) (n last : Nat) : Group :=
  { g with marks := g.marks ++ (regsFrom o n).map (fun r => { reg := r, op := none, last := last }) }

/-- Marks a destination pending until a memory operation answers. -/
def Group.markOp (g : Group) (o : Opd) (n op : Nat) : Group :=
  { g with marks := g.marks ++ (regsFrom o n).map (fun r => { reg := r, op := some op, last := 0 }) }

/-- Clears the marks of a memory operation. -/
def Group.clearOp (g : Group) (op : Nat) : Group := { g with marks := g.marks.filter (fun m => m.op != some op) }

/-- The result of a memory operation has been written in cycle `now`: a reader is ready from the next cycle on (R243, R247, R354). -/
def Group.settleOp (g : Group) (op now : Nat) : Group :=
  { g with marks := g.marks.map (fun m => if m.op == some op then { m with op := none, last := now } else m) }

/-- `RCNT` as an instruction of cycle `now` reads it (R287). -/
def Group.retiredBy (g : Group) (now : Nat) : Nat := g.rcnt + (g.late.filter (fun t => decide (t < now))).length

/-- A register is pending in a cycle (R46, R243). -/
def Group.pending (g : Group) (now : Nat) (r : RegId) : Bool :=
  g.marks.any (fun m => m.reg == r && (m.op.isSome || decide (now ≤ m.last)))

/-- Any register of a class is pending (R149, R193). -/
def Group.anyPending (g : Group) (now : Nat) (p : RegId → Bool) : Bool :=
  g.marks.any (fun m => p m.reg && (m.op.isSome || decide (now ≤ m.last)))

/-- The words of an operand field. -/
def Fk.words : Fk → Nat
  | .reg n => n
  | .lat n => n
  | .v n => n
  | .s n => n
  | .shPair => 2
  | .base => 1
  | _ => 1

/-- The latch written in a cycle (R45): bc for cycle c of the slot. -/
def latchOf (cycle : Nat) : Nat := cycle % 4

/-- Writes a latch (R129): the results where the guard is true; elsewhere the destination as it stands after the instruction, or zero
with NWB; a scalar result in every lane. -/
def latchValues (g : Group) (row : Row) (rs : Results) : Map DWord :=
  let n := row.dk.words
  if isS row.dst then
    let d := (rs.head?.map Prod.snd).getD 0
    g.lanes.map (fun l => (l, d))
  else
    g.lanes.map (fun l =>
      match mget rs l with
      | some d => (l, d)
      | none => (l, match row.dst with
          | .v r => if row.hdr.nwb then 0 else g.readReg true n r.toNat l
          | _ => 0))

end Sys2Proof.Machine
end

