-- ==== Sys2Proof/Machine/Flags.lean ====
section
/-! DEFINITION. The status words that instructions report and the floating-point exceptions that a play collects: this machine
has no condition flags (R324); its status lives in the words below. -/

namespace Sys2Proof.Machine

/-- Collects the enabled exceptions of an instruction at `pc` (R324, R326, R328): by lane; none while a trap is being handled. -/
def Group.collect (g : Group) (pc : Nat) (xs : List (Nat × Exc)) : Group :=
  if g.handling.isSome then g
  else
    let en := fpen g.trapv
    let raised := xs.filter (fun p => p.2 &&& en != 0)
    match raised with
    | [] => g
    | _ =>
      let note : FpeNote := { pc := pc, flags := raised.foldl (fun a p => a ||| (p.2 &&& en)) 0, mask := maskOf (raised.map Prod.fst) }
      { g with fpe := g.fpe ++ [note] }

/-- `OWNR` (R191). -/
def ownrWord (priv : Bool) (own : Nat) : Word := BitVec.ofNat 32 (own % 8 + (if priv then 8 else 0))

/-- `TOKS` (R286). -/
def toksWord (hold det : Bool) (trm : Nat) (twait : Bool) (pass : Nat) : Word :=
  BitVec.ofNat 32 ((if hold then 2 ^ 31 else 0) + (if det then 2 ^ 30 else 0) + trm % 4 * 2 ^ 28 + (if twait then 2 ^ 27 else 0)
    + pass % 2 ^ 16)

/-- `PWRT` (R29). -/
def pwrtWord (p : Pool) (det : Bool) : DWord :=
  BitVec.ofNat 64 (p.cap % 65536 * 2 ^ 32 + p.refill % 65536 * 2 ^ 16 + (if det then 0 else p.level % 65536))

/-- `TMINE` (R17). -/
def tmineWord (cur nxt : BitVec 16) : DWord := (0 : BitVec 32) ++ nxt ++ cur

/-- The status word of fences (R181): code and device. -/
def fenceStatus (st : Option (Nat × Nat)) : Word :=
  match st with
  | none => 0
  | some (code, dev) => BitVec.ofNat 32 (code % 16 + dev % 1024 * 65536)

/-- The higher of two statuses: PEER-LOST above PLANE-LOST, then the lowest device (R181). -/
def worstStatus (a b : Option (Nat × Nat)) : Option (Nat × Nat) :=
  match a, b with
  | none, y => y
  | x, none => x
  | some (c, d), some (c', d') => if c < c' then some (c, d) else if c' < c then some (c', d') else some (c, min d d')

/-- `BARQ` (R174). -/
def barqWord (b : Barrier) : Word :=
  BitVec.ofNat 32 (b.g.toNat + b.a % 2 ^ 14 * 2 ^ 16 + (if b.counted then 2 ^ 30 else 0))

/-- `HQRY` (R209). -/
def hqryWord (free : Nat) (mbox live : List Nat) : Word :=
  BitVec.ofNat 32 (live.foldl (fun a n => a + 2 ^ n) 0 + mbox.foldl (fun a n => a + 2 ^ (16 + n)) 0 + free % 64 * 2 ^ 24)

/-- `CPQ` (R206). -/
def cpqWord (state bytes : Nat) : DWord := BitVec.ofNat 64 (bytes % 2 ^ 32 + state % 4 * 2 ^ 32)

/-- `STRG` (R219): LAG bits newest first. -/
def strgWord (member persistent : Bool) (lag : List Bool) : Word :=
  let bits := (lag.zip (List.range 16)).foldl (fun a p => a + (if p.1 then 2 ^ p.2 else 0)) 0
  let n := ((lag.take 16).filter id).length
  BitVec.ofNat 32 (bits + n * 2 ^ 16 + (if persistent then 2 ^ 21 else 0) + (if member then 2 ^ 22 else 0))

/-- `CSN` (R336). -/
def csnWord (core quad seq : Nat) : DWord := BitVec.ofNat 64 (core * 2 ^ 53 + quad * 2 ^ 51 + seq % 2 ^ 51)

/-- A copy's ticket (R202). -/
def ticketWord (quad seq : Nat) : Word := BitVec.ofNat 32 (quad * 2 ^ 30 + seq % 2 ^ 30)

/-- `SOLSTAT` (R298). -/
def solstatWord (regions : List (Nat × Bool × Nat)) : Word :=
  BitVec.ofNat 32 (regions.foldl (fun a p => a + (p.2.2 % 8 + (if p.2.1 then 8 else 0)) * 2 ^ (8 * p.1)) 0)

end Sys2Proof.Machine
end

