-- ==== Sys2Proof/Machine/Race.lean ====
section
/-! DEFINITION. The race detector (R275 to R279): sector words, slots, checking and recording an access, clearing. -/

namespace Sys2Proof.Machine

/-- How an access counts for the detector (R278). -/
inductive RaceKind where
  | read | atomic | write
deriving DecidableEq, Repr

/-- Sector word `s` of a record (R277). -/
def sectorWord (rec : BitVec 128) (s : Nat) : Nat := (rec.extractLsb' (32 * s) 32).toNat

def setSector (rec : BitVec 128) (s w : Nat) : BitVec 128 :=
  BitVec.ofNat 128 ((List.range 4).foldl (fun a i => a + (if i = s then w % 2 ^ 32 else sectorWord rec i) * 2 ^ (32 * i)) 0)

/-- Slot `k`, 0 or 1, of a sector word: region id, R and W. -/
def slotId (w k : Nat) : Nat := w / 2 ^ (15 * k + 2) % 8192
def slotR (w k : Nat) : Bool := w / 2 ^ (15 * k + 1) % 2 = 1
def slotW (w k : Nat) : Bool := w / 2 ^ (15 * k) % 2 = 1

/-- M and O of a sector word. -/
def sectorM (w : Nat) : Bool := w / 2 ^ 31 % 2 = 1
def sectorO (w : Nat) : Bool := w / 2 ^ 30 % 2 = 1

/-- A sector word of its fields. -/
def mkSector (m o : Bool) (id1 : Nat) (r1 w1 : Bool) (id0 : Nat) (r0 w0 : Bool) : Nat :=
  m.toNat * 2 ^ 31 + o.toNat * 2 ^ 30 + id1 % 8192 * 2 ^ 17 + r1.toNat * 2 ^ 16 + w1.toNat * 2 ^ 15
    + id0 % 8192 * 2 ^ 2 + r0.toNat * 2 + w0.toNat

/-- Sets slot `k`. -/
def setSlot (w k id : Nat) (r wr : Bool) : Nat :=
  if k = 0 then mkSector (sectorM w) (sectorO w) (slotId w 1) (slotR w 1) (slotW w 1) id r wr
  else mkSector (sectorM w) (sectorO w) id r wr (slotId w 0) (slotR w 0) (slotW w 0)

def setM (w : Nat) (m : Bool) : Nat :=
  mkSector m (sectorO w) (slotId w 1) (slotR w 1) (slotW w 1) (slotId w 0) (slotR w 0) (slotW w 0)

def setO (w : Nat) (o : Bool) : Nat :=
  mkSector (sectorM w) o (slotId w 1) (slotR w 1) (slotW w 1) (slotId w 0) (slotR w 0) (slotW w 0)

/-- A region is active (R275). -/
def Owner.regionActive (o : Owner) (id : Nat) : Bool :=
  match mget o.regions id with
  | some r => r.current || decide (0 < r.open_)
  | none => false

/-- A slot is held (R277). -/
def Owner.slotHeld (o : Owner) (w k : Nat) : Bool := (slotR w k || slotW w k) && o.regionActive (slotId w k)

/-- The slot of another region that an access of region `rho` conflicts with, if any (R278). -/
def Owner.conflictSlot (o : Owner) (w : Nat) (k : RaceKind) (rho : Nat) : Option Nat :=
  [0, 1].find? (fun j => o.slotHeld w j && slotId w j != rho && (k == .write || slotW w j))

/-- Records an access that met no conflict (R278). -/
def Owner.recordSector (o : Owner) (w : Nat) (k : RaceKind) (rho : Nat) : Nat :=
  let rd := k == .read
  let wr := k == .write
  if k == .atomic then w
  else
    match [0, 1].find? (fun j => slotId w j == rho && (slotR w j || slotW w j)) with
    | some j => setSlot w j rho (slotR w j || rd) (slotW w j || wr)
    | none =>
      let free := [0, 1].filter (fun j => !o.slotHeld w j)
      match free with
      | [] => setM w true
      | j :: rest =>
        let j := if rest.isEmpty then j else (if sectorO w then 1 else 0)
        setO (setSlot w j rho rd wr) (decide (j = 0))

/-- Checks and records an access at one sector: the new word, or the subcause and the logical id of MMX (R279). -/
def Owner.raceSector (o : Owner) (w : Nat) (k : RaceKind) (rho : Nat) : Except (Nat × Nat) Nat :=
  match o.conflictSlot w k rho with
  | some j =>
    .error (if k == .write then 1 else 2, ((mget o.regions (slotId w j)).map (fun r => r.lgid)).getD 0)
  | none =>
    if k == .write && sectorM w then .error (3, 0xFFFFFFFF)
    else .ok (o.recordSector w k rho)

/-- The sectors that bytes `off` to `off + n - 1` of a line touch. -/
def sectorsOf (off n : Nat) : List Nat := (List.range 4).filter (fun s => decide (32 * s < off + n ∧ off < 32 * s + 32))

/-- Checks and records an access at several sectors: the new record, and the sectors in conflict with subcause and logical id. -/
def Owner.raceLine (o : Owner) (rec : BitVec 128) (k : RaceKind) (rho : Option Nat) (sectors : List Nat) :
    BitVec 128 × List (Nat × Nat × Nat) :=
  match rho with
  | none => (rec, [])
  | some r =>
    sectors.foldl (fun acc s =>
      match o.raceSector (sectorWord acc.1 s) k r with
      | .ok w => (setSector acc.1 s w, acc.2)
      | .error e => (acc.1, acc.2 ++ [(s, e.1, e.2)])) (rec, [])

/-- Records without a check (R278: collectives). -/
def Owner.raceRecord (o : Owner) (rec : BitVec 128) (k : RaceKind) (rho : Option Nat) (sectors : List Nat) : BitVec 128 :=
  match rho with
  | none => rec
  | some r => sectors.foldl (fun acc s => setSector acc s (o.recordSector (sectorWord acc s) k r)) rec

/-- A copy sets a scratchpad line full: the W bits of its region in the line's record are cleared (R278). -/
def clearWrites (rec : BitVec 128) (rho : Nat) : BitVec 128 :=
  (List.range 4).foldl (fun acc s =>
    let w := sectorWord acc s
    setSector acc s ([0, 1].foldl (fun w j => if slotId w j == rho then setSlot w j rho (slotR w j) false else w) w)) rec

/-- The sweep of a record (R277): free slots are cleared, and M when both are free. -/
def Owner.sweepRecord (o : Owner) (rec : BitVec 128) : BitVec 128 :=
  (List.range 4).foldl (fun acc s =>
    let w := sectorWord acc s
    let w := [0, 1].foldl (fun w j => if o.slotHeld w j then w else setSlot w j 0 false false) w
    setSector acc s (if o.slotHeld w 0 || o.slotHeld w 1 then w else setM w false)) rec

/-- A record holds a slot with a region id. -/
def recordNames (rec : BitVec 128) (id : Nat) : Bool :=
  (List.range 4).any (fun s => [0, 1].any (fun j =>
    let w := sectorWord rec s
    (slotR w j || slotW w j) && slotId w j == id))

/-- The record of a line in a store of records. -/
def raceGet (m : Map (BitVec 128)) (line : Nat) : BitVec 128 := sget 0 m line

def racePut (m : Map (BitVec 128)) (line : Nat) (r : BitVec 128) : Map (BitVec 128) := sset 0 m line r

/-- The address and lane of the first conflicting byte of an access at generic address `ga`, line offset `off` (R279). -/
def firstBad (ga : DWord) (off : Nat) (bad : List (Nat × Nat × Nat)) : Option (Nat × Nat × DWord) :=
  match bad with
  | [] => none
  | (s, sub, other) :: _ => some (sub, other, ga + BitVec.ofNat 64 (32 * s - off))

end Sys2Proof.Machine
end

