-- ==== Sys2Proof/Machine/Addr.lean ====
section
/-! DEFINITION. Generic addresses and windows (R60 to R63), page-table entries (R85), TLBs and the L1 with their replacement (R355), bank
colours (R30), the order of requests (R79), and the write-combining buffers (R76, R77). -/

namespace Sys2Proof.Machine

/-! ### Windows -/

/-- A segment register holds a legal window (R61): `lo` to `hi` bound a non-zero SZ. -/
def segLegal (lo hi : Nat) (seg : DWord) : Bool :=
  let sz := (seg.extractLsb' 0 6).toNat
  let base := seg.toNat / 2 ^ 15 * 2 ^ 15
  (sz == 0 || decide (lo ≤ sz ∧ sz ≤ hi)) && decide (base % 2 ^ sz = 0)

/-- Where a generic address leads (R60, R62). -/
inductive Place where
  | scratch (off : Nat)
  | mem (va : Nat) (stack : Bool)
deriving DecidableEq, Repr

/-- The address of a thread's stack byte, computed without wrap (R62). -/
def stackVa (stkb : DWord) (teamId tid sz off : Nat) : Nat := stkb.toNat + (1024 * teamId + tid) * 2 ^ sz + off

/-- The window that decides an access of the thread `tid` (R60, R62); none is an address fault. -/
def Group.place (g : Group) (teamId : Nat) (stkb : DWord) (tid : Nat) (a : DWord) : Option Place :=
  match windowOffset g.segsp a with
  | some o => some (.scratch o)
  | none =>
    match windowOffset g.segst a with
    | some o =>
      let va := stackVa stkb teamId tid (g.segst.extractLsb' 0 6).toNat o
      if va < 2 ^ 51 then some (.mem va true) else none
    | none =>
      match windowOffset g.seggl a with
      | some o => some (.mem o false)
      | none => none

/-- The thread id of a lane. -/
def Group.tid (g : Group) (l : Nat) : Nat := ((mget g.threads l).map (fun t => t.tid)).getD 0

/-- The place of an address for a lane of the issuing group. -/
def State.place (s : State) (c : Ctx) (l : Nat) (a : DWord) : Option Place :=
  let team := ((s.core c.core).team.map (fun t => t.teamId)).getD 0
  let stkb := ((s.gridOf c.core).map (fun g => g.packet.stkb)).getD 0
  c.g.place team stkb (c.g.tid l) a

/-! ### Page-table entries (R85) -/

/-- What an entry of a level tells (R84, R85). -/
inductive PteKind where
  | absent
  | malformed
  /-- The table lies in a frame outside the owner's bank set (R30). -/
  | foreign
  | table (pa : Nat)
  | leaf (l : Leaf)
deriving DecidableEq, Repr

/-- log2 of what a leaf of a level maps (R84). -/
def levelBits (level : Nat) : Nat := if level = 1 then 39 else if level = 2 then 27 else 15

/-- The index of a level in a virtual address (R84). -/
def levelIndex (va level : Nat) : Nat := va / 2 ^ (51 - 12 * level) % 4096

/-- Decodes an entry met at a level (R85). -/
def pteKind (level w : Nat) : PteKind :=
  let v := w % 2 = 1
  let isLeaf := w / 2 % 2 = 1
  let tgt := w / 2 ^ 62
  let pfn := w / 2 ^ 15 % 2 ^ 37 * 2 ^ 15
  let bits := levelBits level
  if ¬v then .absent
  else if tgt = 3 ∨ (¬isLeaf ∧ tgt ≠ 0) ∨ (level = 3 ∧ ¬isLeaf) ∨ (isLeaf ∧ pfn % 2 ^ bits ≠ 0)
      ∨ (tgt = 0 ∧ (pfn / 2 ^ 40 ≠ 0 ∨ Config.stackBytes ≤ pfn % 2 ^ 36)) then .malformed
  else if isLeaf then
    .leaf { tgt := tgt, dev := w / 2 ^ 52 % 1024, frame := pfn, bits := bits, rmf := w / 2 ^ 7 % 2 = 1, untr := w / 2 ^ 6 % 2 = 1,
            shrd := w / 2 ^ 5 % 2 = 1, x := w / 2 ^ 3 % 2 = 1, w := w / 2 ^ 2 % 2 = 1 }
  else .table pfn

/-- The address beyond a leaf: a physical address, or the virtual address at the peer, which PFN bits [50:15] form (R310). -/
def Leaf.addr (l : Leaf) (va : Nat) : Nat := if l.tgt = 2 then (l.frame + va % 2 ^ l.bits) % 2 ^ 51 else l.frame + va % 2 ^ l.bits

/-- Where the host data that a PASID reaches stands in the host's memory as this model keeps it: host data at one IOVA under two PASIDs are two (R344; MODEL, row 36 of
notes/assumptions). Plain host addresses, those of the record rings, stand below 2^64. -/
def pasidBase (pasid : Nat) : Nat := 2 ^ 64 * (1 + pasid)

/-- A leaf as the owner with a PASID reaches through it. -/
def Leaf.under (l : Leaf) (pasid : Nat) : Leaf := if l.tgt = 1 then { l with frame := pasidBase pasid + l.frame } else l

/-! ### Bank colours (R30, R74) -/

def paStack (pa : Nat) : Nat := pa / 2 ^ 36 % 16
def paOffset (pa : Nat) : Nat := pa % 2 ^ 36
def paColour (pa : Nat) : Nat := pa / 2 ^ 15 % 64
def paChannel (pa : Nat) : Nat := pa / 2 ^ 10 % 32
def paSlice (pa : Nat) : Nat := pa / 2 ^ 7 % 32

/-- The frame's colour lies in the owner's bank set (R30, R277). -/
def Owner.colourOk (o : Owner) (pa : Nat) : Bool :=
  decide (paOffset pa < Config.trackable) && ((o.record.banks.drop (paStack pa)).head?.getD 0).getLsbD (paColour pa)

/-- The colour check of an access through a leaf: only device memory has colours. -/
def Owner.leafColourOk (o : Owner) (l : Leaf) (va : Nat) : Bool := l.tgt != 0 || o.colourOk (l.addr va)

/-- The die and the slice that cache a line (R74). -/
def lineSlice (tgt addr : Nat) : Nat × Nat :=
  if tgt = 1 then (addr / 2 ^ 12 % 8, paSlice addr) else (paStack addr / 2, paSlice addr)

/-- The order in which requests leave (R79): stack, channel, colour, line. -/
def lineKey (tgt addr : Nat) : Nat :=
  tgt * 2 ^ 80 + (if tgt = 0 then ((paStack addr * 32 + paChannel addr) * 64 + paColour addr) * 2 ^ 52 else 0) + addr % 2 ^ 64

/-! ### TLBs (R86, R355) -/

def TlbEntry.covers (e : TlbEntry) (vpn : Nat) : Bool := decide (e.vpn ≤ vpn ∧ vpn < e.vpn + 2 ^ (e.leaf.bits - 15))

def tlbFind (es : List TlbEntry) (vpn : Nat) : Option Leaf := (es.find? (fun e => e.covers vpn)).map (fun e => e.leaf)

/-- The entry that maps a page has an uncorrectable error (R335). -/
def tlbBad (es : List TlbEntry) (vpn : Nat) : Bool := ((es.find? (fun e => e.covers vpn)).map (fun e => e.bad)).getD false

/-- A hit counts as a use. -/
def tlbUse (es : List TlbEntry) (vpn clock : Nat) : List TlbEntry :=
  es.map (fun e => if e.covers vpn then { e with used := clock } else e)

/-- The smallest recency of a list. -/
def minUsed (us : List Nat) : Nat := match us with | [] => 0 | u :: us => us.foldl min u

/-- A fill takes a free entry, or the least recently used one's place. -/
def tlbFill (cap : Nat) (es : List TlbEntry) (e : TlbEntry) : List TlbEntry :=
  let es := es.filter (fun x => x.vpn != e.vpn)
  if es.length < cap then es ++ [e]
  else
    let m := minUsed (es.map (fun x => x.used))
    es.filter (fun x => x.used != m) ++ [e]

/-- Looks a page up in the L1 TLB, counting a use. -/
def Core.tlbLookup (c : Core) (vpn : Nat) : Option Leaf × Core :=
  match tlbFind c.tlb vpn with
  | some l => (some l, { c with tlb := tlbUse c.tlb vpn c.useClock, useClock := c.useClock + 1 })
  | none => (none, c)

def Core.tlbFill (c : Core) (vpn : Nat) (l : Leaf) : Core :=
  { c with tlb := Machine.tlbFill 64 c.tlb { vpn := vpn / 2 ^ (l.bits - 15) * 2 ^ (l.bits - 15), leaf := l, used := c.useClock },
           useClock := c.useClock + 1 }

/-! ### The L1 (R75, R355) -/

/-- A line held in the L1. -/
def Core.l1Find (c : Core) (line : Nat) (host code : Bool) : Option L1Line :=
  c.l1.find? (fun l => l.line == line && l.host == host && l.code == code)

def Core.l1Use (c : Core) (line : Nat) (host code : Bool) : Core :=
  { c with l1 := c.l1.map (fun l => if l.line == line && l.host == host && l.code == code then { l with used := c.useClock } else l),
           useClock := c.useClock + 1 }

/-- A fill into the set PA[13:7] of 4 ways. -/
def Core.l1Fill (c : Core) (line : Nat) (host code : Bool) (bytes : List Byte) : Core :=
  let rest := c.l1.filter (fun l => !(l.line == line && l.host == host && l.code == code))
  let inSet (l : L1Line) : Bool := l.line / 128 % 128 == line / 128 % 128
  let x : L1Line := { line := line, host := host, code := code, used := c.useClock, bytes := bytes }
  let rest :=
    if (rest.filter inSet).length < 4 then rest
    else
      let m := minUsed ((rest.filter inSet).map (fun l => l.used))
      rest.filter (fun l => !(inSet l && l.used == m))
  { c with l1 := rest ++ [x], useClock := c.useClock + 1 }

/-! ### Write combining (R76, R77) -/

/-- A line request that waits for injection. -/
def LineReq.new (addr va : Nat) (leaf : Leaf) (from_ : Nat) : LineReq :=
  { addr := addr, va := va, leaf := leaf, st := .queued from_, hit := false, fill := true, performed := false, bytes := [] }

/-- The threads of operations. -/
def Core.tidsOf (c : Core) (ops : List Nat) : List Nat := ops.flatMap (fun o => ((mget c.ops o).map (fun x => x.tids)).getD [])

/-- Starts the drain of an entry at `now`, a request of the group that stored the entry. -/
def Core.wcStart (c : Core) (e : WcEntry) (now : Nat) : Core :=
  let first := (e.ops.head?.bind (fun o => mget c.ops o)).getD .blank
  { c with wc := c.wc.filter (fun x => x.line != e.line || x.leaf.tgt != e.leaf.tgt) }.addOp
    { MemOp.blank with
      kind := .drain e.mask e.ops e.region, seat := first.seat, uid := first.uid, tids := c.tidsOf e.ops, quad := first.quad, lgid := first.lgid,
      region := e.region, pc := first.pc, issued := now, entered := true,
      lines := [{ LineReq.new e.line e.line e.leaf (now + 1) with fill := false }] }

/-- Drains the entry of a line, if the buffer holds it. -/
def Core.wcDrainLine (c : Core) (tgt line now : Nat) : Core :=
  match c.wc.find? (fun e => e.line == line && e.leaf.tgt == tgt) with
  | some e => c.wcStart e now
  | none => c

/-- Drains every entry, oldest first. -/
def Core.wcDrainAll (c : Core) (now : Nat) : Core := c.wc.foldl (fun c e => c.wcStart e now) c

/-- The bytes of a masked line after further bytes, ascending by offset; a later byte replaces an earlier one. -/
def maskPut (m : MaskedLine) (b : WByte) : MaskedLine :=
  (m.filter (fun x => decide (x.off < b.off))) ++ [b] ++ m.filter (fun x => decide (b.off < x.off))

/-- A store enters the buffer (R76). -/
def Core.wcPut (c : Core) (line : Nat) (leaf : Leaf) (region : Option Nat) (op now : Nat) (bs : List WByte) : Core :=
  let c := c.l1Lose line (leaf.tgt == 1)
  let find (c : Core) := c.wc.find? (fun e => e.line == line && e.leaf.tgt == leaf.tgt)
  let c := match find c with
    | some e => if e.region == region then c else c.wcStart e now
    | none => c
  let c : Core := match find c with
    | some _ => c
    | none =>
      let c : Core := match c.wc with
        | e :: _ => if c.wc.length < 16 then c else c.wcStart e now
        | [] => c
      { c with wc := c.wc ++ [{ line := line, leaf := leaf, mask := [], ops := [], region := region, born := now }] }
  let c : Core := { c with wc := c.wc.map (fun e =>
    if e.line == line && e.leaf.tgt == leaf.tgt then
      { e with mask := bs.foldl maskPut e.mask, ops := if e.ops.contains op then e.ops else e.ops ++ [op] }
    else e) }
  match find c with
  | some e => if e.mask.length = 128 then c.wcStart e now else c
  | none => c

/-- Starts the drain of a remote entry. -/
def Core.rwcStart (c : Core) (e : RwcEntry) (now : Nat) : Core :=
  let first := (e.ops.head?.bind (fun o => mget c.ops o)).getD .blank
  { c with rwc := c.rwc.filter (fun x => x.line != e.line || x.dev != e.dev) }.addOp
    { MemOp.blank with
      kind := .remoteDrain e.mask e.ops, seat := first.seat, uid := first.uid, tids := c.tidsOf e.ops, quad := first.quad, lgid := first.lgid,
      region := first.region, pc := first.pc, issued := now, entered := true,
      lines := [{ LineReq.new e.line e.line e.leaf (now + 1) with fill := false }] }

def Core.rwcDrainAll (c : Core) (now : Nat) : Core := c.rwc.foldl (fun c e => c.rwcStart e now) c

/-- A remote store enters its buffer of 32 entries (R77). One that finds the buffer full starts the drain of the oldest entry (DESIGN CHOICE, row 16 of
notes/assumptions: R77 names no such drain). -/
def Core.rwcPut (c : Core) (line : Nat) (leaf : Leaf) (op now : Nat) (bs : List WByte) : Core :=
  let find (c : Core) := c.rwc.find? (fun e => e.line == line && e.dev == leaf.dev)
  let c : Core := match find c with
    | some _ => c
    | none =>
      let c : Core := match c.rwc with
        | e :: _ => if c.rwc.length < 32 then c else c.rwcStart e now
        | [] => c
      { c with rwc := c.rwc ++ [{ dev := leaf.dev, line := line, leaf := leaf, mask := [], ops := [], born := now }] }
  let c : Core := { c with rwc := c.rwc.map (fun e =>
    if e.line == line && e.dev == leaf.dev then
      { e with mask := bs.foldl maskPut e.mask, ops := if e.ops.contains op then e.ops else e.ops ++ [op] }
    else e) }
  match find c with
  | some e => if e.mask.length = 128 then c.rwcStart e now else c
  | none => c

/-! ### Releases (R76, R182, R262) -/

/-- A store or an atomic, which a release waits for. -/
def MemOp.releases (o : MemOp) : Bool :=
  match o.kind with
  | .store => true
  | .atomic _ => true
  | .tst .. => true
  | .tqpop => true
  | .tqsteal => true
  | .tqdone => true
  | .systemStore => true
  | _ => false

/-- The operation touches remote memory. -/
def MemOp.remote (o : MemOp) : Bool := o.lines.any (fun l => l.leaf.tgt = 2)
  || o.pages.any (fun p => match p.leaf? with | some l => l.tgt = 2 | none => false)

/-- Two lists share a member. -/
def meets (xs ys : List Nat) : Bool := xs.any (fun x => ys.contains x)

/-- The threads of a group. -/
def Group.tids (g : Group) : List Nat := g.threads.map (fun p => p.2.tid)

/-- A read on path LS, which a release waits for until it has been performed (R262). -/
def MemOp.isRead (o : MemOp) : Bool :=
  match o.kind with
  | .load .. => true
  | .tld .. => true
  | .packet => true
  | .atf .. => true
  | _ => false

/-- An atomic, or an atomic step on a queue: what stands before an acquire fence and synchronises through it (R263). -/
def MemOp.isAtomicOp (o : MemOp) : Bool :=
  match o.kind with
  | .atomic _ => true
  | .atf .. => true
  | .tqpop => true
  | .tqsteal => true
  | .tqdone => true
  | _ => false

/-- Some access of an operation lies in local memory, or may. -/
def MemOp.localPart (o : MemOp) : Bool := !o.scr.isEmpty || o.pages.isEmpty || o.pages.any (fun p => match p.leaf? with | some l => l.tgt != 2 | none => true)

/-- What is left of an operation at a scope (R182, R249, R262): a part of a store or an atomic that is not acknowledged, or of a read that is not
performed. Remote parts count at system scope only. -/
def Core.owes (c : Core) (id : Nat) (o : MemOp) (scope now : Nat) : Bool :=
  let sys := decide (4 ≤ scope)
  if !o.entered then sys || o.localPart
  else if o.isRead then o.lines.any (fun r => (sys || r.leaf.tgt != 2) && !r.performed)
  else if o.isAtomicOp then sys || decide (now < o.notBefore) || o.lines.any (fun r => r.leaf.tgt != 2 && r.st != .done)
  else sys || c.wc.any (fun e => e.ops.contains id) || c.ops.any (fun p => match p.2.kind with | .drain _ ops _ => ops.contains id | _ => false)

/-- Earlier operations of the group's threads that a release at a scope waits for: stores, atomics and reads; without a release part, atomics (R182, R262,
R263). -/
def Core.unacked (c : Core) (g : Group) (rel : Bool) (upTo scope now : Nat) : Bool :=
  c.ops.any (fun p => decide (p.1 < upTo) && (if rel then p.2.releases || p.2.isRead else p.2.isAtomicOp) && meets p.2.tids g.tids
    && c.owes p.1 p.2 scope now)

/-- A store or an atomic whose acknowledgement a fence's status waits for is left (R182, R249, R354). -/
def Core.unreported (c : Core) (g : Group) (rel : Bool) (upTo scope now : Nat) : Bool :=
  rel && c.ops.any (fun p => decide (p.1 < upTo) && p.2.releases && meets p.2.tids g.tids && c.owes p.1 p.2 scope now)

/-- A write-combining entry of the core, or a drain of one, is not performed (R200). -/
def Core.undrained (c : Core) : Bool :=
  !c.wc.isEmpty || c.ops.any (fun p => match p.2.kind with | .drain .. => p.2.lines.any (fun r => !r.performed) | _ => false)

/-- A release starts the drains it needs (R76, R77): the remote buffer's at system scope. -/
def Core.releaseDrain (c : Core) (scope now : Nat) : Core :=
  let c := c.wcDrainAll now
  if 4 ≤ scope then c.rwcDrainAll now else c

end Sys2Proof.Machine
end

