-- ==== Sys2Proof/Machine/Queue.lean ====
section
/-! DEFINITION. Tile queues (R214 to R218): the descriptor, the entries and the three steps on them. -/

namespace Sys2Proof.Machine

/-- A queue descriptor (R214). -/
structure QDesc where
  head : Nat
  tail : Nat
  lcap : Nat
  fb : Nat
deriving DecidableEq, Repr

/-- The descriptor that 64 bytes hold. -/
def QDesc.of (bs : List Byte) : QDesc :=
  { head := fieldLe bs 0 8, tail := fieldLe bs 8 8, lcap := fieldLe bs 16 1 % 32, fb := fieldLe bs 17 1 }

/-- Where entry `j` lies from the descriptor on (R214). -/
def QDesc.entryOff (d : QDesc) (j : Nat) : Nat := 64 + 32 * (j % 2 ^ d.lcap)

def resEmpty : DWord := 0xFFFFFFFFFFFFFFFF
def resNosteal : DWord := 0xFFFFFFFFFFFFFFFE
def resBadent : DWord := 0xFFFFFFFFFFFFFFFD
def resLost : DWord := 0xFFFFFFFFFFFFFFFC

/-- Entry states (R215). -/
def stQueued : Nat := 0
def stClaimed : Nat := 1
def stStolen : Nat := 2
def stDone : Nat := 3

/-- Takes an entry: its tile and its new bytes; none when it is not QUEUED or holds a reserved tile. -/
def takeEntry (e : List Byte) (state dev lgid : Nat) : Option (DWord × List Byte) :=
  let tile := fieldLe e 0 8
  if fieldLe e 8 4 = stQueued ∧ tile < 0xFFFFFFFFFFFFFFF0 then
    some (BitVec.ofNat 64 tile,
      patch (patch (patch e 8 (leBytes 4 state)) 12 (leBytes 4 (fieldLe e 12 4 / 1024 * 1024 + dev % 1024))) 16 (leBytes 4 lgid))
  else none

/-- The entry that a `TQPOP` step touches; none when the queue is empty (R217). -/
def QDesc.popEntry (d : QDesc) : Option Nat := if d.tail ≤ d.head then none else some d.head

/-- The entry that a `TQSTEAL` step touches (R217). -/
def QDesc.stealEntry (d : QDesc) : Option Nat := if d.tail ≤ d.head then none else some (d.tail - 1)

/-- The new descriptor bytes after a pop or a steal. -/
def popDesc (bs : List Byte) : List Byte := patch bs 0 (leBytes 8 (fieldLe bs 0 8 + 1))
def stealDesc (bs : List Byte) : List Byte := patch bs 8 (leBytes 8 (fieldLe bs 8 8 - 1))

/-- The `TQDONE` step on an entry by group `lg` of device `dev` (R218, R320): the result and the new bytes. Only the device and the group that the entry names
can make it DONE. -/
def doneEntry (e : List Byte) (dev lg : Nat) : Word × List Byte :=
  let st := fieldLe e 8 4
  if (st = stClaimed ∨ st = stStolen) ∧ fieldLe e 12 4 % 1024 = dev ∧ fieldLe e 16 4 = lg then (0, patch e 8 (leBytes 4 stDone)) else (1, e)

end Sys2Proof.Machine
end

