-- ==== Sys2Proof/Machine/Path.lean ====
section
/-! DEFINITION. Memory operations from issue to answer (R79, R85 to R89, R177, R198, R247 to R250, R278, R279): translation at the core, the lines
of an operation, performing a line at its place, and what an answer writes. -/

namespace Sys2Proof.Machine

/-! ### Operations and their groups -/

def State.op? (s : State) (core id : Nat) : Option MemOp := mget (s.core core).ops id

def State.modOp (s : State) (core id : Nat) (f : MemOp → MemOp) : State :=
  s.modCore core (fun c => { c with ops := mmod c.ops id f })

def State.delOp (s : State) (core id : Nat) : State := s.modCore core (fun c => { c with ops := mdel c.ops id })

/-- The group is in a PRE handler under DET, whose instructions do not count (R292). -/
def State.uncounted (s : State) (core : Nat) (g : Group) : Bool := s.det core && (g.handling.map (fun h => h.pre)).getD false

/-- An instruction of the group whose effect is complete at the end of cycle `last` is counted (R287). -/
def Group.retire (g : Group) (now last : Nat) : Group :=
  let late := (g.late ++ (if now < last then [last] else [])).filter (fun t => decide (now ≤ t))
  { g with rcnt := g.rcnt + (g.late.filter (fun t => decide (t < now))).length + (if now < last then 0 else 1), late := late }

/-- Counts a retired instruction of a group (R287): its effect is complete at the end of cycle `last`. -/
def State.retiredAt (s : State) (core seat uid last : Nat) : State :=
  s.modGroupOf core seat uid (fun g => if s.uncounted core g then g else g.retire (s.now core) last)

/-- Counts `n` instructions that retire in this cycle. -/
def State.retired (s : State) (core seat uid n : Nat) : State :=
  (List.range n).foldl (fun s _ => s.retiredAt core seat uid (s.now core)) s

/-- Counts the instruction of an operation, unless it has been counted or does not count (R287, R292). -/
def State.retiredOp (s : State) (core : Nat) (o : MemOp) : State :=
  if o.counted then s else s.modGroupOf core o.seat o.uid (fun g => { g with rcnt := g.rcnt + 1 })

/-- Counts the instruction of an operation whose result is written at the end of cycle `last` (R287, R354). -/
def State.retiredOpAt (s : State) (core : Nat) (o : MemOp) (last : Nat) : State :=
  if o.counted then s else s.modGroupOf core o.seat o.uid (fun g => g.retire (s.now core) last)

/-- Counts the instruction of an operation that is still under way: a store or an atomic that has been performed (R294). -/
def State.retireOp (s : State) (core id : Nat) : State :=
  match s.op? core id with
  | some o => (s.retiredOp core o).modOp core id (fun o => { o with counted := true })
  | none => s

/-- A fatal fault of an operation that was issued earlier. -/
def State.opFatal (s : State) (core : Nat) (o : MemOp) (cause sub : Nat) (addr : DWord) : State :=
  let csn := ((s.groupOf core o.seat o.uid).map (fun g => g.csn)).getD 0
  (s.fatalOf core cause sub o.pc csn o.lgid addr o.failDev).noteFault core o.seat o.uid (causeWord cause sub 0)

/-! ### Ordering a list by a key -/

def insertBy {α : Type} (key : α → Nat) (x : α) : List α → List α
  | [] => [x]
  | y :: ys => if key x < key y then x :: y :: ys else y :: insertBy key x ys

/-- Sorts by a key; equal keys keep their order. -/
def sortBy {α : Type} (key : α → Nat) (xs : List α) : List α := xs.foldl (fun acc x => insertBy key x acc) []

/-! ### MMX -/

/-- The trap values of an operation's race conflict (R279). -/
def mmxInfo (x : Nat × Nat × Nat × DWord) : TrapInfo :=
  { cause := 2, sub := x.1, addr := x.2.2.2, mask := BitVec.ofNat 32 x.2.1, lane := x.2.2.1 }

/-- Holds an MMX for a group, in issue order (R279, R329). -/
def Group.holdMmx (g : Group) (h : HeldMmx) : Group := { g with mmx := sortBy (fun x => x.issued * 2 ^ 32 + x.order % 2 ^ 32) (g.mmx ++ [h]) }

/-! ### Pages and lines -/

/-- The distinct pages of accesses, in their order, each with the first access to it. -/
def pagesOf (acc : List Access) : List Page :=
  acc.foldl (fun ps a =>
    let vpn := a.va / Config.pageBytes
    if ps.any (fun p => p.vpn = vpn) then ps else ps ++ [{ vpn := vpn, lane := a.lane, va := a.va, st := .start }]) []

/-- Looks the new pages of a list up in the L1 TLB; a miss goes to the L2 TLB, where it arrives 4 cycles later (R250). -/
def Core.lookupPages (c : Core) (now : Nat) : List Page → Core × List Page
  | [] => (c, [])
  | p :: ps =>
    match p.st with
    | .start =>
      let (r, c) := c.tlbLookup p.vpn
      let st : PageState := match r with | some l => (if tlbBad c.tlb p.vpn then .failed now 0x27 else .done l) | none => .atTlb (now + 4)
      let (c, ps) := Core.lookupPages c now ps
      (c, { p with st := st } :: ps)
    | _ =>
      let (c, ps) := Core.lookupPages c now ps
      (c, p :: ps)

/-- The leaf of an address, once its page is translated. -/
def MemOp.leafOf (o : MemOp) (va : Nat) : Option Leaf :=
  match o.pages.find? (fun p => p.vpn = va / Config.pageBytes) with
  | some p => p.leaf?
  | none => none

/-- Every page of the operation has its leaf. -/
def MemOp.translated (o : MemOp) : Bool := o.pages.all (fun p => p.leaf?.isSome)

/-- A page of the operation is not present: its group is parked (R88). -/
def MemOp.parked (o : MemOp) : Bool := o.pages.any (fun p => match p.st with | .toMerge _ _ => true | .parked => true | _ => false)

/-- The leaf and the physical address of an access. -/
def MemOp.where_ (o : MemOp) (a : Access) : Option (Leaf × Nat) := (o.leafOf a.va).map (fun l => (l, l.addr a.va))

/-- The access lies in a line. -/
def MemOp.inLine (o : MemOp) (r : LineReq) (a : Access) : Bool :=
  match o.where_ a with
  | some (l, pa) => pa / 128 * 128 == r.addr && l.tgt == r.leaf.tgt && l.dev == r.leaf.dev && a.stack == r.stack
  | none => false

/-- The distinct lines of an operation in the order of its accesses, those of the stack window apart (R79), each to be injected from `from_` on. -/
def MemOp.lineReqs (o : MemOp) (from_ : Nat) : List LineReq :=
  o.acc.foldl (fun rs a =>
    match o.where_ a with
    | none => rs
    | some (l, pa) =>
      let line := pa / 128 * 128
      if rs.any (fun r => r.addr == line && r.leaf.tgt == l.tgt && r.leaf.dev == l.dev && r.stack == a.stack) then rs
      else rs ++ [{ LineReq.new line (a.va / 128 * 128) l from_ with stack := a.stack }]) []

/-- The operation writes, so its pages need W (R85, R177). -/
def OpKind.writes : OpKind → Bool
  | .store => true
  | .atomic _ => true
  | .atf _ _ => true
  | .tst .. => true
  | .tqpop => true
  | .tqsteal => true
  | .tqdone => true
  | .copyWrite _ => true
  | .systemStore => true
  | _ => false

def OpKind.isCopy : OpKind → Bool
  | .copyRead _ => true
  | .copyWrite _ => true
  | _ => false

def OpKind.isFetch : OpKind → Bool
  | .fetch _ => true
  | _ => false

def OpKind.isProbe : OpKind → Bool
  | .probe _ => true
  | _ => false

/-- An access of the LS path: no copy, no instruction fetch and no read that the device makes for an instruction (R76, R260). -/
def OpKind.lsPath (k : OpKind) : Bool := !k.isCopy && !k.isFetch && !k.isProbe

def OpKind.isPref : OpKind → Bool
  | .pref _ => true
  | _ => false

/-- The operation holds miss slots (R79, R199, R211). -/
def OpKind.missSlot : OpKind → Bool
  | .load .. => true
  | .atomic _ => true
  | .atf .. => true
  | .drain .. => true
  | .remoteDrain .. => true
  | .tld .. => true
  | .packet => true
  | .tqpop => true
  | .tqsteal => true
  | .tqdone => true
  | _ => false

/-- The fault of an operation whose pages are all translated (R30, R85, R217): permission first, then colour. The entry of a queue step is checked at the
step. -/
def State.opCheck (s : State) (k : Nat) (o : MemOp) : Option (Nat × Nat × DWord) :=
  let own := s.owner k
  let acc := if o.kind == .tqpop then o.acc.take 1 else o.acc
  let perm := acc.find? (fun a =>
    match o.leafOf a.va with
    | some l => (o.kind.writes && !l.w) || ((o.kind.isFetch || o.kind == .probe .code) && !l.x)
    | none => false)
  match perm with
  | some a => some (0x21, 1, a.ga)
  | none =>
    match acc.find? (fun a => match o.leafOf a.va with | some l => !own.leafColourOk l a.va | none => false) with
    | some a => some (0x22, 0, a.ga)
    | none =>
      match o.kind with
      | .tqpop => (acc.find? (fun a => match o.leafOf a.va with | some l => l.tgt != 0 | none => false)).map (fun a => (0x20, 0, a.ga))
      | _ => none

/-- An operation that has not entered waits behind an earlier one of its threads to one of its lines (R261). -/
def Core.blocked (c : Core) (id : Nat) (o : MemOp) : Bool :=
  c.ops.any (fun p => decide (p.1 < id) && !p.2.entered && meets p.2.tids o.tids
    && (p.2.acc.any (fun a => o.acc.any (fun b => a.va / 128 == b.va / 128))
      || p.2.scr.any (fun a => o.scr.any (fun b => a.va / 128 == b.va / 128))))

/-! ### Performing a line at its place -/

/-- The new value of an atomic (R178, R179). -/
def atomNew (op : AtomOp) (bytes old x y : Nat) : Nat :=
  let w := 8 * bytes
  let f : Fp := if bytes = 8 then .f64 else .f32
  let sg (v : Nat) : Int := if 2 ^ (w - 1) ≤ v then (v : Int) - 2 ^ w else v
  match op with
  | .add => (old + x) % 2 ^ w
  | .minS => if sg x < sg old then x else old
  | .minU => if x < old then x else old
  | .maxS => if sg old < sg x then x else old
  | .maxU => if old < x then x else old
  | .and => old &&& x
  | .or => old ||| x
  | .xor => old ^^^ x
  | .exch => x
  | .fadd => (f.addV .rn (f.unpack old) (f.unpack x)).1
  | .fmin => (f.minmax false old x).1
  | .fmax => (f.minmax true old x).1
  | .cas => if old = y then x else old
  | .read => old

/-- Reads and writes at a place: device memory or host memory. -/
def State.readAt (s : State) (host : Bool) (a n : Nat) : List Byte := if host then s.host.readN a n else s.mem.readN a n

def State.writeAt (s : State) (host : Bool) (a : Nat) (bs : List Byte) : State :=
  if host then { s with host := s.host.writeN a bs } else { s with mem := s.mem.writeN a bs }

/-- Checks and records an access to device memory (R278): the sectors in conflict. -/
def State.raceAt (s : State) (k : Nat) (l : Leaf) (pa n : Nat) (kind : RaceKind) (rho : Option Nat) : State × List (Nat × Nat × Nat) :=
  if l.tgt != 0 || l.untr then (s, [])
  else
    let (r, bad) := (s.owner k).raceLine (raceGet s.races (pa / 128)) kind rho (sectorsOf (pa % 128) n)
    ({ s with races := racePut s.races (pa / 128) r }, bad)

/-- Records an access to device memory that is not checked (R278). -/
def State.recordAt (s : State) (k : Nat) (l : Leaf) (pa n : Nat) (kind : RaceKind) (rho : Option Nat) : State :=
  if l.tgt != 0 || l.untr then s
  else { s with races := racePut s.races (pa / 128) ((s.owner k).raceRecord (raceGet s.races (pa / 128)) kind rho (sectorsOf (pa % 128) n)) }

/-- The conflict of an operation that is reported: the lowest lane's (R279). -/
def mergeConflict (a b : Option (Nat × Nat × Nat × DWord)) : Option (Nat × Nat × Nat × DWord) :=
  match a, b with
  | none, y => y
  | x, none => x
  | some x, some y => if y.2.2.1 < x.2.2.1 then some y else some x

/-- The conflict of one access. -/
def accConflict (a : Access) (pa : Nat) (bad : List (Nat × Nat × Nat)) : Option (Nat × Nat × Nat × DWord) :=
  (firstBad a.ga (pa % 128) bad).map (fun x => (x.1, x.2.1, a.lane, x.2.2))

/-! ### Scratchpad accesses (R65, R244, R257, R278) -/

/-- How an operation counts for the detector (R278). -/
def OpKind.race (k : OpKind) : RaceKind :=
  match k with
  | .atomic _ => .atomic
  | .atf .. => .atomic
  | .store => .write
  | .tst .. => .write
  | .copyWrite _ => .write
  | _ => .read

/-- Checks and records an access to the scratchpad. -/
def State.raceScratch (s : State) (core off n : Nat) (kind : RaceKind) (rho : Option Nat) : State × List (Nat × Nat × Nat) :=
  let (r, bad) := (s.owner (s.ownerOf core)).raceLine (raceGet (s.core core).spRace (off / 128)) kind rho (sectorsOf (off % 128) n)
  (s.modCore core (fun c => { c with spRace := racePut c.spRace (off / 128) r }), bad)

/-- Records an access to the scratchpad that is not checked (R278). -/
def State.recordScratch (s : State) (owner core off n : Nat) (kind : RaceKind) (rho : Option Nat) : State :=
  s.modCore core (fun c => { c with spRace := racePut c.spRace (off / 128) ((s.owner owner).raceRecord (raceGet c.spRace (off / 128)) kind rho (sectorsOf (off % 128) n)) })

/-- Marks scratchpad lines full or empty (R65). -/
def Core.setFull (c : Core) (line : Nat) (full : Bool) : Core :=
  if full then { c with spEmpty := c.spEmpty.filter (fun x => x != line) }
  else if c.spEmpty.contains line then c else { c with spEmpty := c.spEmpty ++ [line] }

/-- What the instructions of this cycle see of the scratchpad: its bytes and its empty lines before the cycle's stores, `SPSET` and `SPCLR`, which are
performed at its end (R257). -/
def Core.seen (c : Core) : Memory := match c.before with | some x => x.1 | none => c.sp
def Core.seenEmpty (c : Core) : List Nat := match c.before with | some x => x.2.1 | none => c.spEmpty

/-- Lines that the end of this cycle sets full. -/
def Core.endFull (c : Core) : List Nat := match c.before with | some x => x.2.2 | none => []

/-- Keeps what the cycle's instructions see. -/
def Core.keepSeen (c : Core) : Core := { c with before := some (c.seen, c.seenEmpty, c.endFull) }

/-- Sets the bit of a line at the end of the cycle (R257). -/
def Core.setAtEnd (c : Core) (line : Nat) (full : Bool) : Core :=
  let c := c.keepSeen.setFull line full
  { c with before := c.before.map (fun x => (x.1, x.2.1, x.2.2.filter (fun l => l != line) ++ (if full then [line] else []))) }

/-- Makes a line empty in the issue cycle itself (R65); what the cycle's end sets full is full then (R257). -/
def Core.setEmpty (c : Core) (line : Nat) : Core :=
  let c := if c.endFull.contains line then c else c.setFull line false
  { c with before := c.before.map (fun x => (x.1, if x.2.1.contains line then x.2.1 else x.2.1 ++ [line], x.2.2)) }

/-- Writes bytes of the scratchpad: a word that is written whole has no error any longer (R335). -/
def Core.spWrite (c : Core) (o : Nat) (bs : List Byte) : Core :=
  { c with sp := c.sp.writeN o bs, spBad := c.spBad.filter (fun w => !(decide (o ≤ 8 * w ∧ 8 * w + 8 ≤ o + bs.length))) }

/-- The race record of a line of the scratchpad has an uncorrectable error (R335), which every access to the line meets (R277). -/
def Core.raceError (c : Core) (o n : Nat) : Bool := c.spRaceBad.any (fun l => decide (128 * l < o + n ∧ o < 128 * l + 128))

/-- A read of bytes of the scratchpad meets an uncorrectable error: in a word, or in the race record (R335). -/
def Core.spError (c : Core) (o n : Nat) : Bool := c.spBad.any (fun w => decide (8 * w < o + n ∧ o < 8 * w + 8)) || c.raceError o n

/-- Performs one access to the scratchpad: a store or an atomic after the reads of the cycle. -/
def State.scratchAccess (s : State) (core : Nat) (kind : OpKind) (rho : Option Nat) (a : Access) :
    State × Access × Option (Nat × Nat × Nat × DWord) :=
  let (s, bad) := s.raceScratch core a.va a.bytes kind.race rho
  let old := (s.core core).sp.readN a.va a.bytes
  let put (s : State) (bs : List Byte) : State :=
    s.modCore core (fun c => (c.keepSeen.spWrite a.va bs).setAtEnd (a.va / 128) true)
  let full (s : State) : State := s.modCore core (fun c => c.setAtEnd (a.va / 128) true)
  -- Sectors without conflict take effect (R279).
  let sectors (s : State) : State := put s (((List.range a.bytes).zip (a.data.zip old)).map (fun p =>
    if bad.any (fun x => x.1 == (a.va + p.1) % 128 / 32) then p.2.2 else p.2.1))
  match kind with
  | .atomic op =>
    if bad.isEmpty then (put s (leBytes a.bytes (atomNew op a.bytes (leNat old) (leNat a.data) (leNat a.cmp))), { a with res := old }, none)
    else (full s, { a with bad := true }, accConflict a a.va bad)
  | .store => (sectors s, { a with bad := !bad.isEmpty }, accConflict a a.va bad)
  | .tst .. => (sectors s, { a with bad := !bad.isEmpty }, accConflict a a.va bad)
  | _ => (s, { a with res := (s.core core).seen.readN a.va a.bytes, bad := !bad.isEmpty }, accConflict a a.va bad)

/-- Performs the scratchpad accesses of an operation in their order. -/
def State.scratchAccesses (s : State) (core : Nat) (kind : OpKind) (rho : Option Nat) :
    List Access → State × List Access × Option (Nat × Nat × Nat × DWord)
  | [] => (s, [], none)
  | a :: as =>
    let (s, a, x) := s.scratchAccess core kind rho a
    let (s, as, y) := State.scratchAccesses s core kind rho as
    (s, a :: as, mergeConflict x y)

/-- Performs what an operation does in the scratchpad. One that meets an uncorrectable error does nothing there: its group takes DATA-ERROR, with the line's
address (R335). -/
def State.performScratch (s : State) (core id : Nat) : State :=
  match s.op? core id with
  | none => s
  | some o =>
    let reads := match o.kind with | .store => false | .tst .. => false | _ => true
    if o.scr.isEmpty then s
    else
      match o.scr.find? (fun a => if reads then (s.core core).spError a.va a.bytes else (s.core core).raceError a.va a.bytes) with
      | some a => s.modOp core id (fun o => { o with failed := some (0x27, BitVec.ofNat 64 (a.ga.toNat - a.va % 128)) })
      | none =>
      let (s, as, x) := s.scratchAccesses core o.kind o.region o.scr
      let s := s.modOp core id (fun o => { o with scr := as, conflict := mergeConflict o.conflict x })
      match o.kind with
      | .atomic _ => if o.acc.isEmpty then (s.regionOpen core o.region false).retireOp core id else s
      | _ => s

/-- Another drain or buffer entry still holds bytes of a store operation. -/
def Core.storeOpen (c : Core) (store : Nat) (performed : Bool) : Bool :=
  c.wc.any (fun e => e.ops.contains store) || c.rwc.any (fun e => e.ops.contains store)
  || c.ops.any (fun p => match p.2.kind with
      | .drain _ ops _ => ops.contains store && p.2.lines.any (fun r => if performed then !r.performed else true)
      | .remoteDrain _ ops => ops.contains store
      | _ => false)

/-- A store operation none of whose bytes is left in a buffer or a drain is acknowledged (R182, R249). -/
def State.ackStores (s : State) (core : Nat) (stores : List Nat) : State :=
  stores.foldl (fun s st =>
    if (s.core core).storeOpen st false then s
    else
      match s.op? core st with
      | some o =>
        let s := (s.regionOpen core o.region false).delOp core st
        match o.kind with
        | .systemStore => s
        | _ =>
          s.retiredOp core o
      | none => s) s

/-- Bytes of a store access, for a write-combining buffer. -/
def storeBytes (id pa : Nat) (a : Access) : List WByte :=
  (a.data.zip (List.range a.data.length)).map (fun p =>
    { off := pa % 128 + p.2, val := p.1, op := id, lane := a.lane, ga := a.ga + BitVec.ofNat 64 p.2 })

/-- The drains that operation `id` has started since the core counted `old` operations take the operation's place in the order of injection, and among
themselves the order of their lines (R76, R79, R249); those of a `TST` the order of the tile's lines (R211). -/
def Core.drainsFor (c : Core) (old id : Nat) : Core :=
  let tst := match (mget c.ops id).map (fun o => o.kind) with | some (.tst ..) => true | _ => false
  let key (p : Nat × MemOp) : Nat := if tst then p.1 else ((p.2.lines.head?).map (fun r => lineKey r.leaf.tgt r.addr)).getD 0
  let new := sortBy key (c.ops.filter (fun p => decide (old ≤ p.1)))
  { c with ops := c.ops.filter (fun p => decide (p.1 < old))
      ++ ((List.range new.length).zip new).map (fun p => (old + p.1, { p.2.2 with ahead := some id })) }

/-- Puts the stores of an operation into the write-combining buffers, in ascending lane (R76, R77, R198). -/
def Core.enterStores (c : Core) (id base : Nat) (o : MemOp) : Core :=
  Core.drainsFor (o.acc.foldl (fun c a =>
    match o.where_ a with
    | none => c
    | some (l, pa) =>
      let line := pa / 128 * 128
      if l.tgt = 2 then c.rwcPut line l id base (storeBytes id pa a)
      else c.wcPut line l o.region id base (storeBytes id pa a)) c) c.nextOp id

/-- The bytes of an access that a line holds. -/
def accBytes (line : List Byte) (pa n : Nat) : List Byte := (line.drop (pa % 128)).take n

/-- Fills the accesses of an operation that lie in a line from its bytes. -/
def MemOp.takeLine (o : MemOp) (r : LineReq) (bytes : List Byte) : MemOp :=
  { o with acc := o.acc.map (fun a =>
      if o.inLine r a then
        match o.where_ a with
        | some (_, pa) => { a with res := accBytes bytes pa a.bytes }
        | none => a
      else a) }

/-- Replaces line request `i`. -/
def setAt {α : Type} (xs : List α) (i : Nat) (x : α) : List α := xs.take i ++ (if i < xs.length then [x] else []) ++ xs.drop (i + 1)

/-- The generic address of a line of an operation. -/
def MemOp.lineGa (o : MemOp) (r : LineReq) : DWord :=
  match o.acc.find? (fun a => a.va / 128 == r.va / 128) with
  | some a => BitVec.ofNat 64 (a.ga.toNat / 128 * 128)
  | none => BitVec.ofNat 64 (r.va / 128 * 128)

/-- What the L1 holds of a line: nothing of a remote one (R75, R311), nothing for a fetch of one with an error, which is
fetched past the L1 (R335), and nothing for a load whose line write combining holds, which is drained first (R76). -/
def Core.l1Hit (c : Core) (r : LineReq) (host code : Bool) : Option L1Line :=
  if r.leaf.tgt == 2 || (!code && c.wc.any (fun e => e.line == r.addr && e.leaf.tgt == r.leaf.tgt)) then none else (c.l1Find r.addr host code).filter (fun l => !(code && l.bad))

/-- The hits of an instruction count as uses in ascending lane (R355). A line that several of its lanes hit is used once, at its lowest lane (DESIGN CHOICE, row 17
of notes/assumptions). -/
def Core.useLines (c : Core) (code host : LineReq → Bool) (rs : List LineReq) : Core :=
  rs.foldl (fun c r => if (c.l1Hit r (host r) (code r)).isSome then c.l1Use r.addr (host r) (code r) else c) c

/-- Looks the lines of a load up in the L1 in its issue cycle (R75, R244, R247): a hit is answered after 6 cycles; a miss is to be injected. One on the LS path goes
behind the drain of the line's write-combining entry (R76), and one to a remote line behind that of the remote one's on any path (R307). -/
def Core.lookupLines (c : Core) (id base nohit : Nat) (code host : LineReq → Bool) (hitAt : Nat) : List LineReq → List LineReq → Core × List LineReq
  | [], done => (c, done)
  | r :: rs, done =>
    match if nohit = 0 then c.l1Hit r (host r) (code r) else none with
    | some l =>
      -- An error of the line reaches the group (R335).
      let c := if l.bad then { c with ops := mmod c.ops id (fun o => { o with failed := some (0x27, o.lineGa r) }) } else c
      c.lookupLines id base nohit code host hitAt rs
        (done ++ [{ r with hit := true, fill := false, performed := true, bytes := l.bytes, st := .back hitAt }])
    | none =>
      let ls := ((mget c.ops id).map (fun o => o.kind.lsPath)).getD false
      let d := if r.leaf.tgt = 2 then
          match c.rwc.find? (fun e => e.line == r.addr && e.dev == r.leaf.dev) with
          | some e => c.rwcStart e base
          | none => c
        else if ls then c.wcDrainLine r.leaf.tgt r.addr base
        else c
      let quad := ((mget c.ops id).map (fun o => o.quad)).getD 0
      let d := if d.nextOp = c.nextOp then d else { d with ops := mmod d.ops c.nextOp (fun o => { o with ahead := some id, quad := quad }) }
      d.lookupLines id base nohit code host hitAt rs (done ++ [r])

/-! ### The commit token (R282 to R285) -/

/-- No store of a group of an exited thread is still under way: what the automatic pass of an `EXIT` releases (R285). -/
def State.tokenSettled (s : State) (core : Nat) : Bool :=
  match (s.core core).team with
  | none => true
  | some t =>
    s.cores.all (fun p => match p.2.team with
      | some u => !(u.owner == t.owner && u.grid == t.grid)
          || !p.2.ops.any (fun o => o.2.releases && o.2.tids.any (fun x => u.exited.contains x))
      | none => true)

/-- The group holds the token and may perform what it gates. -/
def State.tokenReady (s : State) (core : Nat) (g : Group) : Bool := s.holdsToken core g && s.tokenSettled core

/-- A group that has come to hold the token performs its acquire, once (R285). -/
def State.tokenAcquire (s : State) (core seat : Nat) : State :=
  match s.group? core seat with
  | some g => if g.acqDue then (s.modCore core Core.loseL1).modGroup core seat (fun g => { g with acqDue := false }) else s
  | none => s

/-- The operation writes a SHARED page under DET (R284). -/
def State.writesShared (s : State) (core : Nat) (o : MemOp) : Bool :=
  s.det core && (match o.kind with | .store => true | .atomic _ => true | .tst .. => true | _ => false)
    && o.pages.any (fun p => match p.leaf? with | some l => l.shrd | none => false)

/-- Such an operation, its page not present when it issued, has now been translated and waits for its group to hold the token (R284). -/
def State.tokenHeld (s : State) (core : Nat) (o : MemOp) : Bool :=
  !o.entered && s.writesShared core o
    && (match s.groupOf core o.seat o.uid with | some g => !s.tokenReady core g | none => false)

/-- Removes an operation that a fault or a drop ends before it had any effect. -/
def State.dropOp (s : State) (core id : Nat) (o : MemOp) : State :=
  let s := s.delOp core id
  match o.kind with
  | .fetch line => s.modGroupOf core o.seat o.uid (fun g => { g with lines := g.lines.filter (fun l => l.line != line) })
  | .store => s.regionOpen core o.region false
  | .tst .. => s.regionOpen core o.region false
  | .systemStore => s.regionOpen core o.region false
  | .atomic _ => s.regionOpen core o.region false
  | _ => s

/-- Ends an operation with a fault that its translation or a check found (R30, R85, R88): a copy stops instead (R83), a line that its group does not
issue from is let go (R48), and a prefetch is dropped but for a colour violation (R199). -/
def State.failOp (s : State) (core id : Nat) (o : MemOp) (cause sub : Nat) (addr : DWord) : State :=
  match o.kind with
  | .copyRead _ => s.modOp core id (fun o => { o with failed := some (cause + 256 * sub, addr), entered := true, lines := [] })
  | .copyWrite _ => s.modOp core id (fun o => { o with failed := some (cause + 256 * sub, addr), entered := true, lines := [] })
  | .fetch line =>
    match s.groupOf core o.seat o.uid with
    | some g =>
      if o.returning && g.pc / 64 * 64 == line then ((s.dropOp core id o).opFatal core { o with pc := g.pc } cause sub addr) else s.dropOp core id o
    | none => s.dropOp core id o
  | .pref _ => if cause = 0x22 then (s.dropOp core id o).opFatal core o cause sub addr else s.dropOp core id o
  | _ => (s.dropOp core id o).opFatal core o cause sub addr

/-- A store whose accesses all lie in the scratchpad is performed (R257): a conflict reaches its group, and the operation ends. -/
def State.scratchStored (s : State) (core id : Nat) : State :=
  match s.op? core id with
  | none => s
  | some o =>
    let s := match o.conflict with
      | some x => (s.modGroupOf core o.seat o.uid (fun g => g.holdMmx { issued := o.issued, order := id, raised := s.now core, copy := false, info := mmxInfo x })).modOp core id
          (fun o => { o with conflict := none })
      | none => s
    if o.acc.isEmpty then s.ackStores core [id] else s

/-- A tile store whose bytes have been read holds its tile no longer (R211). -/
def State.tileRead (s : State) (core id : Nat) : State :=
  s.modOp core id (fun o => match o.kind with
    | .tst _ ty scl => { o with kind := .tst [] ty scl }
    | _ => o)

/-- An operation whose pages are all translated takes its lines (R247): `base` stands for the issue cycle c. -/
def State.enterOp (s : State) (core id base : Nat) : State :=
  match s.op? core id with
  | none => s
  | some o =>
    let c := s.core core
    if o.entered || !o.translated || c.blocked id o || s.tokenHeld core o then s
    else
      let s := if s.writesShared core o then s.tokenAcquire core o.seat else s
      let c := s.core core
      match s.opCheck (s.ownerOf core) o with
      | some (cause, sub, addr) => s.failOp core id o cause sub addr
      | none =>
        let reqs := o.lineReqs (base + 1)
        let sorted := sortBy (fun r => lineKey r.leaf.tgt r.addr) reqs
        let host (r : LineReq) : Bool := r.leaf.tgt == 1
        let put (c : Core) (rs : List LineReq) : State :=
          (s.setCore core { c with ops := mmod c.ops id (fun o =>
            (rs.filter (fun r => r.hit)).foldl (fun o r => o.takeLine r r.bytes) { o with entered := true, lines := rs }) }).performScratch core id
        match o.kind with
        | .store =>
            let c := c.enterStores id base o
            let s := (s.setCore core { c with ops := mmod c.ops id (fun o => { o with entered := true }) }).performScratch core id
            s.scratchStored core id
        | .tst slots .. =>
            let c := (c.enterStores id base o).modSlots slots (fun x => { x with reading := x.reading - 1 })
            let c := c.settleSlots
            let s := (s.setCore core { c with ops := mmod c.ops id (fun o => { o with entered := true }) }).performScratch core id
            (s.tileRead core id).scratchStored core id
        | .systemStore =>
            let c := c.enterStores id base o
            s.setCore core { c with ops := mmod c.ops id (fun o => { o with entered := true }) }
        | .load _ nl1 _ =>
            let nohit := if nl1 || base != o.issued then 1 else 0
            let c := if nohit = 0 then c.useLines (fun _ => false) host reqs else c
            let (c, rs) := c.lookupLines id base nohit (fun _ => false) host (base + 6)
              (sorted.map (fun r => { r with fill := !nl1 && r.leaf.tgt != 2 })) []
            put c rs
        | .tqsteal =>
            if sorted.all (fun r => r.leaf.tgt != 2) then
              s.modOp core id (fun o => { o with entered := true, acc := o.acc.map (fun a => { a with res := leBytes 8 resNosteal.toNat }) })
            else
              let (c, rs) := c.lookupLines id base 1 (fun _ => false) host 0 (reqs.map (fun r => { r with fill := false })) []
              put c rs
        | .packet =>
            let (c, rs) := (c.useLines (fun _ => false) host reqs).lookupLines id base 0 (fun _ => false) host (base + 6) sorted []
            put c rs
        | .fetch line =>
            let again := match s.groupOf core o.seat o.uid with
              | some g => g.lines.any (fun l => l.line == line && l.again)
              | none => false
            let c := if again then c else c.useLines (fun _ => true) host reqs
            let (c, rs) := c.lookupLines id base (if again then 1 else 0) (fun _ => true) host (base + 3) sorted []
            put c rs
        | .pref l1 =>
            let rs := (sorted.filter (fun r => r.leaf.tgt = 0)).map (fun r => { r with fill := l1 })
            if rs.isEmpty then s.dropOp core id o
            else
              let (c, rs) := c.lookupLines id base 1 (fun _ => false) host 0 rs []
              put c rs
        | .atomic _ =>
            let c := sorted.foldl (fun c r => c.l1Lose r.addr (host r)) c
            let (c, rs) := c.lookupLines id base 1 (fun _ => false) host 0 (sorted.map (fun r => { r with fill := false })) []
            put c rs
        | .atf .. =>
            let c := sorted.foldl (fun c r => c.l1Lose r.addr (host r)) c
            let (c, rs) := c.lookupLines id base 1 (fun _ => false) host 0 (sorted.map (fun r => { r with fill := false })) []
            put c rs
        | .tqpop =>
            let (c, rs) := c.lookupLines id base 1 (fun _ => false) host 0 ((reqs.take 1).map (fun r => { r with fill := false })) []
            put c rs
        | _ =>
            let (c, rs) := c.lookupLines id base 1 (fun _ => false) host 0 (reqs.map (fun r => { r with fill := false })) []
            put c rs

/-- Starts a memory operation of a core at owner cycle `now`: its pages are looked up in the L1 TLB, and with every page at hand it enters at
once. -/
def State.startOp (s : State) (core now : Nat) (o : MemOp) : State :=
  let c := s.core core
  let id := c.nextOp
  let (c, ps) := c.lookupPages now (pagesOf o.acc)
  (s.setCore core (c.addOp { o with pages := ps })).enterOp core id now

/-- Pages that are answered by the end of cycle `now` become translated, and fill the L1 TLB; a failed walk ends the operation (R85, R250). -/
def State.advanceOp (s : State) (core id now : Nat) : State :=
  match s.op? core id with
  | none => s
  | some o =>
    let c := s.core core
    let due := o.pages.filterMap (fun p => match p.st with
      | .answer t l => if t ≤ now then some (p.vpn, l) else none
      | _ => none)
    let c := due.foldl (fun c d => c.tlbFill d.1 d.2) c
    let (c, ps) := c.lookupPages now o.pages
    let ps := ps.map (fun (p : Page) => match p.st with
      | .answer t l => if t ≤ now then { p with st := .done l } else p
      | _ => p)
    let s := s.setCore core { c with ops := mmod c.ops id (fun o => { o with pages := ps }) }
    match o.pages.find? (fun p => match p.st with | .failed t _ => decide (t ≤ now) | _ => false) with
    | some p =>
      let cause := match p.st with | .failed _ n => n | _ => 0x20
      let ga := ((o.acc.find? (fun a => a.va / Config.pageBytes = p.vpn)).map (fun a => a.ga)).getD 0
      s.failOp core id o cause 0 ga
    | none =>
      if o.entered then s else s.enterOp core id now

/-! ### Performing the lines of an operation -/

/-- Performs one access of an operation. -/
def State.performAccess (s : State) (k : Nat) (kind : OpKind) (rho : Option Nat) (l : Leaf) (pa : Nat) (a : Access) :
    State × Access × Option (Nat × Nat × Nat × DWord) :=
  let host := l.tgt == 1
  match kind with
  | .atomic op =>
    let (s, bad) := s.raceAt k l pa a.bytes .atomic rho
    if bad.isEmpty then
      let old := s.readAt host pa a.bytes
      let new := atomNew op a.bytes (leNat old) (leNat a.data) (leNat a.cmp)
      (s.writeAt host pa (leBytes a.bytes new), { a with res := old }, none)
    else (s, { a with bad := true }, accConflict a pa bad)
  | .atf _ _ =>
    let (s, bad) := s.raceAt k l pa a.bytes .atomic rho
    if bad.isEmpty then (s, { a with res := s.readAt host pa a.bytes }, none) else (s, { a with bad := true }, accConflict a pa bad)
  | _ =>
    let tracked : Bool := match kind with
      | .load _ _ ldi => !ldi
      | .tld .. => true
      | .packet => true
      | .probe use => use == .record
      | _ => false
    let s := if kind == .probe .command then s.recordAt k l pa a.bytes .read rho else s
    let (s, bad) := if tracked then s.raceAt k l pa a.bytes .read rho else (s, [])
    (s, { a with res := s.readAt host pa a.bytes, bad := !bad.isEmpty }, accConflict a pa bad)

/-- Performs the accesses of a list that lie in a line, in their order. -/
def State.performAccesses (s : State) (k : Nat) (o : MemOp) (r : LineReq) : List Access → State × List Access × Option (Nat × Nat × Nat × DWord)
  | [] => (s, [], none)
  | a :: as =>
    match if o.inLine r a then o.where_ a else none with
    | none =>
      let (s, as, x) := State.performAccesses s k o r as
      (s, a :: as, x)
    | some (l, pa) =>
      let (s, a, x) := s.performAccess k o.kind o.region l pa a
      let (s, as, y) := State.performAccesses s k o r as
      (s, a :: as, mergeConflict x y)

/-- Performs a drained line (R76, R278, R279): sector by sector; the conflict reported is that of the earliest store, then of its lowest lane. -/
def State.performDrain (s : State) (k : Nat) (l : Leaf) (line : Nat) (mask : MaskedLine) (rho : Option Nat) :
    State × Option (Nat × Nat × Nat × DWord × Nat) :=
  (List.range 4).foldl (fun acc sec =>
    let bs := mask.filter (fun b => b.off / 32 = sec)
    match sortBy (fun b => (b.op * 32 + b.lane) * 128 + b.off) bs with
    | [] => acc
    | first :: _ =>
      let (s, bad) := acc.1.raceAt k l (line + 32 * sec) 32 .write rho
      match bad with
      | [] => (bs.foldl (fun s b => s.writeAt (l.tgt == 1) (line + b.off) [b.val]) s, acc.2)
      | (_, sub, other) :: _ =>
        let key := first.op * 32 + first.lane
        let better := match acc.2 with
          | none => true
          | some (_, _, lane', _, op') => decide (key < op' * 32 + lane')
        (s, if better then some (sub, other, first.lane, first.ga, first.op) else acc.2)) (s, none)

/-- The generic address of byte `off` after the descriptor that an access names, and its place in the global window of its group at issue. -/
def MemOp.queueEntry (o : MemOp) (off : Nat) : Option (DWord × Nat) :=
  match o.acc.head? with
  | some a =>
    let ga := a.ga + BitVec.ofNat 64 off
    match windowOffset o.segs.1 ga, windowOffset o.segs.2.1 ga, windowOffset o.segs.2.2 ga with
    | none, none, some va => some (ga, va)
    | _, _, _ => none
  | none => none

/-- A `TQPOP` step at the descriptor's slice (R216, R217). An entry whose page is not translated sends the step back, to be performed afresh once it
is. An entry in a page that is not of device memory is an address fault, as its descriptor would be (DEDUCED, row 29 of notes/assumptions). -/
def State.performPop (s : State) (core id : Nat) (o : MemOp) (idx : Nat) (now : Nat) : State :=
  let k := s.ownerOf core
  match o.acc.head?.bind (fun a => (o.where_ a).map (fun w => (a, w))) with
  | none => s
  | some (a, l, pa) =>
    let fin (s : State) (d : DWord) (x : Option (Nat × Nat × Nat × DWord)) : State :=
      s.modOp core id (fun o => { o with
        acc := o.acc.map (fun b => { b with res := leBytes 8 d.toNat }), conflict := x,
        lines := setAt o.lines idx { (o.lines[idx]?).getD (LineReq.new 0 0 l 0) with performed := true } })
    let (s, bad) := s.raceAt k l pa 24 .atomic o.region
    if !bad.isEmpty then fin s resEmpty (accConflict a pa bad)
    else
      let db := s.mem.readN pa 24
      let d := QDesc.of db
      match d.popEntry with
      | none => fin s resEmpty none
      | some j =>
        match o.queueEntry (d.entryOff j) with
        | none => (s.delOp core id).opFatal core o 0x20 0 (a.ga + BitVec.ofNat 64 (d.entryOff j))
        | some (ga, va) =>
          match o.leafOf va with
          | none =>
            s.modOp core id (fun o => { o with
              entered := false, lines := [],
              acc := [a, { a with ga := ga, va := va, bytes := 32 }],
              pages := (o.pages.filter (fun p => p.vpn = a.va / Config.pageBytes)) ++
                [{ vpn := va / Config.pageBytes, lane := 0, va := va, st := .atTlb (now + 4) }] })
          | some le =>
            let ea := le.addr va
            if !le.w then (s.delOp core id).opFatal core o 0x21 1 ga
            else if le.tgt != 0 then (s.delOp core id).opFatal core o 0x20 0 ga
            else if !(s.owner k).leafColourOk le va then (s.delOp core id).opFatal core o 0x22 0 ga
            else
              let (s, bad) := s.raceAt k le ea 32 .atomic o.region
              if !bad.isEmpty then fin s resEmpty (accConflict { a with ga := ga } ea bad)
              else
                match takeEntry (s.mem.readN ea 32) stClaimed s.mgmt.device.toNat o.lgid with
                | none => fin s resBadent none
                | some (t, e) => fin ((s.writeAt false ea e).writeAt false pa (popDesc db)) t none

/-- A `TQDONE` step at the entry's slice (R218). -/
def State.performDone (s : State) (core id : Nat) (o : MemOp) (idx : Nat) : State :=
  let k := s.ownerOf core
  match o.acc.head?.bind (fun a => (o.where_ a).map (fun w => (a, w))) with
  | none => s
  | some (a, l, pa) =>
    let (s, bad) := s.raceAt k l pa 32 .atomic o.region
    let host := l.tgt == 1
    let (d, e) := doneEntry (s.readAt host pa 32) s.mgmt.device.toNat (o.lgid % 2 ^ 32)
    let s := if bad.isEmpty then s.writeAt host pa e else s
    s.modOp core id (fun o => { o with
      acc := o.acc.map (fun b => { b with res := leBytes 4 d.toNat }), conflict := accConflict a pa bad,
      lines := setAt o.lines idx { (o.lines[idx]?).getD (LineReq.new 0 0 l 0) with performed := true } })

/-- Performs line `idx` of an operation at its place of performance (R78, R247, R249). -/
def State.performLine (s : State) (core id idx now : Nat) : State :=
  match s.op? core id with
  | none => s
  | some o =>
    match o.lines[idx]? with
    | none => s
    | some r =>
      if r.performed then s
      else
        let k := s.ownerOf core
        match o.kind with
        | .drain mask ops region =>
          let (s, x) := s.performDrain k r.leaf r.addr mask region
          let s := s.modOp core id (fun o => { o with
            conflict := x.map (fun y => (y.1, y.2.1, y.2.2.1, y.2.2.2.1)),
            size := (x.map (fun y => y.2.2.2.2)).getD 0,
            lines := setAt o.lines idx { r with performed := true } })
          ops.foldl (fun s st =>
            if (s.core core).storeOpen st true then s
            else match s.op? core st with
              | some so => ((s.regionOpen core so.region false).modOp core st (fun o => { o with region := none })).retireOp core st
              | none => s) s
        | .tqpop => s.performPop core id o idx now
        | .tqdone => s.performDone core id o idx
        | _ =>
          let (s, acc, x) := s.performAccesses k o r o.acc
          let bytes := s.readAt (r.leaf.tgt == 1) r.addr 128
          let s := s.modOp core id (fun o => { o with
            acc := acc, conflict := mergeConflict o.conflict x,
            lines := setAt o.lines idx { r with performed := true, bytes := bytes } })
          match o.kind with
          | .atomic _ =>
            if (setAt o.lines idx { r with performed := true }).all (fun r => r.performed) then (s.regionOpen core o.region false).retireOp core id else s
          | _ => s

/-! ### Answers -/

/-- A load's register value (R198). -/
def loadValue (sx : Bool) (bs : List Byte) : List Byte :=
  if bs.length < 4 then
    let v := leNat bs
    let n := 8 * bs.length
    leBytes 4 (if sx && decide (2 ^ (n - 1) ≤ v) then 2 ^ 32 - 2 ^ n + v else v)
  else bs

/-- Writes the results of a load or a returning atomic (R177, R196, R279): lanes that met no conflict. -/
def Group.writeAnswer (g : Group) (o : MemOp) (dst : RegId) : Group :=
  let sx := match o.kind with | .load sx _ _ => sx | _ => false
  match o.bcast with
  | [] => ((o.acc ++ o.scr).filter (fun a => !a.bad)).foldl (fun g a => g.writeRegBytes dst a.lane (loadValue sx a.res)) g
  | ls =>
    match o.acc ++ o.scr with
    | a :: _ => if a.bad then g else ls.foldl (fun g l => g.writeRegBytes dst l (loadValue sx a.res)) g
    | [] => g

/-- Every line of an operation has been answered, and its latency has passed. -/
def MemOp.answered (o : MemOp) (now : Nat) : Bool :=
  o.entered && decide (o.notBefore ≤ now) && o.lines.all (fun r => r.st == .done)

/-- Finishes an operation whose every answer has reached the core (R247, R249, R262, R279, R287). -/
def State.finishOp (s : State) (core id : Nat) : State :=
  match s.op? core id with
  | none => s
  | some o =>
    let held (s : State) (order : Nat) : State :=
      match o.conflict with
      | some x => s.modGroupOf core o.seat o.uid (fun g => g.holdMmx { issued := o.issued, order := order, raised := s.now core, copy := false, info := mmxInfo x })
      | none => s
    let clear (s : State) : State :=
      if o.conflict.isSome then s else s.modGroupOf core o.seat o.uid (fun g => g.settleOp id (s.now core))
    match o.failed with
    | some (cause, addr) =>
      (s.delOp core id).opFatal core o cause 0 addr
    | none =>
      match o.kind with
      | .load .. =>
        let s := if o.conflict.isSome then s else
          match o.dst with
          | some d => s.modGroupOf core o.seat o.uid (fun g => g.writeAnswer o d)
          | none => s
        ((clear (held (s.delOp core id) id)).retiredOp core o)
      | .atomic _ =>
        let s := match o.dst with
          | some d => s.modGroupOf core o.seat o.uid (fun g => g.writeAnswer o d)
          | none => s
        let s := match o.acq with
          | some sc => s.modCore core (fun c => c.acquire sc)
          | none => s
        ((clear (held (s.delOp core id) id)).retiredOp core o)
      | .drain _ ops _ =>
        let s := s.delOp core id
        let s := match o.conflict with
          | some x =>
            let st := (mget (s.core core).ops o.size).getD o
            s.modGroupOf core st.seat st.uid (fun g => g.holdMmx { issued := st.issued, order := o.size, raised := s.now core, copy := false, info := mmxInfo x })
          | none => s
        s.ackStores core ops
      | .remoteDrain _ ops => (s.delOp core id).ackStores core ops
      | .probe _ =>
        let s := s.modGroupOf core o.seat o.uid (fun g => if g.wait == some (.op id) then { g with wait := none, wake := s.now core + 1 } else g)
        if o.conflict.isSome then held (s.delOp core id) id else s
      | _ => s

/-! ### The wait of `SYSF` (R185) -/

/-- The fabric time for which `SYSF` waits after its issue, and after an answer to one of the accesses that it waits for (R185). -/
def sysfLimit : Nat := 2000000

/-- The threads whose `SYSF` waits for a request: those of a remote store or atomic (R185). -/
def State.sysfTids (s : State) (core op idx : Nat) : List Nat :=
  match s.op? core op with
  | none => []
  | some o =>
    let store := match o.kind with | .remoteDrain .. => true | _ => o.isAtomicOp
    if store && ((o.lines[idx]?).map (fun r => r.leaf.tgt == 2)).getD false then o.tids else []

/-- A response or a keep-waiting notice for an access of some threads has come: a `SYSF` of theirs goes on waiting (R185). -/
def Core.extendLimits (c : Core) (tids : List Nat) (t : Nat) : Core :=
  c.groups.foldl (fun c p => match p.2.wait with
    | some (.fence rel upTo scope acq dst (some _)) =>
      if meets tids p.2.tids then c.setGroup p.1 { p.2 with wait := some (.fence rel upTo scope acq dst (some (t + sysfLimit))) } else c
    | _ => c) c

end Sys2Proof.Machine
end

