-- ==== Sys2Proof/Machine/Res.lean ====
section
/-! DEFINITION. Resources of a core that groups hold: tile slots and handles (R67 to R70), accumulator origins (R40, R73), registers, and the requests
that wait for them (R42, R67). -/

namespace Sys2Proof.Machine

/-! ### Handles -/

/-- A handle of a group; one that was never allocated has no slots. -/
def Group.handle (g : Group) (n : Nat) : HandleReg := (mget g.handles n).getD { live := false, slots := [], gen := 0 }

/-- Releases a handle, as by `HFREE` (R68). -/
def Core.releaseHandle (c : Core) (seat n : Nat) : Core :=
  match c.group? seat with
  | none => c
  | some g =>
    let h := g.handle n
    if h.live then
      h.slots.foldl Core.letGo (c.setGroup seat { g with handles := mset g.handles n { h with live := false } })
    else c

/-- Releases the handles of a group from number `n` on. -/
def Core.releaseFrom (c : Core) (seat n : Nat) : Core :=
  (List.range 16).foldl (fun c j => if n ≤ j then c.releaseHandle seat j else c) c

/-- Takes `n` free slots for a use, lowest first: their generations rise by 1 and their contents are undefined (R67, R68). -/
def State.takeSlots (s : State) (core n : Nat) (use : SlotUse) : List Nat × State :=
  let ns := (s.core core).freeSlots.take n
  (ns, ns.foldl (fun s k =>
    { s.modCore core (fun c => c.modSlot k (fun x => { use := use, error := false, gen := x.gen + 1, base := s.free, words := [], pending := 0, reading := 0 })) with
      free := s.free + 2561 }) s)

/-- No write to the slots is pending; and no command in flight reads them (R46). -/
def Core.noWrite (c : Core) (ns : List Nat) : Bool := ns.all (fun n => (c.slot n).pending == 0)
def Core.noUse (c : Core) (ns : List Nat) : Bool := ns.all (fun n => (c.slot n).idle)

/-! ### Origins -/

def Origin.blank : Origin := { holder := none, cells := [], pending := 0, reading := 0, draining := false }

def Quad.origin (q : Quad) (n : Nat) : Origin := (mget q.origins n).getD .blank

def Quad.modOrigin (q : Quad) (n : Nat) (f : Origin → Origin) : Quad := { q with origins := mset q.origins n (f (q.origin n)) }

/-- Free physical origins, ascending. -/
def Quad.freeOrigins (q : Quad) : List Nat := [0, 1].filter (fun n => (q.origin n).holder.isNone && !(q.origin n).draining)

/-- An origin is given up; it is free once every command that names it has drained (R40). -/
def Quad.dropOrigin (q : Quad) (n : Nat) : Quad :=
  q.modOrigin n (fun x => { x with holder := none, draining := !(x.pending == 0 && x.reading == 0) })

/-- Origins whose commands have drained become free. -/
def Quad.settleOrigins (q : Quad) : Quad :=
  { q with origins := q.origins.map (fun p =>
      (p.1, if p.2.draining && p.2.pending == 0 && p.2.reading == 0 then { p.2 with draining := false } else p.2)) }

/-- The physical origin of a0 or a1. -/
def Group.origin? (g : Group) (n : Nat) : Option Nat := g.origins[n]?

/-- An accumulator cell (R73). -/
def Origin.cell (o : Origin) (row col : Nat) : Word := sget 0 o.cells (128 * row + col)

/-! ### Registers and waiting requests (R40, R42, R67) -/

/-- Registers per lane position that seated groups hold. -/
def Core.usedRegs (c : Core) : Nat := (c.groups.map (fun p => p.2.allot)).foldl (· + ·) 0

/-- Registers, origins and slots that are free and not reserved by a granted request. -/
def Core.freeRegs (c : Core) : Nat :=
  Config.regsPerLane - c.usedRegs - ((c.demands.filter (fun d => d.granted)).map (fun d => d.regs)).foldl (· + ·) 0

def Core.openOrigins (c : Core) (quad : Nat) : Nat :=
  (c.quad quad).freeOrigins.length
    - ((c.demands.filter (fun d => d.granted && quadOf d.seat == quad)).map (fun d => d.orgs)).foldl (· + ·) 0

/-- Slots that `HALLOC` frees first when its handle is live. -/
def Core.ownSlots (c : Core) (g : Group) (n : Nat) : Nat :=
  if (g.handle n).live then ((g.handle n).slots.filter (fun k => (c.slot k).idle)).length else 0

/-- Slots that a request lacks: those beyond what its own handle frees as it stands now (R67). -/
def Core.lacks (c : Core) (d : Demand) : Nat := d.slots - ((c.group? d.seat).map (fun g => c.ownSlots g d.handle)).getD 0

def Core.openSlots (c : Core) : Nat :=
  c.freeSlots.length - ((c.demands.filter (fun d => d.granted)).map c.lacks).foldl (· + ·) 0

/-- The request of a seat. -/
def Core.demand? (c : Core) (seat : Nat) : Option Demand := c.demands.find? (fun d => d.seat = seat)

def Core.dropDemand (c : Core) (seat : Nat) : Core := { c with demands := c.demands.filter (fun d => d.seat != seat) }

/-- A rise of registers and origins can be granted now: it has been, or no request of the core waits and the core has what it needs (R42, R57). -/
def Core.canRise (c : Core) (seat regs orgs : Nat) : Bool :=
  match c.demand? seat with
  | some d => d.granted && d.slots == 0
  | none => decide (regs ≤ c.freeRegs ∧ orgs ≤ c.openOrigins (quadOf seat)) && !c.demands.any (fun d => !d.granted && d.slots == 0)

/-- `HALLOC` of `n` slots to handle `h` can be performed now (R67): it has been granted, its handle's own slots are enough, or no `HALLOC` waits and
enough slots are free. -/
def Core.canAlloc (c : Core) (g : Group) (seat h n : Nat) : Bool :=
  decide (n ≤ c.ownSlots g h) ||
    match c.demand? seat with
    | some d => d.granted
    | none => decide (n ≤ c.openSlots + c.ownSlots g h) && !c.demands.any (fun d => !d.granted && decide (0 < d.slots))

/-- Registers a request that waits. -/
def Core.ask (c : Core) (d : Demand) : Core := if (c.demand? d.seat).isSome then c else { c with demands := c.demands ++ [d] }

/-- The pending demand of a core (R42): registers that waiting requests lack. -/
def Core.pendingDemand (c : Core) : Nat := ((c.demands.filter (fun d => !d.granted)).map (fun d => d.regs)).foldl (· + ·) 0

/-- Origins of a quadrant taken for a group, lowest first: their cells read as zero (R40, R73). -/
def State.takeOrigins (s : State) (core seat n : Nat) : State :=
  let q := quadOf seat
  let ns := ((s.core core).quad q).freeOrigins.take n
  let s := s.modQuad core q (fun x => ns.foldl (fun x k => x.modOrigin k (fun _ => { Origin.blank with holder := some seat })) x)
  s.modGroup core seat (fun g => { g with origins := g.origins ++ ns })

/-- SETTING AN ALLOTMENT (R40): what falls falls at once, what rises has been granted. -/
def State.setAllotment (s : State) (core seat regs hnd orgs : Nat) : State :=
  match s.group? core seat with
  | none => s
  | some g =>
    let s := s.modCore core (fun c => ((c.dropDemand seat).releaseFrom seat hnd).modQuad (quadOf seat)
      (fun q => (g.origins.drop orgs).foldl Quad.dropOrigin q))
    let s := s.modGroup core seat (fun g => { g with
      allot := regs, hperm := hnd, origins := g.origins.take orgs, vregs := (g.cutRegs regs).vregs })
    s.takeOrigins core seat (orgs - g.origins.length)

/-- The figures of an `ACQ` that fall, while another waits to rise (R40). -/
def State.fallTo (s : State) (core seat regs hnd orgs : Nat) : State :=
  match s.group? core seat with
  | none => s
  | some g =>
    if g.allot ≤ regs ∧ g.hperm ≤ hnd ∧ g.origins.length ≤ orgs then s
    else
      let d := (s.core core).demand? seat
      let s := s.setAllotment core seat (min regs g.allot) (min hnd g.hperm) (min orgs g.origins.length)
      s.modCore core (fun c => match d with | some d => { c with demands := c.demands ++ [d] } | none => c)

/-! ### Regions (R276) -/

def State.regionFree (s : State) (core : Nat) : Bool := (s.owner (s.ownerOf core)).freeRegion.isSome

end Sys2Proof.Machine
end

