-- ==== Sys2Proof/Machine/Issue.lean ====
section
/-! DEFINITION. Issuing an instruction: its context, the checks of R130 that follow decoding, readiness (R44, R46, R58), the effects of
issuing (R45, R129, R245, R287), and what a failed check raises. -/

namespace Sys2Proof.Machine

/-- What stops an instruction (R133): a precise trap with its resume PC, or a fatal fault. -/
inductive Trouble where
  | trap (t : TrapInfo) (resume : Nat)
  | fatal (cause sub : Nat) (addr : DWord)
deriving DecidableEq, Repr

/-- The effect of an instruction on the state after issue. -/
abbrev Effect := Except Trouble State

/-- What an instruction that issues again reads: the registers and latches as they stood when it first came to issue (R123, R133, R180). -/
def Ctx.recall (c : Ctx) : Ctx :=
  match c.g.reads with
  | some h =>
    if h.pc = c.pc then { c with g := { c.g with vregs := h.vregs, sregs := h.sregs, marks := [] }, q := { c.q with latches := h.latches } } else c
  | none => c

/-- What the context has read, for an instruction that issues again. -/
def Ctx.reads (c : Ctx) : Reads := { pc := c.pc, vregs := c.g.vregs, sregs := c.g.sregs, latches := c.q.latches }

/-- The context of what issues; none when no group does. -/
def State.ctx? (s : State) (u : Issuing) : Option Ctx :=
  let base := match u.snap with | some p => p.1 | none => s.core u.core
  match base.group? u.seat with
  | none => none
  | some g =>
    some (Ctx.recall { core := u.core, quad := u.quad, seat := u.seat, g := g, q := base.quad u.quad, owner := s.ownerOf u.core, now := s.now u.core,
                       pc := if u.snap.isSome then nextPc g.pc else g.pc, first := g.pc })

/-- Fatal faults by name (R326). -/
def fatalAddress (a : DWord) : Trouble := .fatal 0x20 0 a
def fatalPermission (sub : Nat) : Trouble := .fatal 0x21 sub 0
def Ctx.fatalIllegal (c : Ctx) : Trouble := .fatal 0x23 0 (BitVec.ofNat 64 c.pc)
def fatalTarget (pc : Nat) : Trouble := .fatal 0x24 0 (BitVec.ofNat 64 pc)
def fatalSolve : Trouble := .fatal 0x2E 0 0

/-! ### Checks (R130) -/

/-- The group's grid runs privileged, and under DET. -/
def State.priv (s : State) (core : Nat) : Bool := ((s.gridOf core).map (fun g => g.packet.priv)).getD false

/-- A lane register of the operand lies at or above the allotment (R41). -/
def overAllot (allot : Nat) (o : Opd) (k : Fk) : Bool :=
  match o, k with
  | _, .zero => false
  | .v r, k => decide (allot < r.toNat + k.words)
  | _, _ => false

/-- The origin that an instruction names (R222). -/
def orgOf : Instr → Option Nat
  | .mma f => some f.org.toNat
  | .mmas f => some f.org.toNat
  | .mmab f => some f.org.toNat
  | .mma64 f => some f.org.toNat
  | .mmai f => some f.org.toNat
  | .acz f => some f.org.toNat
  | .acst f => some f.org.toNat
  | .acth f => some f.org.toNat
  | .acrd f => some f.org.toNat
  | .acwr f => some f.org.toNat
  | _ => none

/-- Permission (R41): registers, live counts, the handle that an allocation names, the origin. -/
def permitted (i : Instr) (r : Row) (g : Group) : Bool :=
  let above := overAllot g.allot r.dst r.dk && !r.hdr.nwb || r.src.any (fun p => overAllot g.allot p.1 p.2)
    || (match r.hdr.guard with | some x => overAllot g.allot x.reg (.reg 1) | none => false)
  let live := match i with
    | .brd f => decide (f.live.toNat ≤ g.allot)
    | .calli f => decide (f.live.toNat ≤ g.allot)
    | .reform f => decide (f.live.toNat ≤ g.allot)
    | .halloc f => decide (hnum f.dst < g.hperm)
    | .htake f => decide (hnum f.dst < g.hperm)
    | i => match orgOf i with
      | some n => (g.origin? n).isSome
      | none => true
  !above && live

/-- The handles that an instruction names, in the order SRCA, SRCB, SRCC, DST; the destination of an allocation apart (R70). -/
def handlesOf (i : Instr) (r : Row) : List Nat :=
  let hs := (r.src.filterMap (fun p => match p.1, p.2 with
    | .h _, .zero => none
    | .h n, _ => some n.toNat
    | _, _ => none))
  match i with
  | .halloc _ => hs
  | .htake _ => hs
  | _ => match r.dst, r.dk with
    | .h n, .h => hs ++ [n.toNat]
    | _, _ => hs

/-- The slot counts that a handle must have for its element type (R71, R160, R161, R224, R227). -/
def countNeed (g : Group) : Instr → List (Opd × List Nat)
  | .tld f => [(f.dst, slotCounts f.fmta.toNat)]
  | .tst f => [(f.c, slotCounts f.fmta.toNat)]
  | .mma f => [(f.a, slotCounts f.fmta.toNat), (f.b, slotCounts f.fmtb.toNat)]
  | .mmai f => [(f.a, [2]), (f.b, [2])]
  | .mma64 f => [(f.a, [1, 2, 3, 4]), (f.b, [(g.handle (hnum f.a)).slots.length])]
  | .mmab f => (f.a, slotCounts f.fmta.toNat) :: (match f.b with | .h n => [(.h n, slotCounts f.fmtb.toNat)] | _ => [])
  | .mmas f => [(f.a, slotCounts f.fmta.toNat), (f.b, slotCounts f.fmtb.toNat), (f.c, slotCounts f.fmtb.toNat), (f.dst, [1])]
  | .cvtb f => [(f.a, slotCounts (cvtSty f)), (f.dst, slotCounts (cvtDty f))]
  | .bscl f => [(f.a, [4]), (f.b, [4]), (f.dst, slotCounts (cvtDty f))]
  | .acst f => [(f.dst, slotCounts f.fmta.toNat)]
  | .acth f => [(f.dst, slotCounts f.fmta.toNat)]
  | _ => []

/-- The trap HANDLE-DEAD (R70, R71): `mark` is 0xF0 for a wrong slot count. -/
def handleDead (g : Group) (n mark resume : Nat) : Trouble :=
  .trap (.active 3 0 (BitVec.ofNat 64 (n + mark + 256 * (g.handle n).gen.toNat)) g) resume

/-- The first handle that is dead, and the first whose slot count is wrong. -/
def handleTrouble (i : Instr) (r : Row) (g : Group) (resume : Nat) : Option Trouble :=
  match (handlesOf i r).find? (fun n => !(g.handle n).live) with
  | some n => some (handleDead g n 0 resume)
  | none =>
    match (countNeed g i).find? (fun p => !p.2.contains (g.handle (hnum p.1)).slots.length) with
    | some p => some (handleDead g (hnum p.1) 0xF0 resume)
    | none => none

/-- The first empty latch that a source names (R45). -/
def emptyLatch (r : Row) (q : Quad) : Option Nat :=
  (r.src.filterMap (fun p => match p.1, p.2 with
    | .b _, .zero => none
    | .b n, _ => some n.toNat
    | _, _ => none)).find? (fun n => (mget q.latches n).isNone)

/-- OFS and the width of the destination keep to R232. -/
def acstFits (f : FmtX) (n : Nat) : Bool :=
  let fa := f.fmta.toNat
  let fb := f.fmtb.toNat
  let ofs := (f.xmod.extractLsb' 2 7).toNat
  if fa < 14 then true else decide (ofs + lineElems fa n ≤ if fb = 15 then 64 else 128)

/-- What an accumulator read names is not what R232 allows, for the slot count of its live destination. -/
def acstIllegal (g : Group) (i : Instr) : Bool :=
  let bad (f : FmtX) : Bool := (g.handle (hnum f.dst)).live && !acstFits f (g.handle (hnum f.dst)).slots.length
  match i with
  | .acst f => bad f
  | .acth f => bad f
  | _ => false

/-- The checks of R130 from the types on, in order; what the words alone show has been checked as they were decoded. -/
def precheck (i : Instr) (c : Ctx) : Option Trouble :=
  match row? i with
  | none => none
  | some r =>
    if acstIllegal c.g i then some (.fatal 0x23 0 (BitVec.ofNat 64 c.pc))
    else if !permitted i r c.g then some (fatalPermission 0)
    else if r.full && decide (c.g.lanes.length < 32) then some (.trap (.active 5 0 (BitVec.ofNat 64 c.pc) c.g) c.first)
    else
      match handleTrouble i r c.g c.first with
      | some t => some t
      | none =>
        match emptyLatch r c.q with
        | some n => some (.trap (.active 4 n (BitVec.ofNat 64 c.pc) c.g) c.first)
        | none => none

/-! ### Addresses of an access (R133, R196, R198) -/

/-- The accessing lanes with their generic addresses; `idx` for the indexed forms. -/
def Ctx.addrs (c : Ctx) (f : FmtM) (idx : Bool) : List (Nat × DWord) :=
  let off := f.off.signExtend 64
  let a (l : Nat) : DWord := c.read 2 f.addr l + (if idx then (c.read32 f.c l).zeroExtend 64 else 0) + off
  if isS (if idx then f.c else f.addr) then [(c.lane0, a c.lane0)] else (c.effLanes f.hdr.guard).map (fun l => (l, a l))

/-- The format M fields of a memory access that may touch the scratchpad, and whether its form is indexed. -/
def accessOf : Instr → Option (FmtM × Bool)
  | .ld f => some (f, false)
  | .st f => some (f, false)
  | .ldg f => some (f, true)
  | .stg f => some (f, true)
  | .ldi f => some (f, false)
  | .atomAdd f => some (f, false)
  | .atomMinSigned f => some (f, false)
  | .atomMinUnsigned f => some (f, false)
  | .atomMaxSigned f => some (f, false)
  | .atomMaxUnsigned f => some (f, false)
  | .atomAnd f => some (f, false)
  | .atomOr f => some (f, false)
  | .atomXor f => some (f, false)
  | .atomExch f => some (f, false)
  | .atomFadd f => some (f, false)
  | .atomFmin f => some (f, false)
  | .atomFmax f => some (f, false)
  | .atcas f => some (f, false)
  | .atf f => some (f, false)
  | _ => none

def isAtomic : Instr → Bool
  | .atomAdd _ => true | .atomMinSigned _ => true | .atomMinUnsigned _ => true | .atomMaxSigned _ => true | .atomMaxUnsigned _ => true
  | .atomAnd _ => true | .atomOr _ => true | .atomXor _ => true | .atomExch _ => true | .atomFadd _ => true | .atomFmin _ => true
  | .atomFmax _ => true | .atcas _ => true
  | _ => false

def isStore : Instr → Bool
  | .st _ => true
  | .stg _ => true
  | _ => false

def isLoad : Instr → Bool
  | .ld _ => true
  | .ldg _ => true
  | .ldi _ => true
  | _ => false

def isAtf : Instr → Bool
  | .atf _ => true
  | _ => false

/-- Scratchpad lines that lane addresses touch. -/
def State.scratchLines (s : State) (c : Ctx) (as : List (Nat × DWord)) : List Nat :=
  as.filterMap (fun p => match s.place c p.1 p.2 with
    | some (.scratch o) => some (o / 128)
    | _ => none)

/-- A copy has still to write a scratchpad line (R66). -/
def Core.copyOwes (c : Core) (line : Nat) : Bool := c.quads.any (fun q => q.2.copies.any (fun x => x.lines.any (fun p => p.1 == line)))

/-- Virtual addresses outside the scratchpad, with their lines. -/
def State.memAddrs (s : State) (c : Ctx) (as : List (Nat × DWord)) : List Nat :=
  as.filterMap (fun p => match s.place c p.1 p.2 with
    | some (.mem va _) => some va
    | _ => none)

def dedup (xs : List Nat) : List Nat := xs.foldl (fun acc x => if acc.contains x then acc else acc ++ [x]) []

/-- Miss slots in use (R79, R247): requests that have been injected and not yet answered. -/
def Core.missUsed (c : Core) : Nat :=
  (c.ops.map (fun p => if p.2.kind.missSlot then (p.2.lines.filter (fun r => !r.hit && (match r.st with
    | .queued _ => false
    | .done => false
    | _ => true))).length else 0)).foldl (· + ·) 0

/-- Lane addresses outside the scratchpad, by line and by whether the stack window holds them. -/
def State.memLines (s : State) (c : Ctx) (as : List (Nat × DWord)) : List (Nat × Bool) :=
  as.filterMap (fun p => match s.place c p.1 p.2 with
    | some (.mem va st) => some (va / 128, st)
    | _ => none)

/-- Lines of an access that miss the L1, those of different windows apart; a line whose translation is not at the core counts (R79). -/
def Core.missCount (c : Core) (nl1 : Bool) (ls : List (Nat × Bool)) : Nat :=
  (ls.foldl (fun (acc : List (Nat × Bool)) p => if acc.contains p then acc else acc ++ [p]) []).foldl (fun n p =>
    let va := 128 * p.1
    match tlbFind c.tlb (va / Config.pageBytes) with
    | some l => if !nl1 && (c.l1Hit (LineReq.new (l.addr va) va l 0) (l.tgt == 1) false).isSome then n else n + 1
    | none => n + 1) 0

/-! ### Page tables as they stand (R84, R284) -/

/-- Walks the owner's tables in memory, level by level, with no time taken; an entry outside the owner's bank set is not read: it is a colour violation (R30). -/
def State.walkNow (s : State) (owner va : Nat) : Nat → Nat → Nat → PteKind
  | _, _, 0 => .malformed
  | table, level, fuel + 1 =>
    let e := table + 8 * levelIndex va level
    if !(s.owner owner).colourOk e then .foreign
    else
      match pteKind level (s.mem.readLe e 8) with
      | .table pa => s.walkNow owner va pa (level + 1) fuel
      | .leaf l => .leaf (l.under (s.owner owner).record.pasid)
      | x => x

/-- What the owner's tables hold for a virtual address now. -/
def State.peek (s : State) (owner va : Nat) : PteKind := s.walkNow owner va (s.owner owner).record.l1table 1 3

/-- A page is SHARED. -/
def State.shared (s : State) (owner va : Nat) : Bool :=
  match s.peek owner va with
  | .leaf l => l.shrd
  | _ => false

/-! ### The commit token (R282 to R285) -/

/-- Bytes of a line of a tile in memory, and of its scale image (R210). -/
def tileLine (type n : Nat) : Nat := 4 * lineUsed type n
def tileImage (type : Nat) : Nat := if 8 ≤ type ∧ type ≤ 12 then 512 else if type = 13 then 2052 else 0

/-- Cuts `n` bytes at `a` where lines of 128 bytes end, into at most `fuel` pieces: offset and length. -/
def cutLines : Nat → Nat → Nat → List (Nat × Nat)
  | 0, _, _ => []
  | k + 1, a, n => if n = 0 then [] else (a, min n (128 - a % 128)) :: cutLines k (a + min n (128 - a % 128)) (n - min n (128 - a % 128))

/-- The pieces of a tile in memory, in the order of its bytes, with their lengths (R210): lines, then the scale image. -/
def tilePieces (base : DWord) (stride type n : Nat) (scl : Bool) : List (DWord × Nat) :=
  let o := base.toNat % 128
  let at_ (p : Nat × Nat) : DWord × Nat := (base - BitVec.ofNat 64 o + BitVec.ofNat 64 p.1, p.2)
  (List.range 128).flatMap (fun i => (cutLines 8 (o + i * stride) (tileLine type n)).map at_)
    ++ (if scl then (cutLines 20 (o + 128 * stride) (tileImage type)).map at_ else [])

/-- The pieces that a `TLD` or a `TST` of the issuing group names. -/
def Ctx.tileAddrs (c : Ctx) (f : FmtX) (h : Opd) : List (DWord × Nat) :=
  tilePieces (c.sval 2 f.a) (c.sval32 f.b).toNat f.fmta.toNat (c.g.handle (hnum h)).slots.length (f.scs == 1)

/-- The instruction is gated by the token (R284). -/
def State.gated (s : State) (i : Instr) (c : Ctx) : Bool :=
  match i with
  | .tqsteal _ => true
  | .tst f => (s.memAddrs c ((c.tileAddrs f f.c).map (fun p => (c.lane0, p.1)))).any (fun va => s.shared c.owner va)
  | i =>
    if isStore i || isAtomic i then
      match accessOf i with
      | some (f, idx) => (s.memAddrs c (c.addrs f idx)).any (fun va => s.shared c.owner va)
      | none => false
    else false

/-! ### Releases (R173, R182, R187, R188, R200, R218, R221, R262, R285) -/

/-- Scope of a barrier's ordering; none for `.rlx` (R173). -/
def barScope (smod : BitVec 15) : Option Nat :=
  match (smod.extractLsb' 5 2).toNat with
  | 0 => some (if smod.getLsbD 4 then 2 else 1)
  | 1 => some 3
  | 2 => some 4
  | _ => none

/-- Orderings of an atomic (R176). -/
def semRel (f : FmtM) : Bool := f.sem.getLsbD 1
def semAcq (f : FmtM) : Bool := f.sem.getLsbD 0

def atomScope (f : FmtM) : Nat := (f.hint.extractLsb' 0 3).toNat

/-- The instruction passes the token before it waits, when its group holds it (R283). -/
def passes : Instr → Bool
  | .tokp _ => true
  | .barw _ => true
  | .barv _ => true
  | .reform _ => true
  | .solb _ => true
  | .sole _ => true
  | .solx _ => true
  | _ => false

/-- Threads that exit with an `EXIT` under DET, the thread at the key among them: the token is passed (R283). -/
def State.exitPasses (s : State) (c : Ctx) (gd : Option Grd) : Bool :=
  s.det c.core && s.holdsToken c.core c.g
    && (c.effLanes gd).any (fun l => (s.gridOf c.core).bind (fun g => g.key) ==
        (s.core c.core).team.map (fun t => 1024 * t.teamId + c.g.tid l))

/-- The scope of the release that an instruction waits for before it issues. -/
def State.releaseScope (s : State) (i : Instr) (c : Ctx) : Option Nat :=
  let own := match i with
    | .barr f => barScope f.smod
    | .barw f => barScope f.smod
    | .bara f => barScope f.smod
    | .signal _ => some 3
    | .launch _ => some 3
    | .tqdone _ => some 4
    | .coll _ => some 3
    | .spset _ => some 1
    | .tst f =>
      if (s.scratchLines c ((c.tileAddrs f f.c).map (fun p => (c.lane0, p.1)))).any (fun l => (s.core c.core).seenEmpty.contains l) then some 1
      else none
    | i =>
      match accessOf i with
      | some (f, idx) =>
        if isAtomic i then (if semRel f then some (atomScope f) else none)
        else if isStore i then
          (if (s.scratchLines c (c.addrs f idx)).any (fun l => (s.core c.core).seenEmpty.contains l) then some 1 else none)
        else none
      | none => none
  if s.det c.core && passes i && s.holdsToken c.core c.g then some (max 3 (own.getD 0)) else own

/-- The widest scope of what an instruction orders as it issues: a release, a fence, a barrier arrival, or a pass of the token. The core's write-combining
buffers drain for it (R76, R77, R173, R182 to R185, R285). -/
def State.drainScope (s : State) (i : Instr) (c : Ctx) : Option Nat :=
  let own := match i with
    | .barr f => some ((barScope f.smod).getD 1)
    | .barw f => some ((barScope f.smod).getD 1)
    | .bara f => some ((barScope f.smod).getD 1)
    | .fence f => some (f.smod.extractLsb' 0 3).toNat
    | .afence f => some (f.smod.extractLsb' 0 3).toNat
    | .sysf _ => some 4
    | .xfence f => some (if f.smod.extractLsb' 0 3 == 0 then 4 else (f.smod.extractLsb' 6 3).toNat)
    | .exit f => if s.exitPasses c f.hdr.guard then some 3 else none
    | _ => none
  match own, s.releaseScope i c with
  | some a, some b => some (max a b)
  | some a, none => some a
  | none, b => b

/-- The drains that an instruction starts when it comes to wait for its release, or issues (R76, R77). -/
def State.startDrains (s : State) (i : Instr) (c : Ctx) : State :=
  match s.drainScope i c with
  | some sc => s.modCore c.core (fun co => co.releaseDrain sc c.now)
  | none => s

/-- `TOKW`. -/
def isTokw : Instr → Bool
  | .tokw _ => true
  | _ => false

/-- Before its first gated instruction, or as its `TOKW` completes, a group that has come to hold the token acquires at device scope (R285). -/
def State.gateAcquire (s : State) (i : Instr) (c : Ctx) : State :=
  if s.det c.core && (isTokw i || s.gated i c) then s.tokenAcquire c.core c.seat else s

/-- What an instruction orders before its effect: the acquire of a token that its group has come to hold, and its drains. -/
def State.ordered (s : State) (i : Instr) (c : Ctx) : State := (s.gateAcquire i c).startDrains i c

/-- The instruction ends a region when it is performed (R275). -/
def endsRegion (i : Instr) : Bool :=
  match i with
  | .barr f => (barScope f.smod).isSome
  | .barw f => (barScope f.smod).isSome
  | .bara f => (barScope f.smod).isSome
  | .barv _ => true
  | .fence _ => true
  | .xfence _ => true
  | .afence _ => true
  | .sysf _ => true
  | .tokw _ => true
  | .tokp _ => true
  | .coll _ => true
  | .signal _ => true
  | .launch _ => true
  | .evwait _ => true
  | .tqpop _ => true
  | .tqsteal _ => true
  | .tqdone _ => true
  | .cpw _ => true
  | .spset _ => true
  | .atf f => semAcq f
  | i =>
    if isAtomic i then
      match accessOf i with
      | some (f, _) => semRel f || semAcq f
      | none => false
    else false

/-! ### Copies (R202, R206) -/

/-- The copy of a ticket is complete (R206). -/
def copyComplete (completed : Nat) (ticket : Word) : Bool :=
  decide ((completed % 2 ^ 30 + 2 ^ 31 - (ticket.extractLsb' 0 30).toNat - 1) % 2 ^ 30 < 2 ^ 29)

/-- A copy queue has an entry for the group (R57, R80): one of its 32 that no other group of the quadrant without a copy in the queue has reserved, or the
group's own. -/
def Core.copyRoom (c : Core) (q : Quad) (g : Group) (quad : Nat) : Bool :=
  let mine := q.copies.any (fun x => x.uid == g.uid)
  let others := (c.groups.filter (fun p => quadOf p.1 == quad && p.2.uid != g.uid && !q.copies.any (fun x => x.uid == p.2.uid))).length
  decide (q.copies.length + (if mine then others else 0) < 32)

/-! ### Readiness (R44, R46, R58) -/

/-- Registers that the instruction reads or writes are not pending (R46). A `CPT` waits for the five registers that can hold start coordinates, whatever the NDIM
of its record is: the record is read after this check (DESIGN CHOICE, row 37 of notes/assumptions). -/
def regsReady (i : Instr) (r : Row) (g : Group) (now : Nat) : Bool :=
  let regs (o : Opd) (k : Fk) : List RegId := match k with | .zero => [] | k => regsFrom o k.words
  let named := (if r.hdr.nwb && !r.rdDst then [] else regs r.dst r.dk) ++ r.src.flatMap (fun p => regs p.1 p.2)
    ++ (match r.hdr.guard with | some x => regsFrom x.reg 1 | none => [])
  let travel (n : Nat) : List RegId := (List.range n).map (fun j => .v j)
  let extra : List RegId := match i with
    | .brd f => travel f.live.toNat
    | .calli f => travel f.live.toNat
    | .reform f => travel f.live.toNat
    | .cptLd f => regsFrom f.c 5
    | .cptSt f => regsFrom f.c 5
    | _ => []
  let class_ := match i with
    | .movi f => if isS f.a then g.anyPending now (fun x => match x with | .s _ => true | _ => false)
        else g.anyPending now (fun x => match x with | .v _ => true | _ => false)
    | .rdoc _ => g.anyPending now (fun _ => true)
    | _ => false
  !(named ++ extra).any (g.pending now) && !class_

/-- Handle slots are free of what forbids the instruction (R46). -/
def handlesReady (i : Instr) (r : Row) (g : Group) (co : Core) : Bool :=
  match i with
  | .hfree _ => true
  | .hput _ => true
  | .halloc _ => true
  | .htake _ => true
  | _ =>
    let srcs := r.src.filterMap (fun p => match p.1, p.2 with
      | .h _, .zero => none
      | .h n, _ => some n.toNat
      | _, _ => none)
    let dsts := match i with
      | .mmas _ => ([] : List Nat)
      | .cpy f => (match f.addr with | .h n => [n.toNat] | _ => [])
      | .cpx f => (match f.addr with | .h n => [n.toNat] | _ => [])
      | .cptLd f => (match f.data with | .h n => [n.toNat] | _ => [])
      | _ => match r.dst, r.dk with | .h n, .h => [n.toNat] | _, _ => []
    let extra := match i with | .mmas f => [hnum f.dst] | _ => ([] : List Nat)
    (srcs ++ extra).all (fun n => co.noWrite (g.handle n).slots) && dsts.all (fun n => co.noUse (g.handle n).slots)

/-- The origin named is free of what forbids the instruction (R46, R226, R233, R234). -/
def originReady (i : Instr) (g : Group) (q : Quad) : Bool :=
  match orgOf i with
  | none => true
  | some n =>
    match g.origin? n with
    | none => true
    | some p =>
      let o := q.origin p
      match i with
      | .acst _ => o.pending == 0
      | .acth _ => o.pending == 0
      | .acrd _ => o.pending == 0
      | _ => o.pending == 0 && o.reading == 0

/-- The instruction is a matrix command (R223). -/
def isMatrix : Instr → Bool
  | .mma _ => true
  | .mmas _ => true
  | .mmab _ => true
  | .mma64 _ => true
  | .mmai _ => true
  | _ => false

/-- Event `n` satisfies a threshold (R37). -/
def eventMet (ev t : Word) : Bool := decide ((ev - t).toNat < 2 ^ 31)

/-- A read of the owner clock under DET waits until every earlier instruction of the group has retired, so that its value does not depend on time
(R287, R294). -/
def readsCount (i : Instr) : Bool :=
  match i with
  | .rdoc _ => true
  | .mfs f => f.spr == 0x000 || f.spr == 0x005
  | _ => false

/-- The figures that an `ACQ` or a `RELA` sets: registers, handle permission, origins (R40, R192). -/
def acqFigures : Instr → Option (Nat × Nat × Nat)
  | .acq f => some (8 * (f.smod.extractLsb' 0 6).toNat, (f.smod.extractLsb' 6 5).toNat, (f.smod.extractLsb' 11 2).toNat)
  | .rela _ => some (16, 2, 0)
  | _ => none

/-- Slots of a `HALLOC` (R208). -/
def hallocSlots (f : FmtX) : Nat := 2 ^ (f.xmod.extractLsb' 0 2).toNat

/-- Waiting instructions of one mailbox that stand before a seat's (R90). -/
def Core.mailAhead (c : Core) (mbox seat : Nat) (take : Bool) : Bool :=
  let mine := (c.mailWaits.find? (fun w => w.2.1 == seat)).map (fun w => (w.2.2.2.1, w.2.2.1))
  c.mailWaits.any (fun w => w.1 == mbox && w.2.2.2.2 == take && w.2.1 != seat
    && match mine with
      | none => true
      | some (since, lg) => decide (w.2.2.2.1 < since) || (w.2.2.2.1 == since && decide (w.2.2.1 < lg)))

/-- The instruction accesses memory on path LS (R262). -/
def isAccess (i : Instr) : Bool :=
  isLoad i || isStore i || isAtomic i || isAtf i || (match i with
    | .tld _ => true
    | .tst _ => true
    | _ => false)

/-- The operation's instruction counts when the operation is complete (R287). -/
def OpKind.counts (k : OpKind) : Bool :=
  match k with
  | .load .. => true
  | .store => true
  | .atomic _ => true
  | .atf .. => true
  | .tld .. => true
  | .tst .. => true
  | .packet => true
  | .tqpop => true
  | .tqsteal => true
  | .tqdone => true
  | _ => false

/-- An acquire of the threads is still to be performed, before which none of their later accesses issues (R262). -/
def Core.acquiring (c : Core) (g : Group) : Bool :=
  c.ops.any (fun p => (p.2.acq.isSome || p.2.kind == .tqpop || p.2.kind == .tqsteal) && meets p.2.tids g.tids)

/-- Every earlier instruction of the group has retired (R294). -/
def Core.allRetired (c : Core) (g : Group) (now : Nat) : Bool :=
  !c.ops.any (fun p => p.2.uid == g.uid && p.2.kind.counts && !p.2.counted) && !g.late.any (fun t => decide (now ≤ t))

/-- An earlier instruction of the play has raised an enabled exception. An `EXIT` or a `REFORM` with which the group would leave its seat, or wait for a join, does not
issue in such a play: FPE comes first, and resumes at it (DEDUCED, row 24 of notes/assumptions). -/
def State.hasFpe (s : State) (c : Ctx) : Bool := ((s.group? c.core c.seat).map (fun g => !g.fpe.isEmpty)).getD false

/-- The waits of an instruction's own effect (R44, R58), which do not apply when its guard is false everywhere. -/
def State.effectReady (s : State) (i : Instr) (c : Ctx) : Bool :=
  let co := s.core c.core
  let rel := match s.releaseScope i c with
    | some sc => !co.unacked c.g true co.nextOp sc c.now
    | none => true
  let token := match i with | .tokw _ => true | .tokp _ => true | _ => false
  let reg := !(endsRegion i) || (token && !s.det c.core) || s.regionFree c.core
  let tok := !(s.det c.core && s.gated i c) || s.tokenReady c.core c.g
  let acq := !isAccess i || !co.acquiring c.g
  let mem := match accessOf i with
    | none => true
    | some (f, idx) =>
      let as := c.addrs f idx
      let sl := s.scratchLines c as
      (isStore i || !sl.any (fun l => co.seenEmpty.contains l))
        && (isLoad i || !sl.any co.copyOwes)
        && (!(isStore i && sl.any (fun l => co.seenEmpty.contains l)) || (s.regionFree c.core && !co.undrained))
        && decide (co.missUsed + co.missCount (!isLoad i || f.hint.getLsbD 1) (s.memLines c as) ≤ Config.missSlots)
  let own := match i with
    | .tld f => !(s.scratchLines c ((c.tileAddrs f f.dst).map (fun p => (c.lane0, p.1)))).any (fun l => co.seenEmpty.contains l)
    | .tst f =>
      let sl := s.scratchLines c ((c.tileAddrs f f.c).map (fun p => (c.lane0, p.1)))
      !sl.any co.copyOwes && (!sl.any (fun l => co.seenEmpty.contains l) || (s.regionFree c.core && !co.undrained))
    | .launch f => !(s.scratchLines c [(c.lane0, c.sval 2 f.a)]).any (fun l => co.seenEmpty.contains l)
    | .spset _ => !co.undrained
    | .tokw _ => !s.det c.core || s.tokenReady c.core c.g
    | .evwait f => eventMet (sget 0 (s.owner c.owner).events (f.smod.extractLsb' 0 6).toNat) (c.sval32 f.a)
    | .cpw f => copyComplete (co.quad ((c.sval32 f.data).extractLsb' 30 2).toNat).completed (c.sval32 f.data)
    | .cpy _ => co.copyRoom (co.quad c.quad) c.g c.quad
    | .cptLd _ => co.copyRoom (co.quad c.quad) c.g c.quad
    | .cptSt _ => co.copyRoom (co.quad c.quad) c.g c.quad
    | .cpx _ => co.copyRoom (co.quad c.quad) c.g c.quad
    | .halloc f => co.canAlloc c.g c.seat (hnum f.dst) (hallocSlots f)
    | .hput f => (mget ((co.team.map (fun t => t.mail)).getD []) (f.xmod.extractLsb' 0 3).toNat).isNone
        && !co.mailAhead (f.xmod.extractLsb' 0 3).toNat c.seat false
    | .htake f => (mget ((co.team.map (fun t => t.mail)).getD []) (f.xmod.extractLsb' 0 3).toNat).isSome
        && !co.mailAhead (f.xmod.extractLsb' 0 3).toNat c.seat true
    | .coll _ => decide (((s.owner c.owner).die (dieOf c.core)).colls.length < 16)
    | .acq _ =>
      match acqFigures i with
      | some (regs, _, orgs) =>
        (decide (regs ≤ c.g.allot) && decide (orgs ≤ c.g.origins.length))
          || co.canRise c.seat (regs - c.g.allot) (orgs - c.g.origins.length)
      | none => true
    | .exit f => !(s.hasFpe c && (c.effLanes f.hdr.guard).length == c.g.lanes.length)
    | .reform f => !(s.hasFpe c && c.g.threads.any (fun p => p.2.jmask.getLsbD f.jn.toNat))
    | i => !isMatrix i || decide (0 < ((s.owner c.owner).die (dieOf c.core)).pool.level)
  let count := !(s.det c.core && readsCount i) || co.allRetired c.g c.now
  rel && reg && tok && acq && mem && own && count

/-- The guard is true in some active lane (R47); `VOTE` has a result with no participant too (R164). -/
def Ctx.takesEffect (c : Ctx) (i : Instr) (r : Row) : Bool :=
  !(c.effLanes r.hdr.guard).isEmpty || (match i with | .vote _ => true | _ => false)

/-! ### Where a solve region stands (R235, R239, R296, R298, R300) -/

/-- The cores of a team's cluster in cluster order: the team's own outside a declared one. -/
def State.clusterCores (s : State) (core : Nat) : List Nat :=
  match (s.core core).team with
  | some t =>
    match t.cluster with
    | some (k, _) => ((mget (s.owner t.owner).clusters k).map (fun x => x.cores)).getD [core]
    | none => [core]
  | none => [core]

/-- The live cluster of a core's team: owner and number. -/
def State.cluOf (s : State) (core : Nat) : Option (Nat × Nat) :=
  (s.core core).team.bind (fun t => t.cluster.map (fun k => (t.owner, k.1)))

/-- A region's record: in the team, or with `clu` in its declared cluster. -/
def State.regionAt (s : State) (core sid : Nat) (clu : Bool) : Option Region :=
  match if clu then s.cluOf core else none with
  | some (o, k) => (mget (s.owner o).clusters k).bind (fun x => mget x.regions sid)
  | none => (s.core core).team.bind (fun t => mget t.regions sid)

/-- Cycles by which an arrival or an outcome lags on a core (R300). -/
def lagOf (cores : List Nat) (core : Nat) : Nat := if cores.head? = some core then 0 else 8

/-- The `SOLB` whose outcome a core sees in a record: the cycle of its rendezvous; `first` for the first core of the scope. -/
def Region.openedFor (r : Region) (now : Nat) (first : Bool) : Option Nat :=
  match r.prev with
  | some (until_, _) => if !first && decide (now ≤ until_) then r.was else r.opened
  | none => r.opened

/-- The record that an instruction reads, the cluster's or the team's: that of the latest completed `SOLB` on the number. -/
def State.findRegion (s : State) (core sid : Nat) : Option (Bool × Region) :=
  let t := s.regionAt core sid false
  match if (s.cluOf core).isSome then s.regionAt core sid true else none with
  | none => t.map (fun r => (false, r))
  | some x =>
    match t with
    | none => some (true, x)
    | some r =>
      match x.openedFor (s.now core) (lagOf (s.clusterCores core) core == 0), r.opened with
      | some a, some b => if b < a then some (true, x) else some (false, r)
      | some _, none => some (true, x)
      | none, _ => some (false, r)

/-- The open region of which the issuing group is a participant. -/
def State.ownRegion (s : State) (c : Ctx) (sid : Nat) : Option (Region × Participant) :=
  match s.findRegion c.core sid with
  | some (_, r) =>
    if r.isOpen && c.g.handling.isNone then (r.parts.find? (fun p => p.core == c.core && p.lgid == s.lgid c.core c.seat)).map (fun p => (r, p)) else none
  | none => none

/-- What `SOLE` and `SOLX` find dead or resized of the handles that their region carries (R237, R297). -/
def carriedTrouble (c : Ctx) (p : Participant) : Option Trouble :=
  let hs := (p.xh.zip p.counts) ++ (p.gh.zip p.counts)
  match hs.find? (fun h => !(c.g.handle h.1).live), hs.find? (fun h => (c.g.handle h.1).slots.length != h.2) with
  | some h, _ => some (handleDead c.g h.1 0 c.first)
  | none, some h => some (handleDead c.g h.1 0xF0 c.first)
  | none, none => none

/-- The checks of a solve instruction against its region, before it is decided whether it is ready (R130, R222, R237, R241). -/
def State.regionCheck (s : State) (i : Instr) (c : Ctx) : Option Trouble :=
  let arrives (f : FmtX) : Option Trouble :=
    match f.hdr.guard with
    | some g => if (c.effLanes (some g)).isEmpty then none else (s.ownRegion c (f.xmod.extractLsb' 0 2).toNat).bind (fun p => carriedTrouble c p.2)
    | none => (s.ownRegion c (f.xmod.extractLsb' 0 2).toNat).bind (fun p => carriedTrouble c p.2)
  match i with
  | .sole f => arrives f
  | .solx f => arrives f
  | .solh f =>
    match s.ownRegion c (f.xmod.extractLsb' 0 2).toNat with
    | none => none
    | some (r, p) =>
      let ct := (f.xmod.extractLsb' 2 2).toNat
      if r.nc ≤ ct then some (.fatal 0x23 0 (BitVec.ofNat 64 c.pc))
      else if (c.g.handle (hnum f.dst)).slots.length ≠ (p.counts[ct]?).getD 0 then some (handleDead c.g (hnum f.dst) 0xF0 c.first)
      else none
  | _ => none

/-- Registers that an instruction reads. -/
def readRegs (i : Instr) (r : Row) : List RegId :=
  let regs (o : Opd) (k : Fk) : List RegId := match k with | .zero => [] | k => regsFrom o k.words
  (if r.rdDst then regs r.dst r.dk else []) ++ r.src.flatMap (fun p => regs p.1 p.2) ++ (match r.hdr.guard with | some x => regsFrom x.reg 1 | none => [])
    ++ (match i with
      | .brd f => (List.range f.live.toNat).map (fun j => .v j)
      | .calli f => (List.range f.live.toNat).map (fun j => .v j)
      | .reform f => (List.range f.live.toNat).map (fun j => .v j)
      | _ => [])

/-- An instruction that can issue reads a register with an uncorrectable error (R335). -/
def registerError (i : Instr) (c : Ctx) : Bool :=
  match row? i with
  | none => false
  | some r => !c.g.bad.isEmpty && regsReady i r c.g c.now && c.takesEffect i r && (readRegs i r).any (fun x => c.g.bad.any (fun b => match x, b.1 with
      | .v n, some l => n == b.2 && c.g.lanes.contains l
      | .s n, none => n == b.2
      | _, _ => false))

/-- The checks of an instruction that its own words and registers' numbers do not decide: those of a solve instruction against its region, and then the error of a register
that it reads (R130, R335). -/
def State.solveCheck (s : State) (i : Instr) (c : Ctx) : Option Trouble :=
  (s.regionCheck i c).or (if registerError i c then some (.fatal 0x27 0 0) else none)

/-- A solve instruction waits for writes to the tiles that its region carries (R46, R237, R241). -/
def State.solveReady (s : State) (i : Instr) (c : Ctx) : Bool :=
  let co := s.core c.core
  let parts (sid : Nat) : List Participant :=
    let here := ((co.team.bind (fun t => mget t.regions sid)).map (fun r => r.parts)).getD []
    let clu := match co.team.bind (fun t => t.cluster) with
      | some (k, _) => (((mget (s.owner c.owner).clusters k).bind (fun x => mget x.regions sid)).map (fun r => r.parts)).getD []
      | none => []
    (here ++ clu).filter (fun p => p.core == c.core && p.lgid == s.lgid c.core c.seat)
  match i with
  | .sole f => (parts (f.xmod.extractLsb' 0 2).toNat).all (fun p => (p.xh ++ p.gh).all (fun h => co.noWrite (c.g.handle h).slots))
  | _ => true

/-- The scoreboard and the units of the core hold nothing against the instruction (R44, R46). -/
def State.boardReady (s : State) (i : Instr) (r : Row) (c : Ctx) : Bool :=
  let co := match s.sched.cur with
    | some u => (match u.snap with | some p => p.1 | none => s.core c.core)
    | none => s.core c.core
  regsReady i r c.g c.now && handlesReady i r c.g co && originReady i c.g c.q
    && !(decide (0 < r.fma) && decide (c.now ≤ c.q.fmaBusy) && c.q.fmaBusy != 0)
    && s.solveReady i c

/-- The instruction is ready (R44). -/
def State.ready (s : State) (i : Instr) (c : Ctx) : Bool :=
  match row? i with
  | none => true
  | some r => s.boardReady i r c && (!c.takesEffect i r || s.effectReady i c)

/-- A seat joins those that wait at a mailbox (R90). -/
def Core.waitMail (c : Core) (mbox seat lgid now : Nat) (take : Bool) : Core :=
  if c.mailWaits.any (fun w => w.2.1 == seat) then c else { c with mailWaits := c.mailWaits ++ [(mbox, seat, lgid, now, take)] }

/-- What an instruction sets going that waits with its effect: the drains of its release (R76), what an `ACQ` gives up (R40), and its request (R42, R67,
R90). -/
def State.waiting (s : State) (i : Instr) (c : Ctx) : State :=
  let s := s.startDrains i c
  let lg := s.lgid c.core c.seat
  match i with
  | .acq _ =>
    match acqFigures i with
    | some (regs, hnd, orgs) => (s.fallTo c.core c.seat regs hnd orgs).modCore c.core (fun co => co.ask
        { seat := c.seat, lgid := lg, since := c.now, regs := regs - c.g.allot, orgs := orgs - c.g.origins.length, slots := 0, handle := 0, granted := false })
    | none => s
  | .halloc f => s.modCore c.core (fun co => co.ask
      { seat := c.seat, lgid := lg, since := c.now, regs := 0, orgs := 0, slots := hallocSlots f, handle := hnum f.dst, granted := false })
  | .hput f => s.modCore c.core (fun co => co.waitMail (f.xmod.extractLsb' 0 3).toNat c.seat lg c.now false)
  | .htake f => s.modCore c.core (fun co => co.waitMail (f.xmod.extractLsb' 0 3).toNat c.seat lg c.now true)
  | _ => s

/-- An instruction that is not ready waits with its effect only once its registers and its guard are settled and its guard is true somewhere (R58). -/
def State.unready (s : State) (i : Instr) (c : Ctx) : State :=
  match row? i with
  | none => s
  | some r => if s.boardReady i r c && c.takesEffect i r then s.waiting i c else s

/-! ### Issuing -/

/-- Instructions whose retirement is counted when their effect completes (R287). -/
def deferred (i : Instr) : Bool :=
  isLoad i || isStore i || isAtomic i || (match i with
    | .atf _ => true
    | .tld _ => true
    | .tst _ => true
    | .barw _ => true
    | .barv _ => true
    | .fence _ => true
    | .xfence _ => true
    | .afence _ => true
    | .sysf _ => true
    | .launch _ => true
    | .cptLd _ => true
    | .cptSt _ => true
    | .coll _ => true
    | .tqpop _ => true
    | .tqsteal _ => true
    | .tqdone _ => true
    | .solb _ => true
    | .sole _ => true
    | .solx _ => true
    | .reform _ => true
    | .dbg _ => true
    | .yieldDone _ => true
    | .trap _ => true
    | .halt _ => true
    | .calli _ => true
    | _ => false)

/-- The cycle at whose end an instruction that retires of itself retires (R244, R287, R354): a copy and an engine command in their issue cycle (R341). -/
def retireEnd (i : Instr) (r : Row) (now : Nat) : Nat :=
  match i with
  | .strg _ => now + 7
  | .strgT _ => now + 7
  | .cpy _ => now
  | .cpx _ => now
  | .mma _ => now
  | .mmas _ => now
  | .mmab _ => now
  | .mma64 _ => now
  | .mmai _ => now
  | .acz _ => now
  | .acst _ => now
  | .acth _ => now
  | .cvtb _ => now
  | .bscl _ => now
  | _ => if r.hdr.nwb || r.dk == .zero then now else now + (r.lat - 1)

/-- The group's request of the line behind `line`, which it makes with the PC of the issuing instruction (R246). -/
def Core.askNext (co : Core) (c : Ctx) (line : Nat) : Core :=
  let co := co.modGroup c.seat (fun g => { g with
    pc := c.pc, lines := g.lines.map (fun (l : CodeLine) => if l.line == line then { l with next := true } else l) })
  (co.requestLine c.seat (line + 64) c.now false).modGroup c.seat (fun g => { g with pc := nextPc c.pc })

/-- The first issue from a line requests the next one (R246). -/
def State.askNext (s : State) (c : Ctx) : State :=
  match c.g.lines.find? (fun l => l.line == c.pc / 64 * 64) with
  | some l => if l.next then s else s.modCore c.core (fun co => co.askNext c (c.pc / 64 * 64))
  | none => s

/-- The state as an instruction issues: the group's PC moves to the next slot, the line behind its own is requested, the multiply-add unit is taken (R245),
and the instruction retires unless its effect completes later (R119, R246, R287). -/
def State.begin (s : State) (i : Instr) (c : Ctx) (r : Row) : State :=
  let s := (s.modGroup c.core c.seat (fun g =>
    { g with pc := nextPc c.pc, tcheck := false, reads := if c.pc = c.first then none else g.reads })).askNext c
  let s := s.modQuad c.core c.quad (fun q => if 0 < r.fma then { q with fmaBusy := c.now + r.fma - 1 } else q)
  if deferred i then s else s.retiredAt c.core c.seat c.g.uid (retireEnd i r c.now)

/-- Puts back the core and its owner as they stood before the pair that issues (R123). -/
def State.undoPair (s : State) (u : Issuing) : State :=
  match u.snap with
  | some (co, o) => (s.setCore u.core co).setOwner (s.ownerOf u.core) o
  | none => s

/-- Raises what stopped an instruction, at its own slot. -/
def State.raise (s : State) (u : Issuing) (t : Trouble) : State :=
  let s := s.undoPair u
  match s.group? u.core u.seat with
  | none => s
  | some g =>
    let pc := if u.snap.isSome then nextPc g.pc else g.pc
    match t with
    | .trap t resume => s.preciseTrap u.core u.seat pc t resume
    | .fatal cause sub addr => s.groupFatalAt u.core u.seat pc cause sub addr

/-- Issues an instruction for the group of `c`. -/
def State.issueAs (s : State) (u : Issuing) (i : Instr) (c : Ctx) (eff : Ctx → State → Effect) : State :=
  match row? i with
  | none => s
  | some r =>
    match (precheck i c).or (s.solveCheck i c) with
    | some t => s.raise u t
    | none =>
      if !s.ready i c then (s.unready i c).endPlay u.core u.seat
      else if !c.takesEffect i r then
        let s := s.begin i c r
        if deferred i then s.retired c.core c.seat c.g.uid 1 else s
      else
        match eff c ((s.ordered i c).begin i c r) with
        | .ok s' => s'
        | .error t => s.raise u t

/-- THE MEANING OF AN INSTRUCTION: it issues for the group that the scheduler names. -/
def issue (i : Instr) (eff : Ctx → State → Effect) (s : State) : Host.Outcome State Fault Refusal :=
  match s.sched.cur with
  | none => .fault .noIssuer
  | some u =>
    match s.ctx? u with
    | none => .fault .noIssuer
    | some c => .next (s.issueAs u i c eff)

/-- Writes the results of a register instruction: destination, scoreboard mark, latch (R45, R46, R129, R244). -/
def State.writeAlu (s : State) (c : Ctx) (r : Row) (rs : Results) (xs : List (Nat × Exc)) : State :=
  let n := r.dk.words
  let s := s.modGroup c.core c.seat (fun g =>
    let g := g.collect c.pc xs
    if r.hdr.nwb then g else (g.writeResults r.dst n rs).markRegs r.dst n (c.now + r.lat - 1))
  if r.latch then
    match s.group? c.core c.seat with
    | some g => s.modQuad c.core c.quad (fun q => { q with latches := mset q.latches (latchOf c.now) (latchValues g r rs) })
    | none => s
  else s

/-- Lanes in which a register instruction computes: the lowest active lane in scalar form. -/
def Ctx.aluLanes (c : Ctx) (r : Row) : List Nat := if isS r.dst then [c.lane0] else c.effLanes r.hdr.guard

/-- A register instruction: one result and its exceptions in each lane (R139). -/
def aluEffect (i : Instr) (f : Ctx → Nat → DWord × Exc) (c : Ctx) (s : State) : Effect :=
  match row? i with
  | none => .ok s
  | some r =>
    let rs := (c.aluLanes r).map (fun l => (l, f c l))
    .ok (s.writeAlu c r (rs.map (fun p => (p.1, p.2.1))) (rs.map (fun p => (p.1, p.2.2))))

/-- A register instruction that raises no exception. -/
def alu (i : Instr) (f : Ctx → Nat → DWord) (s : State) : Host.Outcome State Fault Refusal :=
  issue i (aluEffect i (fun c l => (f c l, 0))) s

/-- A register instruction that may raise exceptions. -/
def aluExc (i : Instr) (f : Ctx → Nat → DWord × Exc) (s : State) : Host.Outcome State Fault Refusal :=
  issue i (aluEffect i f) s

/-! ### Operations of the issuing group, and reads that come before an effect (R81, R170, R220) -/

/-- A memory operation of the issuing group with nothing but its issuer filled in. -/
def Ctx.op (c : Ctx) (s : State) (k : OpKind) : MemOp :=
  { MemOp.blank with
    kind := k, seat := c.seat, uid := c.g.uid, tids := c.g.tids, lanes := c.g.lanes, quad := c.quad, lgid := s.lgid c.core c.seat,
    region := (s.group? c.core c.seat).bind (fun g => g.region), pc := c.pc, issued := c.now, counted := s.uncounted c.core c.g,
    segs := (c.g.segsp, c.g.segst, c.g.seggl),
    reads := if s.sched.pair.isSome || (s.sched.cur.bind (fun u => u.snap)).isSome then some c.reads else none }

/-- The outcome of such reads: what they give, a wait for a read that has been started, or trouble. -/
inductive Fetched (α : Type) where
  | got (a : α) (s : State)
  | wait (s : State)
  | trouble (t : Trouble)

/-- The reads that the instruction has made before are done with. -/
def State.dropProbes (s : State) (c : Ctx) : State :=
  s.modCore c.core (fun co => { co with ops := co.ops.filter (fun p => !(p.2.kind.isProbe && p.2.uid == c.g.uid && p.2.pc == c.pc)) })

/-- Starts such a read: the instruction, and the pair that it belongs to, has no effect (R88, R123) and comes to issue again once the read has answered. -/
def State.startProbe (s : State) (c : Ctx) (use : ProbeUse) (ga : DWord) (va n : Nat) : State :=
  let s := match s.sched.cur with | some u => s.undoPair u | none => s
  let s := s.modGroup c.core c.seat (fun g => { g with pc := c.first, wait := some (.op (s.core c.core).nextOp) })
  (s.startOp c.core c.now { c.op s (.probe use) with
    acc := [{ lane := 0, ga := ga, va := va, bytes := n, data := [], cmp := [], res := [], bad := false }] }).endPlay c.core c.seat

/-- Reads `n` bytes in a page of the global window for the issuing instruction. A page whose translation is in the L1 TLB is read at once. For any other, for
one beyond the package, and where an uncorrectable error stands in the way (R335), a read is started that is translated, and parks, as a load does. -/
def State.readNow (s : State) (c : Ctx) (use : ProbeUse) (ga : DWord) (va n : Nat) : Fetched (List Byte) :=
  let co := s.core c.core
  match co.ops.find? (fun p => p.2.kind == .probe use && p.2.uid == c.g.uid && p.2.pc == c.pc && p.2.answered c.now
      && (p.2.acc.head?.map (fun a => a.ga)) == some ga) with
  | some p => .got ((p.2.acc.head?.map (fun a => a.res)).getD []) s
  | none =>
    match tlbFind co.tlb (va / Config.pageBytes) with
    | none => .wait (s.startProbe c use ga va n)
    | some l =>
      let pa := l.addr va
      if l.tgt = 2 || tlbBad co.tlb (va / Config.pageBytes) || (l.tgt == 0 && s.errors.any (fun e => decide (e < pa + n ∧ pa < e + 128))) then
        .wait (s.startProbe c use ga va n)
      else if use == .code && !l.x then .trouble (.fatal 0x21 1 ga)
      else if !(s.owner c.owner).leafColourOk l va then .trouble (.fatal 0x22 0 ga)
      else
        let s := s.modCore c.core (fun co => (co.tlbLookup (va / Config.pageBytes)).2)
        match use with
        | .code =>
          match (co.l1Find (pa / 128 * 128) (l.tgt == 1) true).filter (fun x => !x.bad) with
          | some x => .got (accBytes x.bytes pa n) s
          | none => .got (s.readAt (l.tgt == 1) pa n) s
        | .record =>
          let region := (s.group? c.core c.seat).bind (fun g => g.region)
          let (s, bad) := s.raceAt c.owner l pa n .read region
          let s := match firstBad ga (pa % 128) bad with
            | some x => s.modGroup c.core c.seat (fun g => g.holdMmx
                { issued := c.now, order := co.nextOp, raised := c.now, copy := false, info := mmxInfo (x.1, x.2.1, 0, x.2.2) })
            | none => s
          .got (s.readAt (l.tgt == 1) pa n) s
        | .command =>
          let region := (s.group? c.core c.seat).bind (fun g => g.region)
          .got (s.readAt (l.tgt == 1) pa n) (s.recordAt c.owner l pa n .read region)

/-- Reads `n` bytes at a generic address, in the scratchpad or the global window. -/
def State.fetchNow (s : State) (c : Ctx) (use : ProbeUse) (ga : DWord) (n : Nat) : Fetched (List Byte) :=
  match s.place c c.lane0 ga with
  | some (.scratch o) =>
    let region := (s.group? c.core c.seat).bind (fun g => g.region)
    if (s.core c.core).spError o n then .trouble (.fatal 0x27 0 (BitVec.ofNat 64 (ga.toNat - o % 128)))
    else
    match use with
    | .command => .got ((s.core c.core).seen.readN o n) (s.recordScratch c.owner c.core o n .read region)
    | _ =>
      let (s, bad) := s.raceScratch c.core o n .read region
      .got ((s.core c.core).seen.readN o n) (match firstBad ga (o % 128) bad with
        | some x => s.modGroup c.core c.seat (fun g => g.holdMmx
            { issued := c.now, order := (s.core c.core).nextOp, raised := c.now, copy := false, info := mmxInfo (x.1, x.2.1, 0, x.2.2) })
        | none => s)
  | some (.mem va false) => s.readNow c use ga va n
  | _ => .trouble (fatalAddress ga)

/-- A scalar result written with the latency of the row. -/
def State.writeScalar (s : State) (c : Ctx) (o : Opd) (n last : Nat) (d : DWord) : State :=
  s.modGroup c.core c.seat (fun g => (g.writeOpd o n c.lane0 d).markRegs o n last)

end Sys2Proof.Machine
end

