-- ==== Sys2Proof/Machine/Int.lean ====
section
/-! DEFINITION. Integer arithmetic, logic, bit fields and moves (R139 to R149). -/

namespace Sys2Proof.Machine

/-! ### Shared operations -/

/-- Bits of an operand type. -/
def tyBits (t : Ty) : Nat := 32 * tyRegs t

/-- An operand of a type. -/
def Ctx.readTy (c : Ctx) (t : Ty) (o : Opd) (l : Nat) : DWord := c.read (tyRegs t) o l

/-- The integer that a value of a type stands for (R141). -/
def intOf (t : Ty) (d : DWord) : Int :=
  match t with
  | .s64 => d.toInt
  | .s32 => (lo32 d).toInt
  | _ => ((lo32 d).toNat : Int)

/-- The range of an integer type. -/
def intRange (t : Ty) : Int × Int :=
  match t with
  | .s64 => (-2 ^ 63, 2 ^ 63 - 1)
  | .s32 => (-2 ^ 31, 2 ^ 31 - 1)
  | _ => (0, 2 ^ 32 - 1)

/-- A bit pattern of `n` bits as a register value. -/
def trunc (n : Nat) (x : Nat) : DWord := BitVec.ofNat 64 (x % 2 ^ n)

/-- An exact result narrowed to a type, clamped with `.sat` (R141). -/
def intPut (t : Ty) (sat : Bool) (x : Int) : DWord :=
  let y := if sat then min (max x (intRange t).1) (intRange t).2 else x
  if tyBits t = 64 then BitVec.ofInt 64 y else (BitVec.ofInt 32 y).zeroExtend 64

/-- An integer operand. -/
def Ctx.int (c : Ctx) (t : Ty) (o : Opd) (l : Nat) : Int := intOf t (c.readTy t o l)

/-- An immediate as an integer. -/
def immInt (t : Ty) (imm : BitVec 32) : Int := intOf t (immValue t imm)

/-- The high part of a product (R141). -/
def mulHigh (t : Ty) (x y : Int) : Int := (x * y) / 2 ^ tyBits t

/-- An integer condition (R140). -/
def intCond (cc : Nat) (x y : Int) : Bool :=
  match cc with
  | 0 => decide (x = y)
  | 1 => decide (x ≠ y)
  | 2 => decide (x < y)
  | 3 => decide (x ≤ y)
  | 4 => decide (y < x)
  | _ => decide (y ≤ x)

/-- A truth value in one register. -/
def flag (b : Bool) : DWord := if b then 1 else 0

/-- The 32-bit operand of an address instruction, extended by its type (R142). -/
def addrExt (t : Ty) (w : Word) : DWord := if t == .s32 then w.signExtend 64 else w.zeroExtend 64

/-- The truth table of `BITS` (R144). -/
def lutBits (lut : BitVec 8) (n : Nat) (x y z : DWord) : DWord :=
  BitVec.ofNat 64 ((List.range n).foldl (fun a i =>
    a + (if lut.getLsbD ((if x.getLsbD i then 4 else 0) + (if y.getLsbD i then 2 else 0) + (if z.getLsbD i then 1 else 0)) then 2 ^ i else 0)) 0)

/-- Shifts and rotation of `n` bits by a count (R145). -/
def shiftLeft (n : Nat) (x : Nat) (k : Nat) : DWord := if n ≤ k then 0 else trunc n (x * 2 ^ k)
def shiftRight (n : Nat) (x : Nat) (k : Nat) : DWord := if n ≤ k then 0 else trunc n (x / 2 ^ k)
def shiftArith (n : Nat) (x : Nat) (k : Nat) : DWord :=
  let k := min k n
  if x < 2 ^ (n - 1) then trunc n (x / 2 ^ k) else trunc n (x / 2 ^ k + (2 ^ n - 2 ^ (n - k)))
def rotateLeft (n : Nat) (x : Nat) (k : Nat) : DWord :=
  let k := k % n
  trunc n (x * 2 ^ k + x / 2 ^ (n - k))

/-- Ones in the low `n` bits. -/
def popCount (n : Nat) (x : DWord) : Nat := ((List.range n).filter (fun i => x.getLsbD i)).length

/-- Zeros above the highest one of the low `n` bits. -/
def leadZeros (n : Nat) (x : DWord) : Nat :=
  match (List.range n).find? (fun i => x.getLsbD (n - 1 - i)) with
  | some i => i
  | none => n

/-- Bit `i` moved to bit n - 1 - i. -/
def bitReverse (n : Nat) (x : DWord) : DWord :=
  BitVec.ofNat 64 ((List.range n).foldl (fun a i => a + (if x.getLsbD i then 2 ^ (n - 1 - i) else 0)) 0)

/-- The width of a bit field that lies inside the operand (R147). -/
def fieldWidth (n p w : Nat) : Nat := min w (n - min p n)

/-- `BFX` (R147). -/
def fieldExtract (t : Ty) (x : Nat) (b : Word) : DWord :=
  let n := tyBits t
  let p := (b.extractLsb' 0 8).toNat
  let e := fieldWidth n p (b.extractLsb' 8 8).toNat
  let f := x / 2 ^ p % 2 ^ e
  if (t == .s32 || t == .s64) && decide (0 < e ∧ 2 ^ (e - 1) ≤ f) then trunc n (f + (2 ^ n - 2 ^ e)) else trunc n f

/-- `BFI` (R147). -/
def fieldInsert (t : Ty) (x : Nat) (b : Word) (z : Nat) : DWord :=
  let n := tyBits t
  let p := (b.extractLsb' 0 8).toNat
  let e := fieldWidth n p (b.extractLsb' 8 8).toNat
  let low := z % 2 ^ p
  if e = 0 then trunc n z else trunc n (z / 2 ^ (p + e) * 2 ^ (p + e) + x % 2 ^ e * 2 ^ p + low)

/-- A value of a type as a number. -/
def Ctx.nat (c : Ctx) (t : Ty) (o : Opd) (l : Nat) : Nat := (c.readTy t o l).toNat

/-! ### The instructions -/

/-- `NOP`: no effect but its issue. -/
def execNop (f : FmtA) (s : State) : Host.Outcome State Fault Refusal := issue (.nop f) (fun _ s => .ok s) s

/-- `IADD` (R141): x + y. -/
def execIadd (f : FmtA) (s : State) : Host.Outcome State Fault Refusal :=
  alu (.iadd f) (fun c l => intPut f.ty f.sat ((c.int f.ty f.a l) + (c.int f.ty f.b l))) s

/-- `IADD` with an immediate (R141). -/
def execIaddImm (f : FmtI) (s : State) : Host.Outcome State Fault Refusal :=
  alu (.iaddImm f) (fun c l => intPut f.ty (immSat f) ((c.int f.ty f.a l) + (immInt f.ty f.imm))) s

/-- `ISUB` (R141): x - y. -/
def execIsub (f : FmtA) (s : State) : Host.Outcome State Fault Refusal :=
  alu (.isub f) (fun c l => intPut f.ty f.sat ((c.int f.ty f.a l) - (c.int f.ty f.b l))) s

/-- `ISUB` with an immediate (R141). -/
def execIsubImm (f : FmtI) (s : State) : Host.Outcome State Fault Refusal :=
  alu (.isubImm f) (fun c l => intPut f.ty (immSat f) ((c.int f.ty f.a l) - (immInt f.ty f.imm))) s

/-- `IMUL` (R141): x · y. -/
def execImul (f : FmtA) (s : State) : Host.Outcome State Fault Refusal :=
  alu (.imul f) (fun c l => intPut f.ty f.sat ((c.int f.ty f.a l) * (c.int f.ty f.b l))) s

/-- `IMUL` with an immediate (R141). -/
def execImulImm (f : FmtI) (s : State) : Host.Outcome State Fault Refusal :=
  alu (.imulImm f) (fun c l => intPut f.ty (immSat f) ((c.int f.ty f.a l) * (immInt f.ty f.imm))) s

/-- `IMULH` (R141): the high part of x · y. -/
def execImulh (f : FmtA) (s : State) : Host.Outcome State Fault Refusal :=
  alu (.imulh f) (fun c l => intPut f.ty false (mulHigh f.ty (c.int f.ty f.a l) (c.int f.ty f.b l))) s

/-- `IMULH` with an immediate (R141). -/
def execImulhImm (f : FmtI) (s : State) : Host.Outcome State Fault Refusal :=
  alu (.imulhImm f) (fun c l => intPut f.ty false (mulHigh f.ty (c.int f.ty f.a l) (immInt f.ty f.imm))) s

/-- `IMAD` (R141): x · y + z. -/
def execImad (f : FmtA) (s : State) : Host.Outcome State Fault Refusal :=
  alu (.imad f) (fun c l => intPut f.ty f.sat ((c.int f.ty f.a l) * (c.int f.ty f.b l) + (c.int f.ty f.c l))) s

/-- `IMAD` with an immediate z (R141). -/
def execImadImm (f : FmtI) (s : State) : Host.Outcome State Fault Refusal :=
  alu (.imadImm f) (fun c l => intPut f.ty (immSat f) ((c.int f.ty f.a l) * (c.int f.ty f.b l) + (immInt f.ty f.imm))) s

/-- `IMIN` (R141): the minimum. -/
def execImin (f : FmtA) (s : State) : Host.Outcome State Fault Refusal :=
  alu (.imin f) (fun c l => intPut f.ty false (min (c.int f.ty f.a l) (c.int f.ty f.b l))) s

/-- `IMIN` with an immediate (R141). -/
def execIminImm (f : FmtI) (s : State) : Host.Outcome State Fault Refusal :=
  alu (.iminImm f) (fun c l => intPut f.ty false (min (c.int f.ty f.a l) (immInt f.ty f.imm))) s

/-- `IMAX` (R141): the maximum. -/
def execImax (f : FmtA) (s : State) : Host.Outcome State Fault Refusal :=
  alu (.imax f) (fun c l => intPut f.ty false (max (c.int f.ty f.a l) (c.int f.ty f.b l))) s

/-- `IMAX` with an immediate (R141). -/
def execImaxImm (f : FmtI) (s : State) : Host.Outcome State Fault Refusal :=
  alu (.imaxImm f) (fun c l => intPut f.ty false (max (c.int f.ty f.a l) (immInt f.ty f.imm))) s

/-- `IABS` (R141). -/
def execIabs (f : FmtA) (s : State) : Host.Outcome State Fault Refusal :=
  alu (.iabs f) (fun c l => intPut f.ty f.sat (if (c.int f.ty f.a l) < 0 then -(c.int f.ty f.a l) else (c.int f.ty f.a l))) s

/-- `INEG` (R141). -/
def execIneg (f : FmtA) (s : State) : Host.Outcome State Fault Refusal :=
  alu (.ineg f) (fun c l => intPut f.ty f.sat (-(c.int f.ty f.a l))) s

/-- `ISET` (R143): a condition of R140. -/
def execIset (f : FmtA) (s : State) : Host.Outcome State Fault Refusal :=
  alu (.iset f) (fun c l => flag (intCond f.opt.toNat (c.int f.ty f.a l) (c.int f.ty f.b l))) s

/-- `ISET` with an immediate (R143). -/
def execIsetImm (f : FmtI) (s : State) : Host.Outcome State Fault Refusal :=
  alu (.isetImm f) (fun c l => flag (intCond (immCc f) (c.int f.ty f.a l) (immInt f.ty f.imm))) s

/-- `AADD` (R142). -/
def execAadd (f : FmtA) (s : State) : Host.Outcome State Fault Refusal :=
  alu (.aadd f) (fun c l => c.read 2 f.a l + addrExt f.ty (c.read32 f.b l)) s

/-- `AADD` with an immediate (R142). -/
def execAaddImm (f : FmtI) (s : State) : Host.Outcome State Fault Refusal :=
  alu (.aaddImm f) (fun c l => c.read 2 f.a l + addrExt f.ty f.imm) s

/-- `AMAD` (R142). -/
def execAmad (f : FmtA) (s : State) : Host.Outcome State Fault Refusal :=
  alu (.amad f) (fun c l => c.read 2 f.a l + addrExt f.ty (c.read32 f.b l) * addrExt f.ty (c.read32 f.c l)) s

/-- `AMAD` with an immediate (R142). -/
def execAmadImm (f : FmtI) (s : State) : Host.Outcome State Fault Refusal :=
  alu (.amadImm f) (fun c l => c.read 2 f.a l + addrExt f.ty (c.read32 f.b l) * addrExt f.ty f.imm) s

/-- `AND` (R144). -/
def execAnd (f : FmtA) (s : State) : Host.Outcome State Fault Refusal :=
  alu (.and f) (fun c l => trunc (tyBits f.ty) (c.readTy f.ty f.a l &&& c.readTy f.ty f.b l).toNat) s

/-- `AND` with an immediate (R144). -/
def execAndImm (f : FmtI) (s : State) : Host.Outcome State Fault Refusal :=
  alu (.andImm f) (fun c l => trunc (tyBits f.ty) (c.readTy f.ty f.a l &&& immValue f.ty f.imm).toNat) s

/-- `OR` (R144). -/
def execOr (f : FmtA) (s : State) : Host.Outcome State Fault Refusal :=
  alu (.or f) (fun c l => trunc (tyBits f.ty) (c.readTy f.ty f.a l ||| c.readTy f.ty f.b l).toNat) s

/-- `OR` with an immediate (R144). -/
def execOrImm (f : FmtI) (s : State) : Host.Outcome State Fault Refusal :=
  alu (.orImm f) (fun c l => trunc (tyBits f.ty) (c.readTy f.ty f.a l ||| immValue f.ty f.imm).toNat) s

/-- `XOR` (R144). -/
def execXor (f : FmtA) (s : State) : Host.Outcome State Fault Refusal :=
  alu (.xor f) (fun c l => trunc (tyBits f.ty) (c.readTy f.ty f.a l ^^^ c.readTy f.ty f.b l).toNat) s

/-- `XOR` with an immediate (R144). -/
def execXorImm (f : FmtI) (s : State) : Host.Outcome State Fault Refusal :=
  alu (.xorImm f) (fun c l => trunc (tyBits f.ty) (c.readTy f.ty f.a l ^^^ immValue f.ty f.imm).toNat) s

/-- `ANDN` (R144). -/
def execAndn (f : FmtA) (s : State) : Host.Outcome State Fault Refusal :=
  alu (.andn f) (fun c l => trunc (tyBits f.ty) (c.readTy f.ty f.a l &&& ~~~(c.readTy f.ty f.b l)).toNat) s

/-- `ANDN` with an immediate (R144). -/
def execAndnImm (f : FmtI) (s : State) : Host.Outcome State Fault Refusal :=
  alu (.andnImm f) (fun c l => trunc (tyBits f.ty) (c.readTy f.ty f.a l &&& ~~~(immValue f.ty f.imm)).toNat) s

/-- `NOT` (R144). -/
def execNot (f : FmtA) (s : State) : Host.Outcome State Fault Refusal :=
  alu (.not f) (fun c l => trunc (tyBits f.ty) (~~~(c.readTy f.ty f.a l)).toNat) s

/-- `BITS` (R144): the truth table in OPT[7:0]. -/
def execBits (f : FmtA) (s : State) : Host.Outcome State Fault Refusal :=
  alu (.bits f) (fun c l => lutBits (f.opt.extractLsb' 0 8) (tyBits f.ty) (c.readTy f.ty f.a l) (c.readTy f.ty f.b l) (c.readTy f.ty f.c l)) s

/-- `SHL` (R145). -/
def execShl (f : FmtA) (s : State) : Host.Outcome State Fault Refusal :=
  alu (.shl f) (fun c l => shiftLeft (tyBits f.ty) (c.nat f.ty f.a l) (c.read32 f.b l).toNat) s

/-- `SHL` by an immediate count (R145). -/
def execShlImm (f : FmtI) (s : State) : Host.Outcome State Fault Refusal :=
  alu (.shlImm f) (fun c l => shiftLeft (tyBits f.ty) (c.nat f.ty f.a l) f.imm.toNat) s

/-- `SHR` (R145). -/
def execShr (f : FmtA) (s : State) : Host.Outcome State Fault Refusal :=
  alu (.shr f) (fun c l => shiftRight (tyBits f.ty) (c.nat f.ty f.a l) (c.read32 f.b l).toNat) s

/-- `SHR` by an immediate count (R145). -/
def execShrImm (f : FmtI) (s : State) : Host.Outcome State Fault Refusal :=
  alu (.shrImm f) (fun c l => shiftRight (tyBits f.ty) (c.nat f.ty f.a l) f.imm.toNat) s

/-- `SAR` (R145). -/
def execSar (f : FmtA) (s : State) : Host.Outcome State Fault Refusal :=
  alu (.sar f) (fun c l => shiftArith (tyBits f.ty) (c.nat f.ty f.a l) (c.read32 f.b l).toNat) s

/-- `SAR` by an immediate count (R145). -/
def execSarImm (f : FmtI) (s : State) : Host.Outcome State Fault Refusal :=
  alu (.sarImm f) (fun c l => shiftArith (tyBits f.ty) (c.nat f.ty f.a l) f.imm.toNat) s

/-- `ROT` (R145). -/
def execRot (f : FmtA) (s : State) : Host.Outcome State Fault Refusal :=
  alu (.rot f) (fun c l => rotateLeft (tyBits f.ty) (c.nat f.ty f.a l) (c.read32 f.b l).toNat) s

/-- `ROT` by an immediate count (R145). -/
def execRotImm (f : FmtI) (s : State) : Host.Outcome State Fault Refusal :=
  alu (.rotImm f) (fun c l => rotateLeft (tyBits f.ty) (c.nat f.ty f.a l) f.imm.toNat) s

/-- `POPC` (R146). -/
def execPopc (f : FmtA) (s : State) : Host.Outcome State Fault Refusal :=
  alu (.popc f) (fun c l => BitVec.ofNat 64 (popCount (tyBits f.ty) (c.readTy f.ty f.a l))) s

/-- `CLZ` (R146). -/
def execClz (f : FmtA) (s : State) : Host.Outcome State Fault Refusal :=
  alu (.clz f) (fun c l => BitVec.ofNat 64 (leadZeros (tyBits f.ty) (c.readTy f.ty f.a l))) s

/-- `BREV` (R146). -/
def execBrev (f : FmtA) (s : State) : Host.Outcome State Fault Refusal :=
  alu (.brev f) (fun c l => bitReverse (tyBits f.ty) (c.readTy f.ty f.a l)) s

/-- `BFX` (R147). -/
def execBfx (f : FmtA) (s : State) : Host.Outcome State Fault Refusal :=
  alu (.bfx f) (fun c l => fieldExtract f.ty (c.nat f.ty f.a l) (c.read32 f.b l)) s

/-- `BFX` with an immediate field (R147). -/
def execBfxImm (f : FmtI) (s : State) : Host.Outcome State Fault Refusal :=
  alu (.bfxImm f) (fun c l => fieldExtract f.ty (c.nat f.ty f.a l) f.imm) s

/-- `BFI` (R147). -/
def execBfi (f : FmtA) (s : State) : Host.Outcome State Fault Refusal :=
  alu (.bfi f) (fun c l => fieldInsert f.ty (c.nat f.ty f.a l) (c.read32 f.b l) (c.nat f.ty f.c l)) s

/-- `MOV` (R148). -/
def execMov (f : FmtA) (s : State) : Host.Outcome State Fault Refusal :=
  alu (.mov f) (fun c l => c.readTy f.ty f.a l) s

/-- `MOV` of an immediate (R148, R127). -/
def execMovImm (f : FmtI) (s : State) : Host.Outcome State Fault Refusal :=
  alu (.movImm f) (fun _ _ => immValue f.ty f.imm) s

/-- `MOVH` (R148): the low register of the destination is unchanged. -/
def execMovh (f : FmtA) (s : State) : Host.Outcome State Fault Refusal :=
  alu (.movh f) (fun c l => pair64 (c.read32 f.dst l) (c.read32 f.a l)) s

/-- `MOVH` of an immediate (R148). -/
def execMovhImm (f : FmtI) (s : State) : Host.Outcome State Fault Refusal :=
  alu (.movhImm f) (fun c l => pair64 (c.read32 f.dst l) f.imm) s

/-- `SEL` (R143): bit OPT[4:0] of opC chooses. -/
def execSel (f : FmtA) (s : State) : Host.Outcome State Fault Refusal :=
  alu (.sel f) (fun c l => if (c.read32 f.c l).getLsbD (f.opt.extractLsb' 0 5).toNat then c.readTy f.ty f.a l else c.readTy f.ty f.b l) s

/-- The number of the register that `MOVI` reads in a lane (R149). -/
def moviIndex (f : FmtA) (c : Ctx) (l : Nat) : Nat := regNum f.a + ((c.read32 f.b l).extractLsb' 0 8).toNat

/-- The register that a `MOVI` reads in a lane is no register of its class, or an odd one with a 64-bit type (R149). -/
def moviIllegal (f : FmtA) (c : Ctx) (l : Nat) : Bool :=
  (decide (tyRegs f.ty = 2) && decide (moviIndex f c l % 2 = 1)) || (isS f.a && decide (63 < moviIndex f c l))

/-- The register lies above the allotment (R149). -/
def moviForbidden (f : FmtA) (c : Ctx) (l : Nat) : Bool := !isS f.a && decide (c.g.allot < moviIndex f c l + tyRegs f.ty)

/-- What forbids a `MOVI` (R149). An illegal register in any lane comes before one above the allotment in any lane (DEDUCED, row 42 of notes/assumptions: the order of
R130). -/
def moviTrouble (f : FmtA) (c : Ctx) (ls : List Nat) : Option Trouble :=
  if ls.any (moviIllegal f c) then some c.fatalIllegal else if ls.any (moviForbidden f c) then some (fatalPermission 0) else none

/-- `MOVI` (R149): the register q + j of the class of SRCA. -/
def execMovi (f : FmtA) (s : State) : Host.Outcome State Fault Refusal :=
  issue (.movi f) (fun c s =>
    match row? (.movi f) with
    | none => .ok s
    | some r =>
      match moviTrouble f c (c.aluLanes r) with
      | some t => .error t
      | none => .ok (s.writeAlu c r ((c.aluLanes r).map (fun l => (l, c.g.readReg (!isS f.a) (tyRegs f.ty) (moviIndex f c l) l))) [])) s

end Sys2Proof.Machine
end

