-- ==== Sys2Proof/Machine/Fp.lean ====
section
/-! DEFINITION. Floating-point instructions on registers (R150 to R154). -/

namespace Sys2Proof.Machine

/-! ### Shared operations -/

/-- Applies a function to each element of operands of a type (R93, R150): the bits of the elements in, the result and its exceptions out. -/
def fpMap (t : Ty) (ds : List DWord) (F : Fp → List Nat → Nat × Exc) : DWord × Exc :=
  match tyFp t with
  | some (f, 1) => let r := F f (ds.map BitVec.toNat); (BitVec.ofNat 64 r.1, r.2)
  | some (f, _) =>
    let e (k : Nat) : Nat × Exc := F f (ds.map (fun d => (d.extractLsb' (16 * k) 16).toNat))
    (BitVec.ofNat 64 ((e 0).1 % 65536 + (e 1).1 % 65536 * 65536), (e 0).2 ||| (e 1).2)
  | none => (0, 0)

/-- Two and three operands of an element. -/
def fp1 (F : Fp → FVal → Nat × Exc) : Fp → List Nat → Nat × Exc
  | f, a :: _ => F f (f.unpack a)
  | _, _ => (0, 0)
def fp2 (F : Fp → FVal → FVal → Nat × Exc) : Fp → List Nat → Nat × Exc
  | f, a :: b :: _ => F f (f.unpack a) (f.unpack b)
  | _, _ => (0, 0)
def fp3 (F : Fp → FVal → FVal → FVal → Nat × Exc) : Fp → List Nat → Nat × Exc
  | f, a :: b :: x :: _ => F f (f.unpack a) (f.unpack b) (f.unpack x)
  | _, _ => (0, 0)

/-- The source that is subtracted: its sign changes unless it is a NaN (R101, R150). -/
def Fp.subV (f : Fp) (m : Mode) (a b : FVal) : Nat × Exc := f.addV m a b.neg

/-- The exponents of `FSCALE` (R150): one 32-bit integer, or one 16-bit integer for each element. -/
def scaleMap (t : Ty) (m : Mode) (a : DWord) (b : Word) : DWord × Exc :=
  match tyFp t with
  | some (f, 1) => let r := f.scaleV m (f.unpack a.toNat) b.toInt; (BitVec.ofNat 64 r.1, r.2)
  | some (f, _) =>
    let e (k : Nat) : Nat × Exc := f.scaleV m (f.unpack (a.extractLsb' (16 * k) 16).toNat) (b.extractLsb' (16 * k) 16).toInt
    (BitVec.ofNat 64 ((e 0).1 % 65536 + (e 1).1 % 65536 * 65536), (e 0).2 ||| (e 1).2)
  | none => (0, 0)

/-- `FCLASS` of the elements (R152). -/
def classMap (t : Ty) (a : DWord) : DWord :=
  match tyFp t with
  | some (f, 1) => BitVec.ofNat 64 (2 ^ f.class (f.unpack a.toNat))
  | some (f, _) =>
    let e (k : Nat) : Nat := 2 ^ f.class (f.unpack (a.extractLsb' (16 * k) 16).toNat)
    BitVec.ofNat 64 (e 0 + e 1 * 65536)
  | none => 0

/-- `FSET` of the elements (R153). -/
def setMap (t : Ty) (cc : Nat) (a b : DWord) : DWord × Exc :=
  match tyFp t with
  | some (f, 1) => let r := fpCond cc (f.unpack a.toNat) (f.unpack b.toNat); (flag r.1, r.2)
  | some (f, _) =>
    let e (k : Nat) : Bool × Exc :=
      fpCond cc (f.unpack (a.extractLsb' (16 * k) 16).toNat) (f.unpack (b.extractLsb' (16 * k) 16).toNat)
    (BitVec.ofNat 64 ((if (e 0).1 then 1 else 0) + (if (e 1).1 then 2 else 0)), (e 0).2 ||| (e 1).2)
  | none => (0, 0)

/-- The sign bits of the elements. -/
def signBits (t : Ty) : DWord :=
  match t with
  | .f64 => 0x8000000000000000
  | .f32 => 0x80000000
  | _ => 0x80008000

/-! ### The instructions -/

/-- `FADD` (R150). -/
def execFadd (f : FmtA) (s : State) : Host.Outcome State Fault Refusal :=
  aluExc (.fadd f) (fun c l => fpMap f.ty [c.readTy f.ty f.a l, c.readTy f.ty f.b l] (fp2 (fun p => p.addV (modeOf f.rm 0)))) s

/-- `FADD` with an immediate (R150). -/
def execFaddImm (f : FmtI) (s : State) : Host.Outcome State Fault Refusal :=
  aluExc (.faddImm f) (fun c l => fpMap f.ty [c.readTy f.ty f.a l, immValue f.ty f.imm] (fp2 (fun p => p.addV (modeOf (immRm f) 0)))) s

/-- `FSUB` (R150). -/
def execFsub (f : FmtA) (s : State) : Host.Outcome State Fault Refusal :=
  aluExc (.fsub f) (fun c l => fpMap f.ty [c.readTy f.ty f.a l, c.readTy f.ty f.b l] (fp2 (fun p => p.subV (modeOf f.rm 0)))) s

/-- `FSUB` with an immediate (R150). -/
def execFsubImm (f : FmtI) (s : State) : Host.Outcome State Fault Refusal :=
  aluExc (.fsubImm f) (fun c l => fpMap f.ty [c.readTy f.ty f.a l, immValue f.ty f.imm] (fp2 (fun p => p.subV (modeOf (immRm f) 0)))) s

/-- `FMUL` (R150). -/
def execFmul (f : FmtA) (s : State) : Host.Outcome State Fault Refusal :=
  aluExc (.fmul f) (fun c l => fpMap f.ty [c.readTy f.ty f.a l, c.readTy f.ty f.b l] (fp2 (fun p => p.mulV (modeOf f.rm 0)))) s

/-- `FMUL` with an immediate (R150). -/
def execFmulImm (f : FmtI) (s : State) : Host.Outcome State Fault Refusal :=
  aluExc (.fmulImm f) (fun c l => fpMap f.ty [c.readTy f.ty f.a l, immValue f.ty f.imm] (fp2 (fun p => p.mulV (modeOf (immRm f) 0)))) s

/-- `FFMA` (R150). -/
def execFfma (f : FmtA) (s : State) : Host.Outcome State Fault Refusal :=
  aluExc (.ffma f) (fun c l => fpMap f.ty [c.readTy f.ty f.a l, c.readTy f.ty f.b l, c.readTy f.ty f.c l] (fp3 (fun p => p.fmaV (modeOf f.rm 0)))) s

/-- `FFMA` with an immediate addend (R150). -/
def execFfmaImm (f : FmtI) (s : State) : Host.Outcome State Fault Refusal :=
  aluExc (.ffmaImm f) (fun c l => fpMap f.ty [c.readTy f.ty f.a l, c.readTy f.ty f.b l, immValue f.ty f.imm] (fp3 (fun p => p.fmaV (modeOf (immRm f) 0)))) s

/-- `FSQRT` (R150). -/
def execFsqrt (f : FmtA) (s : State) : Host.Outcome State Fault Refusal :=
  aluExc (.fsqrt f) (fun c l => fpMap f.ty [c.readTy f.ty f.a l] (fp1 (fun p => p.sqrtV (modeOf f.rm 0)))) s

/-- `FSCALE` (R150). -/
def execFscale (f : FmtA) (s : State) : Host.Outcome State Fault Refusal :=
  aluExc (.fscale f) (fun c l => scaleMap f.ty (modeOf f.rm 0) (c.readTy f.ty f.a l) (c.read32 f.b l)) s

/-- `FSCALE` with an immediate exponent (R150). -/
def execFscaleImm (f : FmtI) (s : State) : Host.Outcome State Fault Refusal :=
  aluExc (.fscaleImm f) (fun c l => scaleMap f.ty (modeOf (immRm f) 0) (c.readTy f.ty f.a l) f.imm) s

/-- `FMIN` (R151). -/
def execFmin (f : FmtA) (s : State) : Host.Outcome State Fault Refusal :=
  aluExc (.fmin f) (fun c l => fpMap f.ty [c.readTy f.ty f.a l, c.readTy f.ty f.b l] (fun p xs => p.minmax false (xs.headD 0) ((xs.drop 1).headD 0))) s

/-- `FMIN` with an immediate (R151). -/
def execFminImm (f : FmtI) (s : State) : Host.Outcome State Fault Refusal :=
  aluExc (.fminImm f) (fun c l => fpMap f.ty [c.readTy f.ty f.a l, immValue f.ty f.imm] (fun p xs => p.minmax false (xs.headD 0) ((xs.drop 1).headD 0))) s

/-- `FMAX` (R151). -/
def execFmax (f : FmtA) (s : State) : Host.Outcome State Fault Refusal :=
  aluExc (.fmax f) (fun c l => fpMap f.ty [c.readTy f.ty f.a l, c.readTy f.ty f.b l] (fun p xs => p.minmax true (xs.headD 0) ((xs.drop 1).headD 0))) s

/-- `FMAX` with an immediate (R151). -/
def execFmaxImm (f : FmtI) (s : State) : Host.Outcome State Fault Refusal :=
  aluExc (.fmaxImm f) (fun c l => fpMap f.ty [c.readTy f.ty f.a l, immValue f.ty f.imm] (fun p xs => p.minmax true (xs.headD 0) ((xs.drop 1).headD 0))) s

/-- `FABS` (R152). -/
def execFabs (f : FmtA) (s : State) : Host.Outcome State Fault Refusal :=
  alu (.fabs f) (fun c l => c.readTy f.ty f.a l &&& ~~~signBits f.ty) s

/-- `FNEG` (R152). -/
def execFneg (f : FmtA) (s : State) : Host.Outcome State Fault Refusal :=
  alu (.fneg f) (fun c l => (c.readTy f.ty f.a l) ^^^ signBits f.ty) s

/-- `FCLASS` (R152). -/
def execFclass (f : FmtA) (s : State) : Host.Outcome State Fault Refusal :=
  alu (.fclass f) (fun c l => classMap f.ty (c.readTy f.ty f.a l)) s

/-- `FSET` (R153). -/
def execFset (f : FmtA) (s : State) : Host.Outcome State Fault Refusal :=
  aluExc (.fset f) (fun c l => setMap f.ty (f.opt.extractLsb' 0 3).toNat (c.readTy f.ty f.a l) (c.readTy f.ty f.b l)) s

/-- `FSET` with an immediate (R153). -/
def execFsetImm (f : FmtI) (s : State) : Host.Outcome State Fault Refusal :=
  aluExc (.fsetImm f) (fun c l => setMap f.ty (immCc f) (c.readTy f.ty f.a l) (immValue f.ty f.imm)) s

/-- `FRCP` (R154). -/
def execFrcp (f : FmtA) (s : State) : Host.Outcome State Fault Refusal :=
  aluExc (.frcp f) (fun c l => fpMap f.ty [c.readTy f.ty f.a l] (fp1 Fp.rcpV)) s

/-- `FRSQ` (R154). -/
def execFrsq (f : FmtA) (s : State) : Host.Outcome State Fault Refusal :=
  aluExc (.frsq f) (fun c l => fpMap f.ty [c.readTy f.ty f.a l] (fp1 Fp.rsqV)) s

/-- `FEXP2` (R154). -/
def execFexp2 (f : FmtA) (s : State) : Host.Outcome State Fault Refusal :=
  aluExc (.fexp2 f) (fun c l => fpMap f.ty [c.readTy f.ty f.a l] (fp1 (fun _ => exp2V))) s

/-- `FLOG2` (R154). -/
def execFlog2 (f : FmtA) (s : State) : Host.Outcome State Fault Refusal :=
  aluExc (.flog2 f) (fun c l => fpMap f.ty [c.readTy f.ty f.a l] (fp1 (fun _ => log2V))) s

/-- `FSIN` (R154). -/
def execFsin (f : FmtA) (s : State) : Host.Outcome State Fault Refusal :=
  aluExc (.fsin f) (fun c l => fpMap f.ty [c.readTy f.ty f.a l] (fp1 (fun _ => trigV false))) s

/-- `FCOS` (R154). -/
def execFcos (f : FmtA) (s : State) : Host.Outcome State Fault Refusal :=
  aluExc (.fcos f) (fun c l => fpMap f.ty [c.readTy f.ty f.a l] (fp1 (fun _ => trigV true))) s

end Sys2Proof.Machine
end

