-- ==== Sys2Proof/Machine/Conv.lean ====
section
/-! DEFINITION. Conversions on registers (R155 to R158). -/

namespace Sys2Proof.Machine

/-- The integer type of a conversion code: signed, and its bits (R155). -/
def cvtInt? (code : Nat) : Option (Bool × Nat) :=
  match code with
  | 0 => some (true, 32)
  | 1 => some (false, 32)
  | 2 => some (true, 64)
  | 12 => some (true, 8)
  | 13 => some (false, 8)
  | _ => none

/-- The float format of a conversion code (R155). -/
def cvtFp? (code : Nat) : Option Fp :=
  match code with
  | 3 => some .f32
  | 4 => some .f64
  | 5 => some .f16
  | 6 => some .bf16
  | 7 => some .e4m3
  | 8 => some .e5m2
  | 9 => some .e3m2
  | 10 => some .e2m3
  | 11 => some .e2m1
  | _ => none

/-- The integer that the low `n` bits hold. -/
def intBits (signed : Bool) (n x : Nat) : Int :=
  let v := x % 2 ^ n
  if signed ∧ 2 ^ (n - 1) ≤ v then (v : Int) - 2 ^ n else v

/-- An integer as a destination of `n` bits holds it: a signed 8-bit one is sign-extended (R155). -/
def putInt (signed : Bool) (n : Nat) (x : Int) : DWord :=
  if n = 64 then BitVec.ofInt 64 x
  else if n = 8 ∧ !signed then (BitVec.ofInt 8 x).zeroExtend 64
  else if n = 8 then (((BitVec.ofInt 8 x).signExtend 32 : Word)).zeroExtend 64
  else (BitVec.ofInt 32 x).zeroExtend 64

/-- The range of an integer destination. -/
def clampInt (signed : Bool) (n : Nat) (x : Int) : Int :=
  if signed then min (max x (-2 ^ (n - 1))) (2 ^ (n - 1) - 1) else min (max x 0) (2 ^ n - 1)

/-- A float value to an integer type: always saturating (R156). -/
def fpToInt (signed : Bool) (n : Nat) (mode : Mode) (x : FVal) : DWord × Exc :=
  match x with
  | .nan _ _ _ => (0, excInvalid)
  | .inf neg => (putInt signed n (clampInt signed n (if neg then -2 ^ 64 else 2 ^ 64)), excInvalid)
  | .fin neg m e =>
    let (q, exact) := roundToInt mode neg m e
    let y := clampInt signed n q
    (putInt signed n y, if y ≠ q then excInvalid else if exact then 0 else excInexact)

/-- One value converted (R156). -/
def cvtValue (sty dty : Nat) (mode : Mode) (sat : Bool) (x : Nat) : DWord × Exc :=
  match cvtInt? sty, cvtFp? sty, cvtInt? dty, cvtFp? dty with
  | some (sg, n), _, some (sg', n'), _ =>
    let v := intBits sg n x
    (putInt sg' n' (if sat then clampInt sg' n' v else intBits sg' n' (v % 2 ^ n').toNat), 0)
  | some (sg, n), _, _, some g =>
    let v := intBits sg n x
    let r := g.round mode sat (decide (v < 0)) v.natAbs 0
    (BitVec.ofNat 64 r.1, r.2)
  | _, some f, some (sg', n'), _ => fpToInt sg' n' mode (f.unpack (x % 2 ^ (f.width + 1)))
  | _, some f, _, some g =>
    let b := x % 2 ^ (f.width + 1)
    let v := f.unpack b
    if f = g then
      match v with
      | .nan neg false p => (BitVec.ofNat 64 (f.quietNan neg p), excInvalid)
      | _ => (BitVec.ofNat 64 b, 0)
    else
      let r := fpConvert f g mode sat v
      (BitVec.ofNat 64 r.1, r.2)
  | _, _, _, _ => (0, 0)

/-- The row of the stochastic hash for a register conversion (R104): the thread in lane form, the group's `GID` in scalar form. -/
def State.srRow (s : State) (c : Ctx) (dst : Opd) (l : Nat) : Nat :=
  let team := ((s.core c.core).team.map (fun t => t.teamId)).getD 0
  1024 * team + (if isS dst then c.g.lowTid else c.g.tid l)

/-- `SRSEED` of the core's team. -/
def State.srSeed (s : State) (core : Nat) : Nat := ((s.core core).team.map (fun t => t.srseed.toNat)).getD 0

/-- `CVT` (R156). -/
def execCvt (f : FmtA) (s : State) : Host.Outcome State Fault Refusal :=
  aluExc (.cvt f) (fun c l =>
    cvtValue (cvtSty f) (cvtDty f) (modeOf f.rm (srHash (s.srSeed c.core) (s.srRow c f.dst l) 0 (c.read32 f.b l).toNat)) f.sat
      (c.read (cvtRegs (cvtSty f)) f.a l).toNat) s

/-- `CVTS` (R157): two FP32 values, rounded stochastically and packed. -/
def execCvts (f : FmtA) (s : State) : Host.Outcome State Fault Refusal :=
  aluExc (.cvts f) (fun c l =>
    let g : Fp := (cvtFp? (cvtDty f)).getD .f16
    let e (k : Nat) (o : Opd) : Nat × Exc :=
      fpConvert .f32 g (.sr (srHash (s.srSeed c.core) (s.srRow c f.dst l) k (c.read32 f.c l).toNat)) f.sat
        (Fp.f32.unpack (c.read32 o l).toNat)
    (BitVec.ofNat 64 ((e 0 f.a).1 + (e 1 f.b).1 * 2 ^ (g.width + 1)), (e 0 f.a).2 ||| (e 1 f.b).2)) s

/-- `CVTU` (R158): one narrow element, times a scale. -/
def execCvtu (f : FmtA) (s : State) : Host.Outcome State Fault Refusal :=
  alu (.cvtu f) (fun c l =>
    let w := (c.read32 f.a l).toNat
    let i := (c.read32 f.b l).toNat
    let k := cvtDty f
    let e := if k = 11 then w / 2 ^ (4 * (i % 8)) % 16 else w / 2 ^ (8 * (i % 4)) % 256
    match cvtInt? k, cvtFp? k with
    | some (sg, n), _ => (BitVec.ofInt 32 (intBits sg n e)).zeroExtend 64
    | _, some g =>
      let sc := if f.opt.getLsbD 0 then e8m0 ((c.read32 f.c l).extractLsb' 0 8).toNat else some (1, 0)
      BitVec.ofNat 64 (decodeElem sc (g.unpack e))
    | _, _ => 0) s

end Sys2Proof.Machine
end

