-- ==== Sys2Proof/Machine/Threads.lean ====
section
/-! DEFINITION. Threads of a team: the commit token (R282, R283), the deck (R49), seating a group, retiring one, joins (R51), barriers (R55). -/

namespace Sys2Proof.Machine

/-! ### The commit token -/

/-- The keys of a group's threads (R282). -/
def keysOf (teamId : Nat) (g : Group) : List Nat := g.tids.map (fun t => 1024 * teamId + t)

/-- The smallest key from `k` on of a grid of `teams` teams with `thr` threads each that is not in `out`. -/
def nextKey (teams thr : Nat) (out : List Nat) : Nat → Nat → Option Nat
  | _, 0 => none
  | k, fuel + 1 =>
    if 1024 * teams ≤ k then none
    else if thr ≤ k % 1024 then nextKey teams thr out ((k / 1024 + 1) * 1024) fuel
    else if out.contains k then nextKey teams thr out (k + 1) fuel
    else some k

/-- The key after a pass from a holder with keys `own` (R283). -/
def passedKey (teams thr : Nat) (gone own : List Nat) (k : Nat) : Option Nat :=
  let out := gone ++ own
  let fuel := 2 * out.length + 4
  match nextKey teams thr out (k + 1) fuel with
  | some x => some x
  | none =>
    match nextKey teams thr out 0 fuel with
    | some x => some x
    | none =>
      if !gone.contains k then some k
      else
        match (sortBy id own).find? (fun x => !gone.contains x) with
        | some x => some x
        | none => none

/-- Threads of a team (R350). -/
def Packet.threads (p : Packet) : Nat := 32 * p.groups

/-- The groups of a core that hold the token come to owe its acquire (R285). -/
def State.dueOn (s : State) (core : Nat) (c : Core) : Core :=
  c.groups.foldl (fun c p => if s.holdsToken core p.2 then c.setGroup p.1 { p.2 with acqDue := true } else c) c

/-- The group that comes to hold the token of a grid acquires at device scope before it performs what the token gates (R285). -/
def State.tokenDue (s : State) (owner grid : Nat) : State :=
  { s with cores := s.cores.map (fun p =>
      match p.2.team with
      | some t => if t.owner = owner ∧ t.grid = grid then (p.1, s.dueOn p.1 p.2) else p
      | none => p) }

/-- A pass by the holding group (R283, R285): the key moves, PASS counts it, the next holder acquires. -/
def State.passToken (s : State) (core seat : Nat) : State :=
  match (s.core core).team, s.gridOf core, s.group? core seat with
  | some t, some gr, some g =>
    match gr.key with
    | none => s
    | some k =>
      let own := keysOf t.teamId g
      let key := passedKey gr.packet.teams gr.packet.threads gr.gone own k
      let s := s.modOwner t.owner (fun o => o.modGrid t.grid (fun x => { x with key := key }))
      let s := s.modGroup core seat (fun g => { g with pass := (g.pass + 1) % 65536, acqDue := false })
      if key == some k then s else s.tokenDue t.owner t.grid
  | _, _, _ => s

/-- A pass when the group holds the token (R283, R186). -/
def State.tokenPass (s : State) (core seat : Nat) : State :=
  match s.group? core seat with
  | some g => if s.det core && s.holdsToken core g then s.passToken core seat else s
  | none => s

/-! ### The deck (R49) -/

/-- A store of the device's own for a group, to the global window (R49, R289). -/
def State.deviceStore (s : State) (core seat va : Nat) (bs : List Byte) : State :=
  let g := s.group? core seat
  let o : MemOp := { MemOp.blank with
    kind := .systemStore, seat := seat, uid := (g.map (fun g => g.uid)).getD 0, tids := (g.map (fun g => g.tids)).getD [], quad := quadOf seat,
    lgid := s.lgid core seat, pc := (g.map (fun g => g.pc)).getD 0, issued := s.now core, region := none,
    acc := [{ lane := 0, ga := BitVec.ofNat 64 va, va := va, bytes := bs.length, data := bs, cmp := [], res := [], bad := false }] }
  s.startOp core (s.now core) o

/-- Bytes of a spawn record. -/
def deckBytes (l : Nat) : Nat := 16 + (4 * l + 15) / 16 * 16

/-- Bytes of the deck in use. -/
def deckUsed (d : List DeckRec) : Nat := ((d.filter (fun r => !r.overflow)).map (fun r => deckBytes r.l)).foldl (· + ·) 0

/-- The record of the thread in lane `l` of a group. -/
def Group.record (g : Group) (teamId now pc bud live : Nat) (jwait : Option Nat) (tcheck : Bool) (l : Nat) : DeckRec :=
  let th := (mget g.threads l).getD { tid := 0, jmask := 0 }
  { pc := pc, tid := th.tid, l := live, bud := bud, jmask := th.jmask, jn := jwait.getD 0, jwait := jwait.isSome, tcheck := tcheck,
    stamp := now % 2 ^ 32, regs := (List.range live).map (fun r => g.vreg r l), overflow := false, trapv := g.trapv,
    lgid := lgidOf teamId g, segs := (g.segsp, g.segst, g.seggl), bundle := none, due := false }

/-- Adds a record: in the overflow area once the deck is full. -/
def deckAdd (d : List DeckRec) (r : DeckRec) : List DeckRec :=
  d ++ [{ r with overflow := decide (Config.deckBytes < deckUsed d + deckBytes r.l) }]

/-- The bytes of a spawn record. -/
def DeckRec.bytes (r : DeckRec) : List Byte :=
  leBytes 16 (r.stamp * 2 ^ 96 + (if r.tcheck then 2 ^ 92 else 0) + (if r.jwait then 2 ^ 91 else 0) + r.jn % 8 * 2 ^ 88 + r.jmask.toNat * 2 ^ 80
      + r.bud / 8 % 64 * 2 ^ 72 + r.l % 64 * 2 ^ 64 + r.tid % 1024 * 2 ^ 48 + r.pc % 2 ^ 48)
    ++ r.regs.flatMap (fun w => leBytes 4 w.toNat) ++ List.replicate (deckBytes r.l - 16 - 4 * r.l) 0

/-- Where the record of a thread stands in its team's deck-overflow area: 144 bytes for each `TID` (DESIGN CHOICE, row 19 of notes/assumptions). -/
def State.overflowAt (s : State) (core teamId tid : Nat) : Nat :=
  ((s.gridOf core).map (fun g => g.packet.dovb.toNat)).getD 0 + 147456 * teamId + 144 * tid

/-- Adds records to the deck: those beyond it are stored in the overflow area, for the group of a seat. -/
def State.addRecords (s : State) (core seat : Nat) (rs : List DeckRec) : State :=
  match (s.core core).team with
  | none => s
  | some t =>
    let deck := rs.foldl deckAdd t.deck
    let s := s.modTeam core (fun t => { t with deck := deck })
    ((deck.drop t.deck.length).filter (fun r => r.overflow)).foldl (fun s r => s.deviceStore core seat (s.overflowAt core t.teamId r.tid) r.bytes) s

/-- Writes the threads in lanes `ls` of a seated group to the deck; the group keeps the others. -/
def State.toDeck (s : State) (core seat : Nat) (ls : List Nat) (pc bud live : Nat) (jwait : Option Nat) (tcheck : Bool) : State :=
  match (s.core core).team, s.group? core seat with
  | some t, some g =>
    let rs := (sortBy g.tid ls).map (g.record t.teamId (s.now core) pc bud live jwait tcheck)
    (s.addRecords core seat rs).modGroup core seat
      (fun g => { g with threads := g.threads.filter (fun p => !ls.contains p.1) })
  | _, _ => s

/-! ### Retiring and seating -/

/-- A group leaves its seat, which becomes a blank (R43, R52): its handles are released as by `HFREE`, its origins given up, and what it asked for is
withdrawn. -/
def State.vacate (s : State) (core seat : Nat) : State :=
  match s.group? core seat with
  | none => s
  | some g =>
    let s := s.dropRegion core seat
    let s := s.modCore core (fun c =>
      let c := (c.releaseFrom seat 0).modQuad (quadOf seat) (fun q => g.origins.foldl Quad.dropOrigin q)
      let c := g.mmx.foldl (fun c h => c.unpend h.slots) c
      { c with
        seats := mset c.seats seat .blank,
        demands := c.demands.filter (fun d => d.seat != seat),
        mailWaits := c.mailWaits.filter (fun w => w.2.1 != seat) })
    s.modCore core (fun c => c.endPlayOf seat)

/-- A record with nothing in it. -/
def DeckRec.blank : DeckRec :=
  { pc := 0, tid := 0, l := 0, bud := 0, jmask := 0, jn := 0, jwait := false, tcheck := false, stamp := 0, regs := [], overflow := false,
    trapv := 0, lgid := 0, segs := (0, 0, 0), bundle := none, due := false }

/-- The record that came from the group of the lowest logical id (R324). -/
def lowestRecord : List DeckRec → DeckRec
  | [] => .blank
  | r :: rs => rs.foldl (fun a b => if b.lgid < a.lgid then b else a) r

/-- A group of threads as the dealer seats it (R50, R324): scalar registers zero, handle permission 2, no origin. -/
def Group.dealt (uid pc allot : Nat) (ts : List DeckRec) : Group :=
  let r := lowestRecord ts
  let lanes := (List.range ts.length).zip ts
  { threads := lanes.map (fun p => (p.1, { tid := p.2.tid, jmask := p.2.jmask })), pc := pc,
    vregs := lanes.foldl (fun vs p => ((List.range (min p.2.l 256)).zip p.2.regs).foldl (fun vs q => sset 0 vs (vkey q.1 p.1) q.2) vs) [],
    sregs := [], allot := allot, hperm := 2, origins := [], handles := [], marks := [], lines := [], tcheck := ts.any (fun r => r.tcheck),
    trapv := r.trapv, trapc := 0, trapa := 0, trapm := 0, handling := none, mmx := [], segsp := r.segs.1, segst := r.segs.2.1,
    seggl := r.segs.2.2, rcnt := 0, pass := 0, csn := 0, region := none, wait := none, wake := 0, fpe := [], faultWord := 0,
    uid := uid, half := none, remote := none, reads := none, late := [], acqDue := false }

/-- Seats a group: it starts its first region, and its line is requested (R246, R275). -/
def State.seat (s : State) (core seat : Nat) (g : Group) : State :=
  let now := s.now core
  let s := s.modCore core (fun c =>
    ({ c with nextUid := c.nextUid + 1 }.setGroup seat { g with uid := c.nextUid }).requestLine seat (g.pc / 64 * 64) now false)
  let s := s.newRegion core seat
  s.modGroup core seat (fun g => { g with acqDue := s.det core && s.holdsToken core g })

/-- A rise of the register allotment that an instruction other than `ACQ` brings (R51, R53): at once when it can be granted, else the group waits. -/
def State.riseTo (s : State) (core seat regs : Nat) : State :=
  match s.group? core seat with
  | none => s
  | some g =>
    if regs ≤ g.allot then s.modGroup core seat (fun g => { g.cutRegs regs with allot := regs })
    else if (s.core core).canRise seat (regs - g.allot) 0 then s.modGroup core seat (fun g => { g with allot := regs })
    else
      (s.modCore core (fun c => c.ask
        { seat := seat, lgid := s.lgid core seat, since := s.now core, regs := regs - g.allot, orgs := 0, slots := 0, handle := 0, granted := false })).modGroup
        core seat (fun g => { g with wait := some (.rise regs) })

/-! ### Joins (R51) -/

def Team.join (t : Team) (n : Nat) : Join := (mget t.joins n).getD { e := 0, a := 0, budget := 0 }

def State.modJoin (s : State) (core n : Nat) (f : Join → Join) : State :=
  s.modTeam core (fun t => { t with joins := mset t.joins n (f (t.join n)) })

/-- Held seats of a join counter, ascending, with their groups and the figures of their wait. -/
def Core.heldSeats (c : Core) (n : Nat) : List (Nat × Group × Nat × Nat) :=
  c.groups.filterMap (fun p => match p.2.wait with
    | some (.join jn live pc) => if jn = n then some (p.1, p.2, live, pc) else none
    | _ => none)

/-- Sets of threads by PC, each in ascending `TID`, the sets in ascending lowest `TID`. -/
def byPc (rs : List DeckRec) : List (List DeckRec) :=
  let rs := sortBy (fun r => r.tid) rs
  let pcs := rs.foldl (fun ps r => if ps.contains r.pc then ps else ps ++ [r.pc]) []
  pcs.map (fun p => rs.filter (fun r => r.pc == p))

/-- Cuts a list into pieces of 32. -/
def cut32 {α : Type} : Nat → List α → List (List α)
  | 0, _ => []
  | k + 1, xs => if xs.isEmpty then [] else xs.take 32 :: cut32 k (xs.drop 32)

/-- Completes a join (R51): the arrived threads are re-dealt, into the held seats first; further groups go to free seats through the deck, and a held
seat left over becomes a blank. The group of a held seat keeps the handle permission of the seat, and an MMX that is held for it (DESIGN CHOICE, row 19 of notes/assumptions). -/
def State.completeJoin (s : State) (core n : Nat) : State :=
  match (s.core core).team with
  | none => s
  | some t =>
    let now := s.now core
    let held := (s.core core).heldSeats n
    let inDeck := t.deck.filter (fun r => r.jwait && r.jn == n)
    let clear (r : DeckRec) : DeckRec := { r with jwait := false, jn := 0, jmask := r.jmask &&& ~~~((1 : BitVec 8) <<< n), tcheck := false }
    let all := (inDeck ++ held.flatMap (fun h => h.2.1.lanes.map (h.2.1.record t.teamId now (nextPc h.2.2.2) h.2.1.allot h.2.2.1 none false))).map clear
    let budget := (t.join n).budget
    let groups := (byPc all).flatMap (fun rs => cut32 33 rs)
    let s := s.modTeam core (fun t => { t with
      deck := t.deck.filter (fun r => !(r.jwait && r.jn == n)),
      joins := mset t.joins n { e := 0, a := 0, budget := 0 } })
    let s := (held.zip groups).foldl (fun s p =>
      let (seat, g, _, _) := p.1
      let s := s.dropRegion core seat
      let ng := Group.dealt 0 ((p.2.head?.map (fun r => r.pc)).getD 0) g.allot p.2
      let s := s.seat core seat { ng with hperm := g.hperm, origins := g.origins, handles := g.handles, mmx := g.mmx, wake := now + 1 }
      let s := if p.2.any (fun r => r.bad) then s.groupFatal core seat 0x27 0 0 else s
      s.riseTo core seat budget) s
    let s := (held.drop groups.length).foldl (fun s h => s.vacate core h.1) s
    (groups.drop held.length).foldl (fun s rs =>
      let b := (rs.head?.map (fun r => r.tid)).getD 0
      s.addRecords core ((held.head?.map (fun h => h.1)).getD 0)
        (rs.map (fun r => { r with bundle := some b, bud := budget, stamp := now % 2 ^ 32, due := !s.det core }))) s

/-- Tests a join after its counts change (R51, R52). -/
def State.testJoin (s : State) (core n : Nat) : State :=
  match (s.core core).team with
  | some t => if (t.join n).a = (t.join n).e ∧ (t.join n).a ≠ 0 then s.completeJoin core n else s
  | none => s

/-! ### Barriers (R55, R173) -/

/-- Threads of a team that have not exited. -/
def Team.alive (t : Team) : Nat := t.threads - t.exited.length

/-- A barrier that nothing has touched: full membership of `c` threads. -/
def Barrier.fresh (c : Nat) : Barrier := { c := c, a := 0, g := 0, counted := false, newA := 0, newC := none, ord := 0 }

/-- A barrier of a team; a cluster barrier of a team outside a declared cluster stands in the team, from number 16 on. -/
def State.barrier (s : State) (core : Nat) (clu : Bool) (n : Nat) : Barrier :=
  match (s.core core).team with
  | none => .fresh 0
  | some t =>
    if clu then
      match t.cluster with
      | some (k, _) =>
        match mget (s.owner t.owner).clusters k with
        | some x => (mget x.barriers n).getD (.fresh x.alive)
        | none => .fresh 0
      | none => (mget t.barriers (16 + n)).getD (.fresh t.alive)
    else (mget t.barriers n).getD (.fresh t.alive)

def State.setBarrier (s : State) (core : Nat) (clu : Bool) (n : Nat) (b : Barrier) : State :=
  match (s.core core).team with
  | none => s
  | some t =>
    if clu then
      match t.cluster with
      | some (k, _) => s.modOwner t.owner (fun o => { o with clusters := mmod o.clusters k (fun x => { x with barriers := mset x.barriers n b }) })
      | none => s.modTeam core (fun t => { t with barriers := mset t.barriers (16 + n) b })
    else s.modTeam core (fun t => { t with barriers := mset t.barriers n b })

/-- Threads that exit lower C in full-membership mode (R55). -/
def Barrier.exits (b : Barrier) (n : Nat) : Barrier := if b.counted || b.newC.isSome then b else { b with c := b.c - n }

/-- The end of a cycle at a barrier (R175), with the count of a new full membership: the barrier, and whether its generation completed. -/
def Barrier.settle (b : Barrier) (full : Nat) : Barrier × Bool :=
  let b := match b.newC with
    | some c => { b with c := c, counted := true, newC := none }
    | none => b
  let b := { b with a := b.a + b.newA, newA := 0 }
  if b.c ≤ b.a ∧ 0 < b.a then
    ({ b with a := 0, g := b.g + 1, c := if b.counted then full else b.c, counted := false, ord := 0 }, true)
  else (b, false)

/-- `EXIT` lowers the expected counts of its team's and its cluster's barriers. -/
def State.barrierExits (s : State) (core n : Nat) : State :=
  match (s.core core).team with
  | none => s
  | some t =>
    let s := s.modTeam core (fun t => { t with barriers := t.barriers.map (fun p => (p.1, p.2.exits n)) })
    match t.cluster with
    | some (k, _) => s.modOwner t.owner (fun o =>
        { o with clusters := mmod o.clusters k (fun x => { x with alive := x.alive - n, barriers := x.barriers.map (fun p => (p.1, p.2.exits n)) }) })
    | none => s

/-- Releases the groups of a core that wait on a barrier whose generation has moved (R174, R175). -/
def State.releaseBarrier (s : State) (core : Nat) (clu : Bool) (n : Nat) (g : Nat) : State :=
  let now := s.now core
  ((s.core core).groups).foldl (fun s p =>
    match p.2.wait with
    | some (.barrier c num gen acq) =>
      if c = clu ∧ num = n ∧ gen ≠ g then
        let s := s.modGroup core p.1 (fun g => { g with wait := none, wake := now + 1 })
        let s := match acq with | some sc => s.modCore core (fun c => c.acquire sc) | none => s
        s.retired core p.1 p.2.uid 1
      else s
    | _ => s) s

/-- Settles the barriers of a core's team at the end of a cycle; a completion that orders at cluster scope or wider loses the L1's data lines (R75). -/
def State.settleTeam (s : State) (core : Nat) : State :=
  match (s.core core).team with
  | none => s
  | some t =>
    t.barriers.foldl (fun s p =>
      let (b, done) := p.2.settle t.alive
      let s := s.modTeam core (fun t => { t with barriers := mset t.barriers p.1 b })
      let s := if done && decide (2 ≤ p.2.ord) then s.modCore core Core.loseL1 else s
      s.releaseBarrier core (decide (16 ≤ p.1)) (p.1 % 16) b.g.toNat) s

/-- Settles the barriers of a declared cluster at the end of a cycle. -/
def State.settleCluster (s : State) (owner k : Nat) : State :=
  match mget (s.owner owner).clusters k with
  | none => s
  | some x =>
    x.barriers.foldl (fun s p =>
      let (b, done) := p.2.settle x.alive
      let s := s.modOwner owner (fun o => { o with clusters := mmod o.clusters k (fun x => { x with barriers := mset x.barriers p.1 b }) })
      let s := if done && decide (2 ≤ p.2.ord) then (x.cores.filter (fun c => c < Config.numCores)).foldl (fun s c => s.modCore c Core.loseL1) s else s
      x.cores.foldl (fun s c => s.releaseBarrier c true p.1 b.g.toNat) s) s

end Sys2Proof.Machine
end

