-- ==== Sys2Proof/Machine/Access.lean ====
section
/-! DEFINITION. Loads, stores, prefetches and full/empty bits (R198 to R201), atomics and `ATF` (R176 to R180). -/

namespace Sys2Proof.Machine

/-! ### Shared operations -/

/-- The accesses of an instruction by window, in ascending lane: memory, and scratchpad. A misaligned address, one in no window, and with `glob` one
outside the global window, is an address fault (R60, R62, R63, R198). -/
def State.gather (s : State) (c : Ctx) (bytes : Nat) (data cmp : Nat → List Byte) (glob : Bool) :
    List (Nat × DWord) → Except Trouble (List Access × List Access)
  | [] => .ok ([], [])
  | (l, a) :: as =>
    if a.toNat % bytes ≠ 0 then .error (fatalAddress a)
    else
      match s.place c l a with
      | none => .error (fatalAddress a)
      | some p =>
        let st := match p with | .mem _ st => st | .scratch _ => false
        let x (va : Nat) : Access :=
          { lane := l, ga := a, va := va, bytes := bytes, data := data l, cmp := cmp l, res := [], bad := false, stack := st }
        match p, State.gather s c bytes data cmp glob as with
        | _, .error e => .error e
        | .scratch o, .ok (m, r) => if glob then .error (fatalAddress a) else .ok (m, x o :: r)
        | .mem va st, .ok (m, r) => if glob && st then .error (fatalAddress a) else .ok (x va :: m, r)

/-- Bytes of an access. -/
def accSize (f : FmtM) : Nat := 2 ^ f.size.toNat

/-- Lanes that receive the one value of a scalar-form access (R196). -/
def Ctx.bcast (c : Ctx) (f : FmtM) (idx : Bool) : List Nat :=
  if isS (if idx then f.c else f.addr) && !isS f.dst then c.effLanes f.hdr.guard else []

/-- A load (R198): its destination stays pending until the answer. -/
def loadEffect (f : FmtM) (idx ldi : Bool) (c : Ctx) (s : State) : Effect :=
  match s.gather c (accSize f) (fun _ => []) (fun _ => []) (idx || ldi) (c.addrs f idx) with
  | .error t => .error t
  | .ok (m, r) =>
    let id := (s.core c.core).nextOp
    let o : MemOp := { c.op s (.load (f.hint.getLsbD 0) (!ldi && f.hint.getLsbD 1) ldi) with
      acc := m, scr := r, dst := regId? f.dst, size := accSize f, returning := true, bcast := c.bcast f idx,
      notBefore := if r.isEmpty then 0 else c.now + 4 }
    .ok ((s.modGroup c.core c.seat (fun g => g.markOp f.dst (sizeRegs f.size) id)).startOp c.core c.now o)

/-- The store fills an empty scratchpad line, which ends its region (R271, R275). -/
def State.fills (s : State) (c : Ctx) (r : List Access) : Bool := r.any (fun a => (s.core c.core).seenEmpty.contains (a.va / 128))

/-- A store (R198). -/
def storeEffect (f : FmtM) (idx : Bool) (c : Ctx) (s : State) : Effect :=
  match s.gather c (accSize f) (c.readBytes (accSize f) f.data) (fun _ => []) idx (c.addrs f idx) with
  | .error t => .error t
  | .ok (m, r) =>
    let o : MemOp := { c.op s .store with acc := m, scr := r, size := accSize f }
    let fill := s.fills c r
    let s := (s.regionOpen c.core o.region true).startOp c.core c.now o
    .ok (if fill then s.newRegion c.core c.seat else s)

/-- An atomic (R176, R177): it belongs to the region that it ends (R262, R275). -/
def atomEffect (f : FmtM) (op : AtomOp) (c : Ctx) (s : State) : Effect :=
  match s.gather c (accSize f) (c.readBytes (accSize f) f.data) (c.readBytes (accSize f) f.c) false (c.addrs f false) with
  | .error t => .error t
  | .ok (m, r) =>
    let id := (s.core c.core).nextOp
    let ret := !f.hint.getLsbD 3
    let o : MemOp := { c.op s (.atomic op) with
      acc := m, scr := r, dst := if ret then regId? f.dst else none, size := accSize f, returning := ret, bcast := if ret then c.bcast f false else [],
      acq := if semAcq f then some (atomScope f) else none, notBefore := if r.isEmpty then 0 else c.now + 4 }
    let s := if ret then s.modGroup c.core c.seat (fun g => g.markOp f.dst (sizeRegs f.size) id) else s
    let s := (s.regionOpen c.core o.region true).startOp c.core c.now o
    .ok (if semRel f || semAcq f then s.newRegion c.core c.seat else s)

/-! ### Loads and stores -/

/-- `LD` (R198). -/
def execLd (f : FmtM) (s : State) : Host.Outcome State Fault Refusal := issue (.ld f) (loadEffect f false false) s

/-- `ST` (R198). -/
def execSt (f : FmtM) (s : State) : Host.Outcome State Fault Refusal := issue (.st f) (storeEffect f false) s

/-- `LDG` (R198): base and index in the global window. -/
def execLdg (f : FmtM) (s : State) : Host.Outcome State Fault Refusal := issue (.ldg f) (loadEffect f true false) s

/-- `STG` (R198): base and index in the global window. -/
def execStg (f : FmtM) (s : State) : Host.Outcome State Fault Refusal := issue (.stg f) (storeEffect f true) s

/-- `LDI` (R198, R274): an untracked load of the global window. -/
def execLdi (f : FmtM) (s : State) : Host.Outcome State Fault Refusal := issue (.ldi f) (loadEffect f false true) s

/-- Starts a prefetch of the line at a virtual address (R199). -/
def State.prefetch (s : State) (c : Ctx) (l1 : Bool) (l : Nat) (ga : DWord) (va : Nat) : State :=
  s.startOp c.core c.now { c.op s (.pref l1) with
    acc := [{ lane := l, ga := ga, va := va, bytes := 1, data := [], cmp := [], res := [], bad := false }] }

/-- `PREF` (R199): one request for each distinct line of the participating lanes; a scratchpad address and an address in no window are dropped,
and so is a stack address that leads beyond 2^51 (DESIGN CHOICE, row 50 of notes/assumptions). -/
def execPref (f : FmtM) (s : State) : Host.Outcome State Fault Refusal :=
  issue (.pref f) (fun c s =>
    let vas := (c.addrs f false).filterMap (fun p => match s.place c p.1 p.2 with
      | some (.mem va _) => some (p.1, p.2, va)
      | _ => none)
    let first := vas.foldl (fun acc x => if acc.any (fun y => y.2.2 / 128 == x.2.2 / 128) then acc else acc ++ [x]) []
    .ok (first.foldl (fun s x => s.prefetch c (f.hint.getLsbD 0) x.1 x.2.1 x.2.2) s)) s

/-- The scratchpad lines of the participating lanes; an address outside the scratchpad window is an address fault (R200). -/
def State.spLines (s : State) (c : Ctx) : List (Nat × DWord) → Except Trouble (List (Nat × Nat))
  | [] => .ok []
  | (l, a) :: as =>
    match s.place c l a, State.spLines s c as with
    | some (.scratch o), .ok r => .ok ((l, o / 128) :: r)
    | some (.scratch _), .error e => .error e
    | _, _ => .error (fatalAddress a)

/-- Sets the bits of scratchpad lines, at the end of the cycle (R65, R66, R257). -/
def State.setLines (s : State) (core : Nat) (ls : List (Nat × Nat)) (full : Bool) : State :=
  s.modCore core (fun co => ls.foldl (fun co p => co.setAtEnd p.2 full) co)

/-- `SPSET` (R200): it issues once its release is complete. -/
def execSpset (f : FmtM) (s : State) : Host.Outcome State Fault Refusal :=
  issue (.spset f) (fun c s =>
    match s.spLines c (c.addrs f false) with
    | .error t => .error t
    | .ok ls => .ok ((s.setLines c.core ls true).newRegion c.core c.seat)) s

/-- `SPCLR` (R200). -/
def execSpclr (f : FmtM) (s : State) : Host.Outcome State Fault Refusal :=
  issue (.spclr f) (fun c s =>
    match s.spLines c (c.addrs f false) with
    | .error t => .error t
    | .ok ls => .ok (s.setLines c.core ls false)) s

/-- `SPTST` (R200). -/
def execSptst (f : FmtM) (s : State) : Host.Outcome State Fault Refusal :=
  issue (.sptst f) (fun c s =>
    match s.spLines c (c.addrs f false), row? (.sptst f) with
    | .error t, _ => .error t
    | .ok ls, some r =>
      let v (n : Nat) : DWord := if (s.core c.core).seenEmpty.contains n then 0 else 1
      let rs : Results := match c.bcast f false, ls with
        | [], ls => ls.map (fun p => (p.1, v p.2))
        | bs, p :: _ => bs.map (fun l => (l, v p.2))
        | _, [] => []
      .ok (s.writeAlu c r rs [])
    | .ok _, none => .ok s) s

/-- `WCFL` (R201): the drain of both write-combining buffers starts. -/
def execWcfl (f : FmtM) (s : State) : Host.Outcome State Fault Refusal :=
  issue (.wcfl f) (fun c s => .ok (s.modCore c.core (fun co => (co.wcDrainAll c.now).rwcDrainAll c.now))) s

/-! ### Atomics -/

/-- `ATOM.add` of integers (R178). -/
def execAtomAdd (f : FmtM) (s : State) : Host.Outcome State Fault Refusal := issue (.atomAdd f) (atomEffect f .add) s

/-- `ATOM.min`, signed (R178). -/
def execAtomMinSigned (f : FmtM) (s : State) : Host.Outcome State Fault Refusal := issue (.atomMinSigned f) (atomEffect f .minS) s

/-- `ATOM.min`, unsigned (R178). -/
def execAtomMinUnsigned (f : FmtM) (s : State) : Host.Outcome State Fault Refusal := issue (.atomMinUnsigned f) (atomEffect f .minU) s

/-- `ATOM.max`, signed (R178). -/
def execAtomMaxSigned (f : FmtM) (s : State) : Host.Outcome State Fault Refusal := issue (.atomMaxSigned f) (atomEffect f .maxS) s

/-- `ATOM.max`, unsigned (R178). -/
def execAtomMaxUnsigned (f : FmtM) (s : State) : Host.Outcome State Fault Refusal := issue (.atomMaxUnsigned f) (atomEffect f .maxU) s

/-- `ATOM.and` (R178). -/
def execAtomAnd (f : FmtM) (s : State) : Host.Outcome State Fault Refusal := issue (.atomAnd f) (atomEffect f .and) s

/-- `ATOM.or` (R178). -/
def execAtomOr (f : FmtM) (s : State) : Host.Outcome State Fault Refusal := issue (.atomOr f) (atomEffect f .or) s

/-- `ATOM.xor` (R178). -/
def execAtomXor (f : FmtM) (s : State) : Host.Outcome State Fault Refusal := issue (.atomXor f) (atomEffect f .xor) s

/-- `ATOM.exch` (R178). -/
def execAtomExch (f : FmtM) (s : State) : Host.Outcome State Fault Refusal := issue (.atomExch f) (atomEffect f .exch) s

/-- `ATOM.add` of floats (R178). -/
def execAtomFadd (f : FmtM) (s : State) : Host.Outcome State Fault Refusal := issue (.atomFadd f) (atomEffect f .fadd) s

/-- `ATOM.min` of floats (R178). -/
def execAtomFmin (f : FmtM) (s : State) : Host.Outcome State Fault Refusal := issue (.atomFmin f) (atomEffect f .fmin) s

/-- `ATOM.max` of floats (R178). -/
def execAtomFmax (f : FmtM) (s : State) : Host.Outcome State Fault Refusal := issue (.atomFmax f) (atomEffect f .fmax) s

/-- `ATCAS` (R179): the expected value in SRCC, the new one in DATA. -/
def execAtcas (f : FmtM) (s : State) : Host.Outcome State Fault Refusal := issue (.atcas f) (atomEffect f .cas) s

/-- One attempt of `ATF` (R180): the play ends, with what its instructions raised once the pair of
the `ATF` has issued (`settleIssued`), and the group waits for the answer at the `ATF`. Every attempt reads the operands as they stood before the
first (R133). -/
def execAtf (f : FmtM) (s : State) : Host.Outcome State Fault Refusal :=
  issue (.atf f) (fun c s =>
    match s.gather c (accSize f) (c.readBytes (accSize f) f.data) (fun _ => []) false (c.addrs f false) with
    | .error t => .error t
    | .ok (m, r) =>
      let id := (s.core c.core).nextOp
      let o : MemOp := { c.op s (.atf (f.hdr.sub.extractLsb' 0 3).toNat (f.hdr.sub.getLsbD 3)) with
        acc := m, scr := r, dst := regId? f.dst, size := accSize f, returning := true, bcast := c.bcast f false,
        acq := if semAcq f then some (atomScope f) else none, notBefore := if r.isEmpty then 0 else c.now + 4 }
      let s := s.modGroup c.core c.seat (fun g => { g with pc := c.first, wait := some (.op id), reads := some c.reads })
      .ok ((s.startOp c.core c.now o).modQuad c.core c.quad Quad.endPlay)) s

/-- The condition of an `ATF` holds in every participating lane (R180). -/
def MemOp.flagHolds (o : MemOp) : Bool :=
  match o.kind with
  | .atf cc sgn =>
    (o.acc ++ o.scr).all (fun a =>
      let v (bs : List Byte) : Int := intBits sgn (8 * a.bytes) (leNat bs)
      !a.bad && intCond cc (v a.res) (v a.data))
  | _ => false

/-- `ATF_ATTEMPT_ANSWER` (R180): the last lane's answer reaches the core. The condition holds: the destination is written and the group goes on behind
the `ATF`, or behind the pair that held it. So it does after a race conflict, whose trap resumes behind the `ATF`; the lanes in conflict keep their
destination (R279). Else the next attempt issues in the first play slot that begins afterwards.
An attempt whose group a trap has taken from the `ATF` changes nothing. -/
def execAtfAttemptAnswer (core op : Nat) (s : State) : Host.Outcome State Fault Refusal :=
  .next (match s.op? core op with
    | none => s
    | some o =>
      match o.kind with
      | .atf _ _ =>
        if !o.answered (s.now core) then s
        else if ((s.groupOf core o.seat o.uid).bind (fun g => g.wait)) != some (.op op) then s.delOp core op
        else
          match o.failed with
          | some (cause, addr) => (s.delOp core op).opFatal core o cause 0 addr
          | none =>
            let s := s.delOp core op
            let free (s : State) : State := s.modGroupOf core o.seat o.uid (fun g => { g with wait := none, wake := s.now core + 1 })
            let s := match o.conflict with
              | some x => s.modGroupOf core o.seat o.uid (fun g => g.holdMmx { issued := o.issued, order := op, raised := s.now core, copy := false, info := mmxInfo x })
              | none => s
            if o.flagHolds || o.conflict.isSome then
              let s := match o.dst with
                | some d => s.modGroupOf core o.seat o.uid (fun g => g.writeAnswer o d)
                | none => s
              let s := match o.acq with
                | some sc => (s.modCore core (fun c => c.acquire sc)).newRegion core o.seat
                | none => s
              let s := s.modGroupOf core o.seat o.uid (fun g =>
                { g with pc := if g.half.isSome then nextPc (nextPc g.pc) else nextPc g.pc, half := none, reads := none, tcheck := false })
              (free s).retiredOp core o
            else free s
      | _ => s)

end Sys2Proof.Machine
end

