-- ==== Sys2Proof/Machine/Copy.lean ====
section
/-! DEFINITION. Copies (R80 to R83, R202 to R206, R252, R269 to R271): units and where they lie, issue, reading ahead, writing in order, completion. -/

namespace Sys2Proof.Machine

/-! ### Units and where they lie (R81, R82, R202) -/

/-- Where half-bytes of a unit lie: nowhere, in a pattern, at a generic address, or in a slot of a handle; `nib` is the half within the byte for units
of one half-byte. -/
inductive Loc where
  | none_
  | pat (p : Word) (i : Nat)
  | gen (a : DWord) (nib : Nat)
  | slot (n b nib : Nat)
deriving DecidableEq, Repr

/-- Box indexes of a unit, dimension 0 fastest. -/
def boxIndex : List Nat → Nat → List Nat
  | [], _ => []
  | b :: bs, u => u % b :: boxIndex bs (u / b)

/-- The coordinate used for `c` in a dimension of extent `n` (R82). -/
def edgeCoord (edge : Nat) (repb : Bool) (n : Nat) (c : Int) : Option Nat :=
  if 0 ≤ c ∧ c < n then some c.toNat
  else
    match edge with
    | 1 =>
      if repb then
        let m := (c % (2 * n : Nat)).toNat
        some (if m < n then m else 2 * n - 1 - m)
      else if n = 1 then some 0
      else
        let m := (c % (2 * n - 2 : Nat)).toNat
        some (if m < n then m else 2 * n - 2 - m)
    | 2 => some (if c < 0 then 0 else n - 1)
    | _ => none

/-- Coordinates of a box element, or none when one is out of range with nothing to stand for it. -/
def coords (edge : Nat) (repb : Bool) : List Nat → List Int → List Nat → Option (List Nat)
  | n :: ns, st :: sts, j :: js =>
    match edgeCoord edge repb n (st + j), coords edge repb ns sts js with
    | some c, some cs => some (c :: cs)
    | _, _ => none
  | _, _, _ => some []

/-- The byte of a handle in its linear byte space (R202). -/
def handleLoc (slots : List Nat) (b : Nat) : Loc :=
  if b < 8192 * slots.length then .slot ((slots[b / 8192]?).getD 0) (b % 8192) 0
  else .slot (slots.headD 0) (b - 8192 * slots.length + 8192) 0

/-- Byte `b` of line `i` of a handle whose elements have `halves` half-bytes (R71). -/
def lineLoc (slots : List Nat) (halves i b nib : Nat) : Loc :=
  if halves ≤ 4 then
    let w := if halves = 1 then 64 else if halves = 2 then 128 else 256
    let x := w * i + b
    .slot ((slots[x / 8192]?).getD 0) (x % 8192) nib
  else .slot ((slots[b / 64]?).getD 0) (64 * i + b % 64) nib

/-- Where unit `u` lies at an endpoint. -/
def Endpoint.loc (e : Endpoint) (halves : Nat) (box : List Nat) (writes : Bool) (u : Nat) : Loc :=
  match e with
  | .addr a => if halves = 1 then .gen (a + BitVec.ofNat 64 (u / 2)) (u % 2) else .gen (a + BitVec.ofNat 64 (u * (halves / 2))) 0
  | .pattern p => .pat p u
  | .handle slots => handleLoc slots u
  | .lines slots =>
    let j := boxIndex box u
    let h := j.headD 0 * halves
    lineLoc slots halves ((j.drop 1).headD 0) (h / 2) (h % 2)
  | .tensor base ext str start edge repb =>
    match coords (if writes then 0 else edge) repb ext start (boxIndex box u) with
    | none => .none_
    | some cs =>
      let h := cs.headD 0 * halves
      .gen (base + BitVec.ofNat 64 (((cs.drop 1).zip str).foldl (fun a p => a + p.1 * p.2) 0 + h / 2)) (h % 2)

/-- Bytes of a unit, at least one. -/
def Copy.unitBytes (x : Copy) : Nat := if x.halves = 1 then 1 else x.halves / 2

/-- A pattern depends on the address it is written to (R205). -/
def Copy.srcLoc (x : Copy) (u : Nat) : Loc :=
  match x.src with
  | .pattern p =>
    match x.dst.loc x.halves x.box true u with
    | .gen a _ => .pat p (a.toNat % 4)
    | _ => .pat p (u % 4)
  | e => e.loc x.halves x.box false u

def Copy.dstLoc (x : Copy) (u : Nat) : Loc := x.dst.loc x.halves x.box true u

/-- The line or the part of a slot that a place lies in. -/
def Loc.frame : Loc → Nat × Nat
  | .none_ => (0, 0)
  | .pat _ _ => (1, 0)
  | .gen a _ => (2, a.toNat / 128)
  | .slot n b _ => (3, n * 128 + b / 128)

/-- Units from `u` on that share the first one's source line and destination line, at most `fuel`. -/
def Copy.run (x : Copy) (f : (Nat × Nat) × (Nat × Nat)) : Nat → Nat → Nat
  | _, 0 => 0
  | u, fuel + 1 =>
    if u < x.count ∧ ((x.srcLoc u).frame, (x.dstLoc u).frame) = f then 1 + Copy.run x f (u + 1) fuel else 0

/-- The length of the piece that starts at unit `u`. -/
def Copy.piece (x : Copy) (u : Nat) : Nat := x.run ((x.srcLoc u).frame, (x.dstLoc u).frame) u 256

/-- Destination bytes of the first `u` units (R206). -/
def Copy.bytesOf (x : Copy) (u : Nat) : Nat := u * x.halves / 2

/-- An address of a copy in its issuer's windows: scratchpad or global; one that the stack window decides is in neither (R60, R80). -/
def Copy.place (x : Copy) (a : DWord) : Option Place :=
  match windowOffset x.segsp a, windowOffset x.segst a with
  | some o, _ => some (.scratch o)
  | none, some _ => none
  | none, none => (windowOffset x.seggl a).map (fun va => .mem va false)

/-! ### Slots as bytes (R67) -/

/-- A byte of a slot: tile bytes, then the sidecar, then the band word. -/
def Slot.byte (x : Slot) (b : Nat) : Byte := (x.word (b / 4)).extractLsb' (8 * (b % 4)) 8

def Slot.setByte (x : Slot) (b : Nat) (v : Byte) : Slot :=
  { x with words := mset x.words (b / 4) (BitVec.ofNat 32 (leNat (patch (leBytes 4 (x.word (b / 4)).toNat) (b % 4) [v]))) }

/-! ### Moving a unit -/

/-- The bytes of a unit at a place; `line` holds what came from beyond the package. -/
def State.loadUnit (s : State) (core : Nat) (x : Copy) (d : CopyData) (l : Loc) : List Byte :=
  let n := x.unitBytes
  let half (nib : Nat) (bs : List Byte) : List Byte :=
    if x.halves = 1 then [BitVec.ofNat 8 ((bs.headD 0).toNat / (if nib = 0 then 1 else 16) % 16)] else bs
  match l with
  | .none_ => List.replicate n 0
  | .pat p i => [p.extractLsb' (8 * i) 8]
  | .slot k b nib => half nib ((List.range n).map (fun j => ((s.core core).slot k).byte (b + j)))
  | .gen a nib =>
    match x.place a, d.leaf with
    | some (.scratch o), _ => half nib ((s.core core).sp.readN o n)
    | some (.mem va _), some lf =>
      half nib (if lf.tgt = 2 then accBytes d.bytes va n else s.readAt (lf.tgt == 1) (lf.addr va) n)
    | _, _ => List.replicate n 0

/-- The byte of a half-byte unit as its destination holds it, beside the half that stays. -/
def mergeHalf (halves nib : Nat) (old : Byte) (v : List Byte) : List Byte :=
  if halves = 1 then
    [BitVec.ofNat 8 (if nib = 0 then old.toNat / 16 * 16 + (v.headD 0).toNat else old.toNat % 16 + 16 * (v.headD 0).toNat)]
  else v

/-- Writes the value of unit `u` where it lies: in the scratchpad, in a handle, or in memory through a leaf. -/
def State.putUnit (s : State) (core : Nat) (x : Copy) (l : Option Leaf) (u : Nat) (v : List Byte) : State :=
  match x.dstLoc u with
  | .slot k b nib =>
    let bs := mergeHalf x.halves nib (((s.core core).slot k).byte b) v
    s.modCore core (fun c => c.modSlot k (fun t => (bs.zip (List.range bs.length)).foldl (fun t p => t.setByte (b + p.2) p.1) t))
  | .gen a nib =>
    match x.place a, l with
    | some (.scratch o), _ =>
      let bs := mergeHalf x.halves nib ((s.core core).sp.read o) v
      s.modCore core (fun c => c.spWrite o bs)
    | some (.mem va _), some l =>
      let pa := l.addr va
      s.writeAt (l.tgt == 1) pa (mergeHalf x.halves nib ((s.readAt (l.tgt == 1) pa 1).headD 0) v)
    | _, _ => s
  | _ => s

/-- Writes `n` units of a piece from unit `u` on. -/
def State.putUnits (s : State) (core : Nat) (x : Copy) (d : CopyData) (l : Option Leaf) : Nat → Nat → State
  | _, 0 => s
  | u, n + 1 => State.putUnits (s.putUnit core x l u (s.loadUnit core x d (x.srcLoc u))) core x d l (u + 1) n

/-! ### The queue -/

/-- The running copy of a queue: its head. -/
def Core.headCopy (c : Core) (quad : Nat) : Option Copy :=
  match (c.quad quad).copies with
  | x :: _ => if x.started then some x else none
  | [] => none

def Core.modHead (c : Core) (quad : Nat) (f : Copy → Copy) : Core :=
  c.modQuad quad (fun q => match q.copies with
    | x :: xs => { q with copies := f x :: xs }
    | [] => q)

def State.modHead (s : State) (core quad : Nat) (f : Copy → Copy) : State := s.modCore core (fun c => c.modHead quad f)

/-- Writes a piece. Half-bytes are written by whole bytes (R204): one that ends a piece in the middle of a byte waits for the next piece. -/
def State.writePiece (s : State) (core quad : Nat) (x : Copy) (d : CopyData) (l : Option Leaf) (u n : Nat) : State :=
  if n = 0 then s
  else
    let s := match x.carry with
      | some (lf, v) => (s.putUnit core x lf (u - 1) v).modHead core quad (fun x => { x with carry := none })
      | none => s
    if x.halves = 1 ∧ (u + n) % 2 = 1 then
      (s.putUnits core x d l u (n - 1)).modHead core quad (fun y => { y with carry := some (l, s.loadUnit core x d (x.srcLoc (u + n - 1))) })
    else s.putUnits core x d l u n

/-- Operations of a queue's running copy. -/
def Core.copyOps (c : Core) (quad : Nat) : List (Nat × MemOp) :=
  c.ops.filter (fun p => match p.2.kind with
    | .copyRead q => q == quad
    | .copyWrite q => q == quad
    | _ => false)

/-- Copy tags in use (R80). What holds a tag is the model's choice (DEDUCED, row 37 of notes/assumptions): every piece from its read until its write is
performed in the core or acknowledged, and, beside it, every request for a line of the copy that has not been answered. -/
def Core.tagsUsed (c : Core) : Nat :=
  (c.quads.map (fun q => match c.headCopy q.1 with
    | some x => x.data.length + (c.copyOps q.1).length
    | none => 0)).foldl (· + ·) 0

/-- A group's trap for a conflict of its copy (R279). -/
def copyMmx (x : Nat × DWord) : TrapInfo := { cause := 2, sub := 4, addr := x.2, mask := BitVec.ofNat 32 x.1, lane := 0 }

/-- The copy stops after `n` units (R83): with a conflict its group takes MMX, with a fault its group faults. -/
def State.stopCopy (s : State) (core quad n : Nat) (mmx : Option (Nat × DWord)) (fault : Option (Nat × Nat × DWord)) : State :=
  match (s.core core).headCopy quad with
  | none => s
  | some x =>
    if x.stopped then s
    else
      let n := if x.halves = 1 then n / 2 * 2 else n
      let s := s.modHead core quad (fun x => { x with stopped := true, faulted := fault.isSome, done := n, data := [], last := s.now core })
      let s := match mmx with
        | some m => s.modGroupOf core x.seat x.uid (fun g => g.holdMmx { issued := x.cycle, order := x.issued, raised := s.now core, copy := true, info := copyMmx m })
        | none => s
      match fault with
      | some (cause, sub, addr) =>
        s.fatalFor core x.seat x.uid cause sub x.pc x.csn x.lgid addr
      | none => s

/-- Scratchpad lines whose last byte the copy has written become full (R65, R271), and its region's W bits in their records are cleared (R278). -/
def State.fillLines (s : State) (core quad : Nat) : State :=
  match (s.core core).headCopy quad with
  | none => s
  | some x =>
    -- A half-byte that waits for its byte's other half is not written yet.
    let written := if x.carry.isSome then x.done - 1 else x.done
    (x.lines.filter (fun p => decide (p.2 < written))).foldl (fun s p =>
      (s.modHead core quad (fun x => { x with lines := x.lines.filter (fun y => y.1 != p.1) })).modCore core (fun c =>
        let c := c.setFull p.1 true
        match x.region with
        | some r => { c with spRace := racePut c.spRace p.1 (clearWrites (raceGet c.spRace p.1) r) }
        | none => c)) s

/-- Checks units one after the other, in the copy's order (R278, R279): the sectors that each touches, at the address and the offset that `f` gives. How
many units come before the first conflict, and the conflict. -/
def raceUnits (check : State → Nat → Nat → State × List (Nat × Nat × Nat)) (f : Nat → Option (DWord × Nat)) (w : Nat) :
    State → Nat → Nat → List Nat → State × Nat × Option (Nat × DWord)
  | s, _, 0, _ => (s, 0, none)
  | s, u, n + 1, seen =>
    let on (s : State) (seen : List Nat) : State × Nat × Option (Nat × DWord) :=
      let (s, k, x) := raceUnits check f w s (u + 1) n seen
      (s, k + 1, x)
    match f u with
    | none => on s seen
    | some (a, off) =>
      if seen.contains (off / 32) && seen.contains ((off + w - 1) / 32) then on s seen
      else
        let (s, bad) := check s off w
        match firstBad a (off % 128) bad with
        | none => on s ((off + w - 1) / 32 :: off / 32 :: seen)
        | some y => (s, 0, some (y.2.1, y.2.2))

/-- The scratchpad offset, and the physical address through a leaf, of a place. -/
def Copy.spAt (x : Copy) (l : Loc) : Option (DWord × Nat) :=
  match l with
  | .gen a _ => (match x.place a with | some (.scratch o) => some (a, o) | _ => none)
  | _ => none

def Copy.memAt (x : Copy) (lf : Leaf) (l : Loc) : Option (DWord × Nat) :=
  match l with
  | .gen a _ => (match x.place a with | some (.mem va _) => some (a, lf.addr va) | _ => none)
  | _ => none

/-- Checks the write of a piece into the scratchpad. -/
def State.raceWrite (s : State) (core : Nat) (x : Copy) (u n : Nat) : State × Nat × Option (Nat × DWord) :=
  raceUnits (fun s o w => s.raceScratch core o w .write x.region) (fun u => x.spAt (x.dstLoc u)) x.unitBytes s u n []

/-- Starts the request of a piece: a read of its source line, or a write of its destination line. -/
def State.pieceOp (s : State) (core quad : Nat) (x : Copy) (kind : OpKind) (u : Nat) (acc : List Access) : State :=
  s.startOp core (s.now core) { MemOp.blank with
    kind := kind, seat := x.seat, uid := x.uid, quad := quad, lgid := x.lgid, region := x.region, pc := x.pc, issued := u, acc := acc }

/-- The generic address of the first of units `u` to `u + n - 1` that lies at one, in the copy's order. -/
def firstPlace (f : Nat → Loc) (u n : Nat) : Option DWord :=
  (List.range n).findSome? (fun k => match f (u + k) with | .gen a _ => some a | _ => none)

/-- The accesses to memory of units `u` to `u + n - 1` at the places that `f` gives, in the copy's order, so that a record and a fault name the first of
them (R87, R88); `v` gives the data of a unit that is written. Two half-bytes of one byte make one access. A half that the copy does not write keeps the half
of `old`. -/
def Copy.accesses (x : Copy) (f : Nat → Loc) (v : Nat → List Byte) (old : Byte) (u n : Nat) : List Access :=
  (List.range n).foldl (fun as k =>
    match f (u + k) with
    | .gen a nib =>
      match x.place a, as.getLast? with
      | some (.mem va _), some y =>
        if x.halves = 1 ∧ y.va = va then as.dropLast ++ [{ y with data := mergeHalf x.halves nib (y.data.headD 0) (v (u + k)) }]
        else as ++ [{ lane := 0, ga := a, va := va, bytes := x.unitBytes, data := mergeHalf x.halves nib old (v (u + k)), cmp := [], res := [], bad := false }]
      | some (.mem va _), none =>
        [{ lane := 0, ga := a, va := va, bytes := x.unitBytes, data := mergeHalf x.halves nib old (v (u + k)), cmp := [], res := [], bad := false }]
      | _, _ => as
    | _ => as) []

/-- The copy unit reads on (R80, R83): the next piece of a queue's running copy, one page missed at a time. -/
def State.readOn (s : State) (core quad : Nat) : State :=
  let c := s.core core
  match c.headCopy quad with
  | none => s
  | some x =>
    let waits := (c.copyOps quad).any (fun p => !p.2.entered || p.2.lines.any (fun r => match r.st with | .queued _ => true | _ => false))
    if x.stopped || decide (x.count ≤ x.readPos) || waits || decide (Config.copyTags ≤ c.tagsUsed) then s
    else
      let n := x.piece x.readPos
      let s := s.modHead core quad (fun x => { x with readPos := x.readPos + n })
      let local_ (bad : Option (Nat × Nat × DWord)) (fail : Option (Nat × Nat × DWord)) (s : State) : State := s.modHead core quad (fun x => { x with
        data := x.data ++ [{ pos := x.readPos - n, leaf := none, bytes := [], ready := s.now core, bad := bad, fail := fail }] })
      match firstPlace x.srcLoc x.readPos n with
      | none => local_ none none s
      | some a =>
        match x.place a with
        | none => local_ none (some (0x20, 0, a)) s
        | some (.scratch _) =>
          let (s, k, bad) := raceUnits (fun s o w => s.raceScratch core o w .read x.region) (fun u => x.spAt (x.srcLoc u)) x.unitBytes s x.readPos n []
          local_ (bad.map (fun y => (k, y.1, y.2))) none s
        | some (.mem _ _) => s.pieceOp core quad x (.copyRead quad) x.readPos (x.accesses x.srcLoc (fun _ => []) 0 x.readPos n)

/-- A write of a queue's running copy before operation `id` is not performed: nothing behind it is written (R83). -/
def Core.copyHeld (c : Core) (quad id : Nat) : Bool :=
  c.ops.any (fun p => decide (p.1 < id) && p.2.kind == .copyWrite quad && (!p.2.entered || p.2.lines.any (fun r => !r.performed)))

/-- A read of a copy has been answered: its data, or what it met, waits for its turn to be written. A write that cannot be made stops the copy once those before
it have been performed. -/
def State.copyArrive (s : State) (core op : Nat) : State :=
  match s.op? core op with
  | none => s
  | some o =>
    match o.kind with
    | .copyRead quad =>
      (s.delOp core op).modHead core quad (fun x => { x with data := x.data ++
        [{ pos := o.issued, leaf := o.leafOf ((o.acc.head?.map (fun a => a.va)).getD 0), bytes := (o.lines.head?.map (fun r => r.bytes)).getD [],
           ready := s.now core, bad := o.conflict.map (fun x => (x.2.2.1, x.2.1, x.2.2.2)),
           fail := o.failed.map (fun f => (f.1 % 256, f.1 / 256, f.2)) }] })
    | .copyWrite quad =>
      match o.failed with
      | some (cause, addr) =>
        if (s.core core).copyHeld quad op then s
        else (s.delOp core op).stopCopy core quad o.issued none (some (cause % 256, cause / 256, addr))
      | none =>
        (s.delOp core op).modHead core quad (fun x => { x with
          data := x.data.filter (fun d => d.pos != o.issued), last := s.now core, done := if x.stopped then x.done else max x.done (o.issued + o.size) })
    | _ => s

/-- A read of a copy is performed at its slice: its units are checked in the copy's order (R278). -/
def State.performRead (s : State) (core op idx : Nat) : State :=
  match s.op? core op, (s.op? core op).bind (fun o => o.lines[idx]?) with
  | some o, some r =>
    match o.kind, (match o.kind with | .copyRead quad => (s.core core).headCopy quad | _ => none) with
    | .copyRead _, some x =>
      let (s, k, bad) := raceUnits (fun s a w => s.raceAt (s.ownerOf core) r.leaf a w .read x.region) (fun u => x.memAt r.leaf (x.srcLoc u)) x.unitBytes
        s o.issued (x.piece o.issued) []
      let bytes := s.readAt (r.leaf.tgt == 1) r.addr 128
      s.modOp core op (fun o => { o with
        conflict := bad.map (fun y => (4, y.1, k, y.2)), lines := setAt o.lines idx { r with performed := true, bytes := bytes } })
    | _, _ => s.modOp core op (fun o => { o with lines := setAt o.lines idx { r with performed := true } })
  | _, _ => s

/-- A write of a copy is performed at its slice (R252, R278), unless the copy has stopped; the core's L1 keeps no line that it writes (R268, R269). -/
def State.performCopy (s : State) (core op idx : Nat) : State :=
  match s.op? core op, (s.op? core op).bind (fun o => o.lines[idx]?) with
  | some o, some r =>
    match o.kind with
    | .copyWrite quad =>
      let s := s.modOp core op (fun o => { o with lines := setAt o.lines idx { r with performed := true } })
      match (s.core core).headCopy quad with
      | none => s
      | some x =>
        match x.data.find? (fun d => d.pos == o.issued) with
        | some d =>
          if x.stopped || r.leaf.tgt = 2 then s
          else
            let s := s.modCore core (fun c => c.l1Lose r.addr (r.leaf.tgt == 1))
            let (s, k, bad) := raceUnits (fun s a w => s.raceAt (s.ownerOf core) r.leaf a w .write x.region) (fun u => x.memAt r.leaf (x.dstLoc u)) x.unitBytes
              s o.issued o.size []
            let s := s.writePiece core quad x d (some r.leaf) o.issued k
            match bad with
            | none => s.modHead core quad (fun x => { x with done := max x.done (o.issued + o.size), last := s.now core })
            | some m => s.stopCopy core quad (o.issued + k) (some m) none
        | none => s
    | _ => s
  | _, _ => s

/-- A piece has a destination in memory. -/
def Copy.toMem (x : Copy) (pos : Nat) : Bool :=
  match firstPlace x.dstLoc pos (x.piece pos) with
  | some a => (match x.place a with | some (.mem _ _) => true | _ => false)
  | none => false

/-- A piece has a destination in no window that a copy may use. -/
def Copy.unplaced (x : Copy) (pos : Nat) : Bool :=
  match firstPlace x.dstLoc pos (x.piece pos) with
  | some a => (x.place a).isNone
  | none => false

/-- A piece of the running copy of a queue can be written now (R252): its data has reached the core, two cycles before for a destination in the
scratchpad or a handle. What stops the copy there, and a write in the core, come after every write before it; a read that waits for a page holds no write
before it back (R83, R330). -/
def Core.copyWriteDue (c : Core) (quad now : Nat) : Option CopyData :=
  match c.headCopy quad with
  | none => none
  | some x =>
    if x.stopped then none
    else
      match x.data.find? (fun d => d.pos == x.writePos) with
      | none => none
      | some d =>
        if (d.bad.map (fun b => b.1)) == some 0 || d.fail.isSome || x.unplaced d.pos then (if c.copyHeld quad c.nextOp then none else some d)
        else if x.toMem d.pos then
          (if (c.copyOps quad).any (fun p => (p.2.kind == .copyWrite quad && !p.2.entered)
              || p.2.lines.any (fun r => match r.st with | .queued _ => true | _ => false)) then none else some d)
        else if decide (d.ready + 2 ≤ now) && !c.copyHeld quad c.nextOp then some d else none

/-- Requests the write of the first `n` units of a piece in memory. The part of a byte beyond the package that a copy of half-bytes does not write is a free
value: it is written by whole bytes (R204). -/
def State.askWrite (s : State) (core quad : Nat) (x : Copy) (d : CopyData) (n : Nat) : State :=
  let id := (s.core core).nextOp
  let acc := x.accesses x.dstLoc (fun u => s.loadUnit core x d (x.srcLoc u)) ((Config.freeWord s.free).extractLsb' 0 8) d.pos n
  let s := { s with free := s.free + 1 }
  ((s.modHead core quad (fun x => { x with writePos := d.pos + n })).pieceOp core quad x (.copyWrite quad) d.pos acc).modOp core id
    (fun o => { o with size := n })

/-- A unit of a copy meets an uncorrectable error (R335) where it is read, or in the race record of the scratchpad line where it is written: the address of the line, 0
for a tile slot. -/
def State.unitError (s : State) (core : Nat) (x : Copy) (u : Nat) : Option DWord :=
  let scratch (a : DWord) (meets : Nat → Nat → Bool) : Option DWord :=
    match x.place a with
    | some (.scratch o) => if meets o x.unitBytes then some (BitVec.ofNat 64 (a.toNat - o % 128)) else none
    | _ => none
  let src := match x.srcLoc u with
    | .slot k _ _ => if ((s.core core).slot k).error then some 0 else none
    | .gen a _ => scratch a (s.core core).spError
    | _ => none
  let dst := match x.dstLoc u with
    | .gen a _ => scratch a (s.core core).raceError
    | _ => none
  src.or dst

/-- The first such unit of a piece. -/
def State.pieceError (s : State) (core : Nat) (x : Copy) (pos n : Nat) : Option (Nat × DWord) :=
  (List.range n).findSome? (fun k => (s.unitError core x (pos + k)).map (fun a => (k, a)))

/-- The copy stops behind the first `k` units of a piece, which are written (R83, R279, R335). -/
def State.stopBehind (s : State) (core quad : Nat) (x : Copy) (d : CopyData) (k : Nat) (mmx : Option (Nat × DWord)) (fault : Option (Nat × Nat × DWord)) : State :=
  if k = 0 then s.stopCopy core quad d.pos mmx fault
  else if x.toMem d.pos then
    (s.modHead core quad (fun x => { x with data := x.data ++ [{ d with pos := d.pos + k, bad := mmx.map (fun m => (0, m)), fail := fault }] })).askWrite core quad x d k
  else (s.writePiece core quad x d none d.pos k).stopCopy core quad (d.pos + k) mmx fault

/-- The next piece in order is written, or the write of its line is requested. A read that met a conflict stops the copy behind the units before it (R83,
R279). -/
def State.writeNext (s : State) (core quad : Nat) : State :=
  match (s.core core).copyWriteDue quad (s.now core), (s.core core).headCopy quad with
  | some d, some x =>
    let n := x.piece d.pos
    match d.fail, d.bad, s.pieceError core x d.pos n with
    | some f, _, _ => s.stopCopy core quad d.pos none (some f)
    | none, some (k, m), _ => s.stopBehind core quad x d k (some m) none
    | none, none, some (k, a) => s.stopBehind core quad x d k none (some (0x27, 0, a))
    | none, none, none =>
      match firstPlace x.dstLoc d.pos n with
      | some a =>
        match x.place a with
        | none => s.stopCopy core quad d.pos none (some (0x20, 0, a))
        | some (.mem _ _) => s.askWrite core quad x d n
        | some (.scratch _) =>
          let (s, k, bad) := s.raceWrite core x d.pos n
          let s := s.writePiece core quad x d none d.pos k
          match bad with
          | some m => s.stopCopy core quad (d.pos + k) (some m) none
          | none =>
            (s.modHead core quad (fun x => { x with
              writePos := d.pos + n, done := d.pos + n, last := s.now core, data := x.data.filter (fun y => y.pos != d.pos) })).fillLines core quad
      | none =>
        ((s.writePiece core quad x d none d.pos n).modHead core quad (fun x => { x with
          writePos := d.pos + n, done := max x.done (d.pos + n), last := s.now core, data := x.data.filter (fun y => y.pos != d.pos) })).fillLines core quad
  | _, _ => s

/-- `COPY_LINE_WRITE` (R252): every piece that can be written in this cycle, in order. -/
def execCopyLineWrite (core quad : Nat) (s : State) : Host.Outcome State Fault Refusal :=
  .next ((List.range Config.copyTags).foldl (fun s _ => s.writeNext core quad) s)

/-- The handle slots that a copy names: read, and written. -/
def Copy.srcSlots (x : Copy) : List Nat := match x.src with | .handle ns => ns | .lines ns => ns | _ => []
def Copy.dstSlots (x : Copy) : List Nat := match x.dst with | .handle ns => ns | .lines ns => ns | _ => []

/-- The running copy of a queue is complete in this cycle (R252): the cycle after its last write. -/
def Core.copyDue (c : Core) (quad now : Nat) : Bool :=
  match c.headCopy quad with
  | none => false
  | some x => !x.faulted && (x.stopped || decide (x.count ≤ x.done)) && (c.copyOps quad).isEmpty && decide (x.last < now)

/-- `COPY_COMPLETION` (R80, R206, R252). -/
def execCopyCompletion (core quad : Nat) (s : State) : Host.Outcome State Fault Refusal :=
  .next (if !(s.core core).copyDue quad (s.now core) then s
    else
      match (s.core core).headCopy quad with
      | none => s
      | some x =>
        let s := s.regionOpen core x.region false
        s.modCore core (fun c =>
          let c := c.modSlots x.srcSlots (fun t => { t with reading := t.reading - 1 })
          let c := (c.modSlots x.dstSlots (fun t => { t with pending := t.pending - 1 })).settleSlots
          c.modQuad quad (fun q => { q with
            copies := q.copies.drop 1, completed := q.completed + 1,
            done := (q.done ++ [({ seq := x.ticket.toNat % 2 ^ 30, bytes := x.bytesOf x.done } : CopyDone)]).drop (q.done.length - 31) })))

/-- The head of each queue starts once it is ready; a halted core starts none (R330). -/
def Core.startCopies (c : Core) (now : Nat) : Core :=
  if c.halt.isSome then c
  else
    { c with quads := c.quads.map (fun (q : Nat × Quad) => (q.1, (match q.2.copies with
        | x :: xs => if x.started then q.2 else { q.2 with copies := ({ x with started := true, last := now } : Copy) :: xs }
        | [] => q.2 : Quad))) }

/-! ### Issue -/

/-- Destination addresses of a copy: from its lowest byte to its highest (R270). -/
def Copy.range (x : Copy) : Option (Nat × Nat) :=
  match x.dst with
  | .addr a => if x.count = 0 then none else some (a.toNat, a.toNat + x.bytesOf x.count)
  | .tensor base ext str start _ _ =>
    let lo := (ext.zip start).map (fun p => (max p.2 0).toNat)
    let hi := ((ext.zip start).zip x.box).map (fun p => (min (p.1.2 + (p.2 : Int) - 1) ((p.1.1 : Int) - 1)))
    if (lo.zip hi).any (fun p => decide (p.2 < (p.1 : Int))) then none
    else
      let at_ (cs : List Nat) : Nat := base.toNat + cs.headD 0 * x.halves / 2 + ((cs.drop 1).zip str).foldl (fun a p => a + p.1 * p.2) 0
      some (at_ lo, at_ (hi.map Int.toNat) + x.unitBytes)
  | _ => none

/-- Two ranges share a byte. -/
def rangesMeet (a b : Option (Nat × Nat)) : Bool :=
  match a, b with
  | some (l, h), some (l', h') => decide (l < h' ∧ l' < h)
  | _, _ => false

/-- The new copy's destination meets that of an incomplete copy of another queue of the core (R270). -/
def Core.copyOverlap (c : Core) (quad : Nat) (x : Copy) : Bool :=
  c.quads.any (fun q => q.1 != quad && q.2.copies.any (fun y => rangesMeet x.range y.range))

/-- Scratchpad lines that a copy writes, wholly or in part, each with the last unit that writes into it (R65). -/
def Copy.spLines (x : Copy) : List (Nat × Nat) :=
  match x.dst with
  | .addr a =>
    match x.place a with
    | some (.scratch o) =>
      if x.count = 0 then []
      else (List.range ((o + x.bytesOf x.count - 1) / 128 - o / 128 + 1)).map (fun k =>
        (o / 128 + k, min (x.count - 1) (((128 * (o / 128 + k + 1) - o - 1) * 2 + 1) / x.halves)))
    | _ => []
  | .tensor .. => (List.range x.count).foldl (fun acc u => match x.spAt (x.dstLoc u) with | some (_, o) => mset acc (o / 128) u | none => acc) []
  | _ => []

/-- An endpoint address lies in a window that a copy may use (R80, R202). -/
def Copy.endpointOk (x : Copy) (e : Endpoint) : Option DWord :=
  match e with
  | .addr a => if (x.place a).isSome then none else some a
  | .tensor a _ _ _ _ _ => if (x.place a).isSome then none else some a
  | _ => none

/-- A copy of the issuing group, before it takes its ticket. -/
def Ctx.newCopy (c : Ctx) (s : State) (src dst : Endpoint) (count halves : Nat) (box : List Nat) : Copy :=
  { src := src, dst := dst, count := count, halves := halves, box := box, seat := c.seat, uid := c.g.uid, lgid := s.lgid c.core c.seat,
    region := (s.group? c.core c.seat).bind (fun g => g.region), pc := c.pc, csn := 0, ticket := 0, segsp := c.g.segsp, segst := c.g.segst,
    seggl := c.g.seggl, issued := 0, cycle := c.now, tids := c.g.tids, started := false, data := [], readPos := 0, writePos := 0, done := 0, stopped := false, faulted := false, last := c.now, lines := [],
    carry := none }

/-- Takes the next number of the quadrant's numbered commands (R336). -/
def State.takeCsn (s : State) (c : Ctx) : DWord × State :=
  let n := ((s.core c.core).quad c.quad).seq + 1
  let w := csnWord c.core c.quad n
  (w, (s.modQuad c.core c.quad (fun q => { q with seq := n })).modGroup c.core c.seat (fun g => { g with csn := w }))

/-- Enqueues a copy (R202): ticket, `CSN`, marks on handles, empty scratchpad lines. -/
def Ctx.enqueue (c : Ctx) (s : State) (dst : Opd) (x : Copy) : Effect :=
    match [x.dst, x.src].findSome? x.endpointOk with
    | some a => .error (fatalAddress a)
    | none =>
      let self := match x.src with
        | .addr a => rangesMeet x.range (if x.count = 0 then none else some (a.toNat, a.toNat + x.bytesOf x.count))
        | _ => false
      if (self && x.box.isEmpty) || (s.core c.core).copyOverlap c.quad x then
        .error (.fatal 0x28 0 (BitVec.ofNat 64 ((x.range.map Prod.fst).getD 0)))
      else
        let q := (s.core c.core).quad c.quad
        let ticket := ticketWord c.quad q.enqueued
        let (csn, s) := s.takeCsn c
        let lines := x.spLines
        let order := (s.core c.core).nextOp
        let x : Copy := { x with csn := csn, ticket := ticket, lines := lines, issued := order }
        let s := s.modCore c.core (fun (co : Core) =>
          let co : Core := { (co : Core) with nextOp := (co : Core).nextOp + 1 }
          let co : Core := co.modSlots x.srcSlots (fun t => { t with reading := t.reading + 1 })
          let co : Core := co.modSlots x.dstSlots (fun t => { t with pending := t.pending + 1 })
          let co : Core := lines.foldl (fun co l => co.setEmpty l.1) co
          co.modQuad c.quad (fun (q : Quad) => { q with copies := q.copies ++ [x], enqueued := q.enqueued + 1 }))
        .ok ((s.regionOpen c.core x.region true).writeScalar c dst 1 (c.now + 1) (ticket.zeroExtend 64))

/-- An operand as an endpoint of a linear copy. -/
def Ctx.endpoint (c : Ctx) (o : Opd) : Endpoint :=
  match o with
  | .h n => .handle (c.g.handle n.toNat).slots
  | o => .addr (c.sval 2 o)

/-- A linear copy stays within the byte space of its handles (R202). -/
def Endpoint.fits (e : Endpoint) (n : Nat) : Bool :=
  match e with
  | .handle ns => decide (n ≤ 8192 * ns.length + 2052)
  | _ => true

/-- `CPY` (R203). -/
def execCpy (f : FmtM) (s : State) : Host.Outcome State Fault Refusal :=
  issue (.cpy f) (fun c s =>
    let n := (c.sval32 f.c).toNat
    let dst := c.endpoint f.addr
    let src := c.endpoint f.data
    if !dst.fits n || !src.fits n then .error c.fatalIllegal
    else c.enqueue s f.dst (c.newCopy s src dst n 2 [])) s

/-- `CPX` (R205). -/
def execCpx (f : FmtM) (s : State) : Host.Outcome State Fault Refusal :=
  issue (.cpx f) (fun c s =>
    let n := (c.sval32 f.c).toNat
    let dst := c.endpoint f.addr
    if !dst.fits n then .error c.fatalIllegal
    else c.enqueue s f.dst (c.newCopy s (.pattern (c.sval32 f.data)) dst n 2 [])) s

/-- A layout record (R81). -/
structure Layout where
  base : DWord
  ext : List Nat
  str : List Nat
  box : List Nat
  halves : Nat
  edge : Nat
  repb : Bool

/-- The layout record that 64 bytes hold; none when it breaks a rule of R81. -/
def Layout.of (bs : List Byte) : Option Layout :=
  let mode := fieldLe bs 54 1
  let nd := mode % 8
  let et := fieldLe bs 53 1
  let ext := (List.range nd).map (fun d => fieldLe bs (8 + 4 * d) 4)
  let str := (List.range (nd - 1)).map (fun d => fieldLe bs (28 + 5 * d) 5)
  let box := (List.range nd).map (fun d => fieldLe bs (48 + d) 1 + 1)
  let halves := if et = 0 then 1 else 2 ^ et
  if nd < 1 ∨ 5 < nd ∨ 4 < et ∨ mode / 8 % 4 = 3 ∨ mode / 64 ≠ 0 ∨ fieldLe bs 55 9 ≠ 0 ∨ ext.contains 0 ∨ str.any (fun x => x % 16 != 0)
      ∨ (halves = 1 ∧ box.headD 1 % 2 = 1) then none
  else some { base := BitVec.ofNat 64 (fieldLe bs 0 8), ext := ext, str := str, box := box, halves := halves, edge := mode / 8 % 4,
              repb := decide (mode / 32 % 2 = 1) }

/-- The shape of a box fits a handle of `n` slots (R82): its first dimension is a line. -/
def Layout.fitsHandle (l : Layout) (n : Nat) : Bool :=
  let line := l.box.headD 1 * l.halves
  let ok := match l.halves with
    | 1 => n == 1 && line == 128
    | 2 => n == 2 && (line == 256 || line == 192)
    | 4 => n == 4 && line == 512
    | _ => line == 128 * n
  ok && decide ((l.box.drop 1).headD 1 ≤ 128) && (l.box.drop 2).all (fun b => b == 1)

/-- A `CPT` once its layout record has been read (R204). -/
def Ctx.boxCopy (c : Ctx) (f : FmtM) (load : Bool) (s : State) (bs : List Byte) : Effect :=
  match Layout.of bs with
  | none => .error c.fatalIllegal
  | some l =>
    let q := regNum f.c
    if 63 < q + l.ext.length - 1 then .error c.fatalIllegal
    else
      let start := (List.range l.ext.length).map (fun d => (c.g.sreg (q + d)).toInt)
      let tensor : Endpoint := .tensor l.base l.ext l.str start l.edge l.repb
      let dense : Endpoint := match f.data with
        | .h n => .lines (c.g.handle n.toNat).slots
        | o => .addr (c.sval 2 o)
      let fits := match f.data with
        | .h n => l.fitsHandle (c.g.handle n.toNat).slots.length
        | _ => true
      if !fits then .error c.fatalIllegal
      else
        let n := l.box.foldl (· * ·) 1
        match c.enqueue s f.dst (c.newCopy s (if load then tensor else dense) (if load then dense else tensor) n l.halves l.box) with
        | .ok s => .ok (s.retired c.core c.seat c.g.uid 1)
        | .error t => .error t

/-- `CPT`: reads its layout record, then enqueues (R81, R204). -/
def cptEffect (f : FmtM) (load : Bool) (c : Ctx) (s : State) : Effect :=
  let a := c.sval 2 f.addr
  if a.toNat % 64 ≠ 0 then .error (fatalAddress a)
  else
    match s.fetchNow c .record a 64 with
    | .trouble t => .error t
    | .wait s => .ok s
    | .got bs s => c.boxCopy f load (s.dropProbes c) bs

/-- `CPT.ld` (R204). -/
def execCptLd (f : FmtM) (s : State) : Host.Outcome State Fault Refusal := issue (.cptLd f) (cptEffect f true) s

/-- `CPT.st` (R204). -/
def execCptSt (f : FmtM) (s : State) : Host.Outcome State Fault Refusal := issue (.cptSt f) (cptEffect f false) s

/-- `CPW` (R206): it issues once the copy is complete, and ends its region (R262). -/
def execCpw (f : FmtM) (s : State) : Host.Outcome State Fault Refusal :=
  issue (.cpw f) (fun c s => .ok (s.newRegion c.core c.seat)) s

/-- State and bytes that `CPQ` reports for a ticket (R206). -/
def Core.copyReport (c : Core) (t : Word) : DWord :=
  let q := c.quad (t.extractLsb' 30 2).toNat
  let seq := (t.extractLsb' 0 30).toNat
  if copyComplete q.completed t then
    cpqWord 3 (match q.done.find? (fun d => d.seq == seq) with | some d => d.bytes | none => 0xFFFFFFFF)
  else
    match q.copies.find? (fun x => x.ticket == t) with
    | none => cpqWord 0 0
    | some x =>
      if !x.started then cpqWord 0 0
      else cpqWord (if (c.copyOps (t.extractLsb' 30 2).toNat).any (fun p => p.2.parked) then 2 else 1) (x.bytesOf x.done)

/-- `CPQ` (R206). -/
def execCpq (f : FmtM) (s : State) : Host.Outcome State Fault Refusal :=
  issue (.cpq f) (fun c s => .ok (s.writeScalar c f.dst 2 (c.now + 1) ((s.core c.core).copyReport (c.sval32 f.data)))) s

end Sys2Proof.Machine
end

