-- ==== Sys2Proof/Machine/Tile.lean ====
section
/-! DEFINITION. The tile store (R67 to R72, R90, R207 to R213): handles, mailboxes, tile loads and stores, words of a handle. -/

namespace Sys2Proof.Machine

/-! ### Handles and mailboxes -/

/-- Gives slots to a handle register of a group: it becomes live, with the generation of its first slot (R67). -/
def State.giveHandle (s : State) (core seat h : Nat) (slots : List Nat) (gen : BitVec 8) : State :=
  s.modGroup core seat (fun g => { g with handles := mset g.handles h { live := true, slots := slots, gen := gen } })

/-- `HALLOC` (R67, R208): a live handle is first released. -/
def execHalloc (f : FmtX) (s : State) : Host.Outcome State Fault Refusal :=
  issue (.halloc f) (fun c s =>
    let h := hnum f.dst
    let s := s.modCore c.core (fun co => (co.releaseHandle c.seat h).dropDemand c.seat)
    let (ns, s) := s.takeSlots c.core (hallocSlots f) (.handle c.seat h)
    .ok (s.giveHandle c.core c.seat h ns ((s.core c.core).slot (ns.headD 0)).gen)) s

/-- Waiting requests of a kind in the order in which they are granted (R42, R67): oldest first, ties in ascending logical id. -/
def Core.waiting (c : Core) (p : Demand → Bool) : List Demand :=
  sortBy (fun d => d.since * 2 ^ 48 + d.lgid) (c.demands.filter (fun d => !d.granted && p d))

/-- Grants the request of a seat: what it asks for is reserved. -/
def Core.grant (c : Core) (seat : Nat) : Core :=
  { c with demands := c.demands.map (fun d => if d.seat = seat then { d with granted := true } else d) }

/-- Grants slot requests in order, as far as the free slots reach. -/
def Core.grantSlots (c : Core) : List Demand → Core
  | [] => c
  | d :: ds => if c.lacks d ≤ c.openSlots then (c.grant d.seat).grantSlots ds else c

/-- `HALLOC_GRANT` (R67): free slots go to waiting `HALLOC` instructions, oldest first. -/
def execHallocGrant (core : Nat) (s : State) : Host.Outcome State Fault Refusal :=
  .next (s.modCore core (fun c => c.grantSlots (c.waiting (fun d => decide (0 < d.slots)))))

/-- `HFREE` (R68, R208). -/
def execHfree (f : FmtX) (s : State) : Host.Outcome State Fault Refusal :=
  issue (.hfree f) (fun c s => .ok (s.modCore c.core (fun co => co.releaseHandle c.seat (hnum f.a)))) s

/-- Withdraws a seat from the waiting list of its mailbox (R90). -/
def Core.leaveMail (c : Core) (seat : Nat) : Core := { c with mailWaits := c.mailWaits.filter (fun w => w.2.1 != seat) }

/-- `HPUT` (R69, R208): the handle is released, and its slots stay allocated to the mailbox. -/
def execHput (f : FmtX) (s : State) : Host.Outcome State Fault Refusal :=
  issue (.hput f) (fun c s =>
    let k := (f.xmod.extractLsb' 0 3).toNat
    let h := (c.g.handle (hnum f.a))
    let s := s.modCore c.core (fun co => (co.modSlots h.slots (fun x => { x with use := .mailbox k })).leaveMail c.seat)
    let s := s.modGroup c.core c.seat (fun g => { g with handles := mset g.handles (hnum f.a) { h with live := false } })
    .ok (s.modTeam c.core (fun t => { t with mail := mset t.mail k { slots := h.slots, gen := h.gen } }))) s

/-- `HTAKE` (R69, R208): a live destination is first released. -/
def execHtake (f : FmtX) (s : State) : Host.Outcome State Fault Refusal :=
  issue (.htake f) (fun c s =>
    let k := (f.xmod.extractLsb' 0 3).toNat
    let h := hnum f.dst
    match (s.core c.core).team.bind (fun t => mget t.mail k) with
    | none => .ok s
    | some m =>
      let s := s.modCore c.core (fun co =>
        ((co.releaseHandle c.seat h).modSlots m.slots (fun x => { x with use := .handle c.seat h })).leaveMail c.seat)
      .ok ((s.giveHandle c.core c.seat h m.slots m.gen).modTeam c.core (fun t => { t with mail := mdel t.mail k }))) s

/-- `HQRY` (R209). -/
def execHqry (f : FmtX) (s : State) : Host.Outcome State Fault Refusal :=
  issue (.hqry f) (fun c s =>
    let mail := ((s.core c.core).team.map (fun t => mkeys t.mail)).getD []
    let live := (c.g.handles.filter (fun p => p.2.live)).map Prod.fst
    .ok (s.writeScalar c f.dst 1 (c.now + 1) ((hqryWord (s.core c.core).freeSlots.length mail live).zeroExtend 64))) s

/-! ### Words of slots -/

/-- Writes words of a slot, given in ascending order. -/
def Core.putWords (c : Core) (slot : Nat) (ws : Map Word) : Core := c.modSlot slot (fun x => { x with words := mmerge x.words ws })

/-- Writes by slot of a handle (the first slot is 0), in ascending order within a slot, as writes by slot of the core. -/
def slotWrites (slots : List Nat) (ws : List (Nat × Nat × Word)) : Map (Map Word) :=
  ((List.range slots.length).zip slots).map (fun p => (p.2, (ws.filter (fun w => w.1 == p.1)).map Prod.snd))

def Core.putTiles (c : Core) (ts : Map (Map Word)) : Core := ts.foldl (fun c p => c.putWords p.1 p.2) c

/-! ### Tile loads and stores (R210, R211) -/

/-- Where the words of a tile in memory stand in a handle of `n` slots, in the order of its bytes: lines, then with `scl` the scale image. -/
def imageIndex (type n : Nat) (scl : Bool) : List (Nat × Nat) :=
  (List.range 128).flatMap (fun i => (List.range (lineUsed type n)).map (lineIndex type i))
    ++ (if scl then (List.range (tileImage type / 4)).map (fun j => (0, if j < 512 then sideWord + j else bandWord)) else [])

/-- Words of the first slot that a scale image sets to zero, beyond its own (R72). -/
def unusedScale (type : Nat) : List (Nat × Nat × Word) :=
  if type = 13 then [] else ((List.range 384).map (fun j => (0, sideWord + 128 + j, (0 : Word)))) ++ [(0, bandWord, 0)]

/-- Words of a byte list. -/
def bytesToWords : List Byte → List Word
  | a :: b :: c :: d :: t => (d ++ c ++ b ++ a) :: bytesToWords t
  | _ => []

/-- What a tile load writes, by slot of the handle. -/
def imageWrites (type n : Nat) (scl : Bool) (bs : List Byte) : List (Nat × Nat × Word) :=
  ((imageIndex type n scl).zip (bytesToWords bs)).map (fun p => (p.1.1, p.1.2, p.2)) ++ (if scl then unusedScale type else [])

/-- The bytes that a tile store writes. -/
def Core.imageBytes (c : Core) (slots : List Nat) (type : Nat) (scl : Bool) : List Byte :=
  let t : Tile := slots.map (fun k => (c.slot k).all)
  (imageIndex type slots.length scl).flatMap (fun p => leBytes 4 (t.word p.1 p.2).toNat)

/-- The accesses of a tile's pieces: to memory and to the scratchpad. A piece in no window or in the stack window is an address fault (R211).
`lane` numbers the pieces of a load. -/
def State.tileAcc (s : State) (c : Ctx) : Nat → List (DWord × Nat) → List Byte → Except Trouble (List Access × List Access)
  | _, [], _ => .ok ([], [])
  | k, (a, n) :: ps, bs =>
    match s.place c c.lane0 a, State.tileAcc s c (k + 1) ps (bs.drop n) with
    | _, .error e => .error e
    | some p, .ok (m, r) =>
      let x (va : Nat) : Access := { lane := if bs.isEmpty then k else 0, ga := a, va := va, bytes := n, data := bs.take n, cmp := [], res := [], bad := false }
      match p with
      | .scratch o => .ok (m, x o :: r)
      | .mem va st => if st then .error (fatalAddress a) else .ok (x va :: m, r)
    | none, _ => .error (fatalAddress a)

/-- The stride and the base of a tile access are legal (R211). -/
def Ctx.tileLegal (c : Ctx) (f : FmtX) (least : Nat) : Bool :=
  let st := (c.sval32 f.b).toNat
  decide ((c.sval 2 f.a).toNat % 16 = 0 ∧ st % 16 = 0 ∧ max 16 least ≤ st ∧ st ≤ 2 ^ 31 - 16)

/-- `TLD` (R211): its handle's slots stay pending until every byte is placed. -/
def execTld (f : FmtX) (s : State) : Host.Outcome State Fault Refusal :=
  issue (.tld f) (fun c s =>
    let slots := (c.g.handle (hnum f.dst)).slots
    let scl := f.scs == 1
    if !c.tileLegal f 16 then .error c.fatalIllegal
    else
      match s.tileAcc c 0 (c.tileAddrs f f.dst) [] with
      | .error t => .error t
      | .ok (m, r) =>
        if 64 < (pagesOf m).length then .error (fatalAddress (c.sval 2 f.a))
        else
          let o : MemOp := { c.op s (.tld slots f.fmta.toNat scl) with acc := m, scr := r, returning := true, notBefore := if r.isEmpty then 0 else c.now + 4 }
          let s := s.modCore c.core (fun co => co.modSlots slots (fun x => { x with pending := x.pending + 1 }))
          .ok (s.startOp c.core c.now o)) s

/-- `TST` (R211): its stores pass through write combining. -/
def execTst (f : FmtX) (s : State) : Host.Outcome State Fault Refusal :=
  issue (.tst f) (fun c s =>
    let slots := (c.g.handle (hnum f.c)).slots
    let scl := f.scs == 1
    if !c.tileLegal f (tileLine f.fmta.toNat slots.length) then .error c.fatalIllegal
    else if (s.core c.core).tileBad slots then .error (.fatal 0x27 0 0)
    else
      match s.tileAcc c 0 (c.tileAddrs f f.c) ((s.core c.core).imageBytes slots f.fmta.toNat scl) with
      | .error t => .error t
      | .ok (m, r) =>
        if 64 < (pagesOf m).length then .error (fatalAddress (c.sval 2 f.a))
        else
          let o : MemOp := { c.op s (.tst slots f.fmta.toNat scl) with acc := m, scr := r }
          let fill := s.fills c r
          let s := s.modCore c.core (fun co => co.modSlots slots (fun x => { x with reading := x.reading + 1 }))
          let s := (s.regionOpen c.core o.region true).startOp c.core c.now o
          .ok (if fill then s.newRegion c.core c.seat else s)) s

/-- A tile load whose every answer has reached the core: every byte is placed, and its marks clear (R211). -/
def State.finishTld (s : State) (core id : Nat) : State :=
  match s.op? core id with
  | none => s
  | some o =>
    match o.kind with
    | .tld slots ty scl =>
      let s := s.delOp core id
      match o.failed with
      | some (cause, addr) => s.opFatal core o cause 0 addr
      | none =>
        let ok := o.conflict.isNone
        let bs := (sortBy (fun a => a.lane) (o.acc ++ o.scr)).flatMap (fun a => a.res)
        let held := !ok && (s.groupOf core o.seat o.uid).isSome
        let s := s.modCore core (fun c =>
          let c := if ok then c.putTiles (slotWrites slots (imageWrites ty slots.length scl bs)) else c
          if held then c else c.unpend slots)
        let s := match o.conflict with
          | some x => s.modGroupOf core o.seat o.uid (fun g =>
              g.holdMmx { issued := o.issued, order := id, raised := s.now core, copy := false, info := mmxInfo (x.1, x.2.1, 0, x.2.2.2), slots := slots })
          | none => s
        s.retiredOp core o
    | _ => s

/-! ### Single words (R212, R213) -/

/-- The place of word `w` of a handle: slot and index (R212). -/
def wordPlace (slots : List Nat) (side : Bool) (w : Nat) : Option (Nat × Nat) :=
  if side then (if w ≤ 512 then some (slots.headD 0, sideWord + w) else none)
  else (slots[w / 2048]?).map (fun k => (k, w % 2048))

/-- The places that the participating lanes name, or the address fault of the first index outside the space. -/
def Ctx.wordPlaces (c : Ctx) (slots : List Nat) (side : Bool) (idx : Opd) : List Nat → Except Trouble (List (Nat × Nat × Nat))
  | [] => .ok []
  | l :: ls =>
    let w := ((c.read32 idx l).extractLsb' 0 14).toNat
    match wordPlace slots side w, Ctx.wordPlaces c slots side idx ls with
    | none, _ => .error (fatalAddress (BitVec.ofNat 64 w))
    | _, .error t => .error t
    | some p, .ok ps => .ok ((l, p.1, p.2) :: ps)

/-- `TRD` (R212). -/
def execTrd (f : FmtX) (s : State) : Host.Outcome State Fault Refusal :=
  issue (.trd f) (fun c s =>
    match row? (.trd f) with
    | none => .ok s
    | some r =>
      match c.wordPlaces (c.g.handle (hnum f.a)).slots (f.xmod.getLsbD 0) f.b (c.aluLanes r) with
      | .error t => .error t
      | .ok ps =>
        if (s.core c.core).tileBad (ps.map (fun p => p.2.1)) then .error (.fatal 0x27 0 0)
        else .ok (s.writeAlu c r (ps.map (fun p => (p.1, (((s.core c.core).slot p.2.1).word p.2.2).zeroExtend 64))) [])) s

/-- `TWR` (R212): lanes in ascending order, so that the highest stands; the scalar form writes one word. -/
def execTwr (f : FmtX) (s : State) : Host.Outcome State Fault Refusal :=
  issue (.twr f) (fun c s =>
    let ls := if isS f.b then [c.lane0] else c.effLanes f.hdr.guard
    match c.wordPlaces (c.g.handle (hnum f.dst)).slots (f.xmod.getLsbD 0) f.b ls with
    | .error t => .error t
    | .ok ps => .ok (s.modCore c.core (fun co => ps.foldl (fun co p =>
        co.modSlot p.2.1 (fun x => { x with words := mset x.words p.2.2 (c.read32 f.a p.1) })) co))) s

/-- `TFILL` (R213). -/
def execTfill (f : FmtX) (s : State) : Host.Outcome State Fault Refusal :=
  issue (.tfill f) (fun c s =>
    let slots := (c.g.handle (hnum f.dst)).slots
    let a := c.sval32 f.a
    let b := c.sval32 f.b
    let fill (k : Nat) (w : Word) (n : Nat) : Map Word := (List.range n).map (fun j => (k + j, w))
    let sb := (b.extractLsb' 0 8)
    let hi := (b.extractLsb' 16 16)
    .ok (s.modCore c.core (fun co =>
      let co := slots.foldl (fun co k => co.putWords k (fill 0 a 2048)) co
      if f.xmod.getLsbD 0 then co.putWords (slots.headD 0) (fill sideWord (sb ++ sb ++ sb ++ sb) 512 ++ [(bandWord, hi ++ hi)]) else co))) s

end Sys2Proof.Machine
end

