-- ==== Sys2Proof/Machine/Work.lean ====
section
/-! DEFINITION. Tile queues (R214 to R218, R289, R290) and the scorecards that `STRG` and stealing read (R219, R317 to R320). -/

namespace Sys2Proof.Machine

/-! ### Scorecards (R318, R319) -/

/-- Ranks in the order of their arrivals, ties in ascending rank. -/
def Generation.order (g : Generation) : List Nat := sortBy (fun r => (g.arr[r]?).getD 0) (List.range g.arr.length)

/-- The ranks that lag in a generation, under a threshold. -/
def Generation.lagging (g : Generation) (thr : Nat) : List Nat :=
  match g.late with
  | some ls => ls
  | none =>
    let o := g.order
    let at_ (i : Nat) : Nat := (g.arr[(o[i]?).getD 0]?).getD 0
    let n := g.arr.length
    if at_ ((n - 1) / 2) + thr < at_ (n - 1) then (o.drop (n - 1)).take 1 else []

/-- The rank of a device in a scorecard's membership. -/
def Card.rank (c : Card) (dev : Nat) : Option Nat := (List.range c.members.length).find? (fun r => c.members[r]? == some dev)

/-- Lag bits of a rank, newest generation first. -/
def Card.lags (c : Card) (rank : Nat) : List Bool := (c.gens.take 16).map (fun g => g.lag.contains rank)

/-- A persistent straggler (R318, R319). -/
def persistentLag (strgp : Word) (lags : List Bool) : Bool :=
  let p := strgp.toNat % 32
  decide (1 ≤ p ∧ p ≤ 16 ∧ p ≤ (lags.filter id).length)

/-- The device is a persistent straggler of a fabric barrier, on an owner's scorecard as it stands. -/
def Owner.straggler (o : Owner) (fb dev : Nat) : Bool :=
  match mget o.cards fb with
  | none => false
  | some c =>
    match c.rank dev with
    | none => false
    | some r => persistentLag o.strgp (c.lags r)

/-- The lag word of `STRG` (R219): 0 for a device that is no member. -/
def Owner.lagWord (o : Owner) (fb dev : Nat) : Word :=
  match mget o.cards fb with
  | none => 0
  | some c =>
    match c.rank dev with
    | none => 0
    | some r =>
      let ls := c.lags r
      strgWord true (persistentLag o.strgp ls) ls

/-- The arrival that `STRG.t` reads (R219). -/
def Owner.arrival (o : Owner) (fb dev back : Nat) : Word :=
  match mget o.cards fb with
  | none => 0xFFFFFFFE
  | some c =>
    match c.rank dev, (c.gens.take 16)[back]? with
    | some r, some g => BitVec.ofNat 32 (min ((g.arr[r]?).getD 0) 0xFFFFFFFD)
    | _, _ => 0xFFFFFFFE

/-- `STRG` (R219): written at the end of c + 7 (R354). -/
def execStrg (f : FmtM) (s : State) : Host.Outcome State Fault Refusal :=
  issue (.strg f) (fun c s =>
    .ok (s.writeScalar c f.dst 1 (c.now + 7)
      (((s.owner c.owner).lagWord (f.hint.extractLsb' 0 3).toNat ((c.sval32 f.data).extractLsb' 0 10).toNat).zeroExtend 64))) s

/-- Fabric time may be read by the group's grid (R26, R287). -/
def State.fabricReadable (s : State) (core : Nat) : Bool :=
  match s.gridOf core with
  | some g => g.packet.fta && !g.packet.det
  | none => false

/-- `STRG.t` (R219). -/
def execStrgT (f : FmtM) (s : State) : Host.Outcome State Fault Refusal :=
  issue (.strgT f) (fun c s =>
    let v := (s.owner c.owner).arrival (f.hint.extractLsb' 0 3).toNat ((c.sval32 f.data).extractLsb' 0 10).toNat
      ((c.sval32 f.c).extractLsb' 0 4).toNat
    .ok (s.writeScalar c f.dst 1 (c.now + 7) ((if s.fabricReadable c.core then v else 0xFFFFFFFF).zeroExtend 64))) s

/-! ### Queue steps -/

/-- Starts a queue step at the address of the issuing group (R216): `n` bytes that must be aligned to `n`. `idx` numbers a `TQSTEAL` in its grid's
log from 1; `want` is the tile that it must take in replay. -/
def Ctx.queueStep (c : Ctx) (s : State) (f : FmtM) (k : OpKind) (n words idx : Nat) (want : List Byte) : Effect :=
  let a := c.sval 2 f.addr + f.off.signExtend 64
  if a.toNat % n ≠ 0 then .error (fatalAddress a)
  else
    match s.place c c.lane0 a with
    | some (.mem va false) =>
      let id := (s.core c.core).nextOp
      let o : MemOp := { c.op s k with
        acc := [{ lane := 0, ga := a, va := va, bytes := if n = 64 then 24 else 32, data := [], cmp := want, res := [], bad := false }],
        dst := regId? f.dst, size := idx, returning := true, notBefore := c.now + 1 }
      let s := s.modGroup c.core c.seat (fun g => g.markOp f.dst words id)
      .ok ((s.startOp c.core c.now o).newRegion c.core c.seat)
    | _ => .error (fatalAddress a)

/-- `TQPOP` (R217). -/
def execTqpop (f : FmtM) (s : State) : Host.Outcome State Fault Refusal :=
  issue (.tqpop f) (fun c s => c.queueStep s f .tqpop 64 2 0 []) s

/-- `TQDONE` (R218): it issues once its release is complete. -/
def execTqdone (f : FmtM) (s : State) : Host.Outcome State Fault Refusal :=
  issue (.tqdone f) (fun c s => c.queueStep s f .tqdone 32 1 0 []) s

/-- The steal log of a grid's trace area (R288). -/
def Packet.stealLog (p : Packet) : Nat := p.traceb.toNat + (16 * p.teams + 63) / 64 * 64

/-- Bytes of the trace area, read through the owner's tables as they stand; the cause of a fault where they cannot be read: a colour violation (R30), an uncorrectable error (R335), or else an address
fault, for a page that is not present too (DESIGN CHOICE, row 19 of notes/assumptions). -/
def State.traceAt (s : State) (owner va n : Nat) : Except Nat (List Byte) :=
  match s.peek owner va with
  | .leaf l =>
    if l.tgt = 2 then .error 0x20
    else if !(s.owner owner).leafColourOk l va then .error 0x22
    else if l.tgt == 0 && s.errors.any (fun e => decide (e < l.addr va + n ∧ l.addr va < e + 128)) then .error 0x27
    else .ok ((if l.tgt = 1 then s.host else s.mem).readN (l.addr va) n)
  | .foreign => .error 0x22
  | _ => .error 0x20

/-- The same, or none. -/
def State.traceRead (s : State) (owner va n : Nat) : Option (List Byte) := (s.traceAt owner va n).toOption

/-- The value of the grid's next `TQSTEAL` in replay (R290): the log's, or NOSTEAL beyond it. -/
def State.replayed (s : State) (c : Ctx) (g : Grid) : Except Trouble DWord :=
  if g.packet.nlog ≤ g.steals then .ok resNosteal
  else
    let va := g.packet.stealLog + 8 * g.steals
    match s.traceAt c.owner va 8 with
    | .ok bs => .ok (BitVec.ofNat 64 (leNat bs))
    | .error cause => .error (.fatal cause 0 (BitVec.ofNat 64 va))

/-- `TQSTEAL` (R217, R289, R290). -/
def execTqsteal (f : FmtM) (s : State) : Host.Outcome State Fault Refusal :=
  issue (.tqsteal f) (fun c s =>
    let now_ (d : DWord) (s : State) : Effect := .ok ((s.writeScalar c f.dst 2 (c.now + 1) d).newRegion c.core c.seat |>.retiredAt c.core c.seat c.g.uid (c.now + 1))
    match s.gridOf c.core with
    | none => c.queueStep s f .tqsteal 64 2 0 []
    | some g =>
      let count (s : State) : State := s.modOwner c.owner (fun o => o.modGrid g.id (fun x => { x with steals := x.steals + 1 }))
      let first (s : State) : State := s.modTeam c.core (fun t => { t with stlx := some (t.stlx.getD g.steals) })
      if g.packet.trm = 1 then
        if g.packet.nlog ≤ g.steals then now_ resNosteal s else c.queueStep (first (count s)) f .tqsteal 64 2 (g.steals + 1) []
      else if g.packet.trm = 2 then
        match s.replayed c g with
        | .error t => .error t
        | .ok d => if 0xFFFFFFFFFFFFFFF0 ≤ d.toNat then now_ d (count s) else c.queueStep (count s) f .tqsteal 64 2 (g.steals + 1) (leBytes 8 d.toNat)
      else c.queueStep s f .tqsteal 64 2 0 []) s

/-- Appends the result of a `TQSTEAL` to the steal log, and its team's figures to the team's record (R288, R289): its first entry is that of the team's
first `TQSTEAL` to issue. -/
def State.logSteal (s : State) (core seat idx : Nat) (res : List Byte) : State :=
  match (s.core core).team, s.gridOf core with
  | some t, some g =>
    if g.packet.trm != 1 || idx = 0 then s
    else
      let s := s.modTeam core (fun t => { t with nstl := t.nstl + 1 })
      let s := s.deviceStore core seat (g.packet.stealLog + 8 * (idx - 1)) (res.take 8)
      s.deviceStore core seat (g.packet.traceb.toNat + 16 * t.teamId + 10)
        (leBytes 2 (min (t.nstl + 1) 0xFFFF) ++ leBytes 4 (t.stlx.getD (idx - 1)))
  | _, _ => s

/-- A queue step has been answered (R217, R218, R279, R290): the destination is written, and a step that took an entry acquires at system scope. -/
def State.finishQueue (s : State) (core id : Nat) : State :=
  match s.op? core id with
  | none => s
  | some o =>
    let res := (o.acc.head?.map (fun a => a.res)).getD []
    let want := (o.acc.head?.map (fun a => a.cmp)).getD []
    let steal := match o.kind with | .tqsteal => true | _ => false
    let done := match o.kind with | .tqdone => true | _ => false
    let s := s.delOp core id
    match o.failed, o.conflict with
    | some (cause, addr), _ => s.opFatal core o cause 0 addr
    | none, some x =>
      (s.modGroupOf core o.seat o.uid (fun g => g.holdMmx { issued := o.issued, order := id, raised := s.now core, copy := false, info := mmxInfo x })).retiredOp core o
    | none, none =>
      if !want.isEmpty && want != res.take 8 then s.opFatal core o 0x30 0 ((o.acc.head?.map (fun a => a.ga)).getD 0)
      else
        let s := match o.dst with
          | some d => s.modGroupOf core o.seat o.uid (fun g => (g.writeRegBytes d ((g.lanes.head?).getD 0) (res.take (if done then 4 else 8))).settleOp id (s.now core))
          | none => s
        let s := if !done && decide (leNat (res.take 8) < 0xFFFFFFFFFFFFFFF0) then s.modCore core (fun c => c.acquire 4) else s
        let s := if steal then s.logSteal core o.seat o.size res else s
        s.retiredOp core o

/-- A `TQSTEAL` step at the victim (R217, R290, R320): the result, and whether an entry left QUEUED. `pa` is the descriptor's place; `entry` gives that of a
byte offset from it. In replay the step takes the tile `expect` or nothing. -/
def State.stealStep (s : State) (owner pa : Nat) (entry : Nat → Option Nat) (dev lgid : Nat) (expect : Option DWord) : DWord × State :=
  let db := s.mem.readN pa 24
  let d := QDesc.of db
  if expect.isNone && (decide (7 < d.fb) || !(s.owner owner).straggler d.fb s.mgmt.device.toNat) then (resNosteal, s)
  else
    match d.stealEntry with
    | none => (resEmpty, s)
    | some j =>
      match entry (d.entryOff j) with
      | none => (resBadent, s)
      | some ea =>
        match takeEntry (s.mem.readN ea 32) stStolen dev lgid with
        | none => (resBadent, s)
        | some (t, e) =>
          if (match expect with | some x => x != t | none => false) then (resBadent, s)
          else (t, (s.writeAt false ea e).writeAt false pa (stealDesc db))

end Sys2Proof.Machine
end

