-- ==== Sys2Proof/Machine/Coll.lean ====
section
/-! DEFINITION. Collectives (R115, R220, R221, R291, R314 to R318, R322): issue, chunks and their homes, arrivals, failure, completion. -/

namespace Sys2Proof.Machine

/-! ### What a collective moves (R220, R315) -/

/-- Bytes of an element on the wire. -/
def wireBytes (wire : Nat) : Nat := if wire = 0 then 2 else if wire = 4 then 1 else 4

/-- Bytes of a block. -/
def Coll.block (x : Coll) : Nat := x.count * wireBytes x.wire

/-- Bytes of wire data in a chunk, and the chunks of a block. -/
def chunkBytes : Nat := 4096
def Coll.chunks (x : Coll) : List Nat := List.range ((x.block + chunkBytes - 1) / chunkBytes)

/-- Planes that the chunks travel on before the remap: chunk c on plane c mod 8 (R306). -/
def Coll.planes (x : Coll) : Nat := x.chunks.length

/-- The length of a chunk. -/
def Coll.chunkLen (x : Coll) (c : Nat) : Nat := min chunkBytes (x.block - chunkBytes * c)

def Coll.ranks (x : Coll) : List Nat := List.range x.members.length

/-- The blocks and chunks that the rank's DSTA receives, with the rank they come from. -/
def Coll.expected (x : Coll) : List (Nat × Nat × Nat) :=
  let n := max 1 x.members.length
  let each (b : Nat) (from_ : Nat → Nat) : List (Nat × Nat × Nat) := x.chunks.map (fun c => (b, c, from_ c))
  match x.op with
  | 0 => each 0 (fun c => c % n)
  | 1 => each x.rank (fun _ => x.rank)
  | 2 => x.ranks.flatMap (fun r => each r (fun _ => r))
  | 3 => each 0 (fun _ => x.root)
  | 4 => if x.rank = x.root then each 0 (fun _ => x.root) else []
  | 5 => each x.rank (fun _ => x.root)
  | _ => if x.rank = x.root then x.ranks.flatMap (fun r => each r (fun _ => r)) else []

/-- What the rank sends: receiving rank, block, chunk, whether it is a result already, and the offset in SRC. -/
def Coll.sends (x : Coll) : List (Nat × Nat × Nat × Bool × Nat) :=
  let n := max 1 x.members.length
  let own (r b : Nat) (res : Bool) (base : Nat) : List (Nat × Nat × Nat × Bool × Nat) := x.chunks.map (fun c => (r, b, c, res, base + chunkBytes * c))
  match x.op with
  | 0 => x.chunks.map (fun c => (c % n, 0, c, false, chunkBytes * c))
  | 1 => x.ranks.flatMap (fun r => own r r false (r * x.block))
  | 2 => x.ranks.flatMap (fun r => own r x.rank true 0)
  | 3 => if x.rank = x.root then x.ranks.flatMap (fun r => own r 0 true 0) else []
  | 4 => own x.root 0 false 0
  | 5 => if x.rank = x.root then x.ranks.flatMap (fun r => own r r true (r * x.block)) else []
  | _ => own x.root x.rank true 0

/-- Where a received chunk stands in DSTA. -/
def Coll.dstOff (x : Coll) (b c : Nat) : Nat := (if x.op = 2 ∨ x.op = 6 then b * x.block else 0) + chunkBytes * c

/-- The ranks that a home sends a reduced chunk to. -/
def Coll.receivers (x : Coll) : List Nat := if x.op = 0 then x.ranks else [x.rank]

/-- A tag of a fabric barrier (R317). -/
def barrierTag (tag : Nat) : Option Nat := if tag / 2 ^ 24 = 0xFB ∧ tag / 8 % 2 ^ 21 = 0 then some (tag % 8) else none

/-- The tag of fabric barrier `fb` without reserved bits. -/
def tagOf (fb : Nat) : Nat := 0xFB * 2 ^ 24 + fb

/-! ### The engine's accesses (R30, R85, R221, R278, R335) -/

/-- The scratchpad or global place of an address of a command. -/
def placeIn (segsp seggl a : DWord) : Option Place :=
  match windowOffset segsp a with
  | some o => some (.scratch o)
  | none => (windowOffset seggl a).map (fun va => .mem va false)

/-- What stops an access of an engine: a fault, with cause, subcause and address, or a page that is not present. -/
inductive EngineStop where
  | fault (cause sub : Nat) (a : DWord)
  | absent (va : Nat) (write : Bool) (a : DWord)
deriving DecidableEq, Repr

/-- Where an access of an engine goes. -/
inductive EnginePlace where
  | scratch (o : Nat)
  | mem (l : Leaf) (pa : Nat)
deriving DecidableEq, Repr

/-- The place of an access of an engine in the owner's tables as they stand. A page of a peer is an address fault (DESIGN CHOICE, row 28 of notes/assumptions). -/
def State.enginePlace (s : State) (owner : Nat) (segsp seggl a : DWord) (write : Bool) : Except EngineStop EnginePlace :=
  match placeIn segsp seggl a with
  | none => .error (.fault 0x20 0 a)
  | some (.scratch o) => .ok (.scratch o)
  | some (.mem va _) =>
    match s.peek owner va with
    | .leaf l =>
      if l.tgt = 2 then .error (.fault 0x20 0 a)
      else if write && !l.w then .error (.fault 0x21 1 a)
      else if !(s.owner owner).leafColourOk l va then .error (.fault 0x22 0 a)
      else .ok (.mem l (l.addr va))
    | .absent => .error (.absent va write a)
    | .foreign => .error (.fault 0x22 0 a)
    | _ => .error (.fault 0x20 0 a)

/-- Reads bytes for a command, piece by piece in lines; recorded for the race detector, not checked. -/
def State.engineRead (s : State) (owner core : Nat) (segsp seggl : DWord) (rho : Option Nat) (a : DWord) : List (Nat × Nat) → Except EngineStop (List Byte × State)
  | [] => .ok ([], s)
  | (o, n) :: ps =>
    let b := a + BitVec.ofNat 64 o
    match s.enginePlace owner segsp seggl b false with
    | .error e => .error e
    | .ok (.scratch k) =>
      if (s.core core).spError k n then .error (.fault 0x27 0 (BitVec.ofNat 64 (b.toNat - k % 128)))
      else
      match State.engineRead (s.recordScratch owner core k n .read rho) owner core segsp seggl rho a ps with
      | .ok (bs, s) => .ok ((s.core core).sp.readN k n ++ bs, s)
      | .error e => .error e
    | .ok (.mem l pa) =>
      if l.tgt == 0 && s.errors.contains (pa / 128 * 128) then .error (.fault 0x27 0 (BitVec.ofNat 64 (b.toNat / 128 * 128)))
      else
        match State.engineRead (s.recordAt owner l pa n .read rho) owner core segsp seggl rho a ps with
        | .ok (bs, s) => .ok (s.readAt (l.tgt == 1) pa n ++ bs, s)
        | .error e => .error e

/-- Writes one piece for a command. A line that is written leaves the L1 of the command's core (R268). -/
def State.enginePut (s : State) (owner core : Nat) (rho : Option Nat) (p : EnginePlace) (bs : List Byte) : State :=
  match p with
  | .scratch k => (s.recordScratch owner core k bs.length .write rho).modCore core (fun c => c.spWrite k bs)
  | .mem l pa =>
    ((s.recordAt owner l pa bs.length .write rho).writeAt (l.tgt == 1) pa bs).modCore core (fun c => c.l1Lose (pa / 128 * 128) (l.tgt == 1))

/-- Writes bytes for a command: all of them, or none with what stops it. -/
def State.engineWrite (s : State) (owner core : Nat) (segsp seggl : DWord) (rho : Option Nat) (a : DWord) : List (Nat × Nat) → List Byte → Except EngineStop State
  | [], _ => .ok s
  | (o, n) :: ps, bs =>
    match s.enginePlace owner segsp seggl (a + BitVec.ofNat 64 o) true with
    | .error e => .error e
    | .ok p =>
      match p with
      | .scratch k =>
        if (s.core core).raceError k n then .error (.fault 0x27 0 (BitVec.ofNat 64 ((a + BitVec.ofNat 64 o).toNat - k % 128)))
        else State.engineWrite (s.enginePut owner core rho p (bs.take n)) owner core segsp seggl rho a ps (bs.drop n)
      | .mem _ _ => State.engineWrite (s.enginePut owner core rho p (bs.take n)) owner core segsp seggl rho a ps (bs.drop n)

/-- Bytes that become free values, piece by piece where they can be written at all (R291). -/
def State.engineFree (s : State) (owner core : Nat) (segsp seggl : DWord) (rho : Option Nat) (a : DWord) (ps : List (Nat × Nat)) : State :=
  ps.foldl (fun s x =>
    match s.enginePlace owner segsp seggl (a + BitVec.ofNat 64 x.1) true with
    | .error _ => s
    | .ok p =>
      { s.enginePut owner core rho p ((List.range x.2).map (fun j => (Config.freeWord (s.free + j)).extractLsb' 0 8)) with free := s.free + x.2 }) s

/-- Offsets and lengths of the pieces of `n` bytes at an address, cut where lines end. -/
def linePieces (a : DWord) (n : Nat) : List (Nat × Nat) :=
  (cutLines (n / 128 + 2) (a.toNat % 128) n).map (fun p => (p.1 - a.toNat % 128, p.2))

/-! ### Commands of an owner -/

/-- The command with a number, and its die. -/
def Owner.coll? (o : Owner) (k : Nat) : Option (Nat × Coll) :=
  o.dies.findSome? (fun d => (mget d.2.colls k).map (fun x => (d.1, x)))

/-- The number by which the messages of a device are known in a command (R317). -/
def Coll.serialOf (x : Coll) (dev : Nat) : Option Nat := (x.ranks.find? (fun r => x.members[r]? == some dev)).bind (fun r => x.serials[r]?)

/-- A message of a device belongs to the collective of a command: by its TAG (R314), and among the generations of a fabric barrier by its number (R317). -/
def Coll.owns (x : Coll) (tag dev serial : Nat) : Bool := x.tag == tag && ((barrierTag tag).isNone || x.serialOf dev == some serial)

/-- Waiting data belongs to the collective of a command. -/
def Coll.holds (x : Coll) (w : Waiting) : Bool := x.owns w.tag w.dev w.serial

/-- The incomplete command that has not failed and that a message belongs to, with its number. -/
def Owner.collFor (o : Owner) (tag dev serial : Nat) : Option (Nat × Coll) :=
  o.dies.findSome? (fun d => d.2.colls.find? (fun p => p.2.code.isNone && p.2.owns tag dev serial))

/-- Data that waits in any of the owner's partitions, oldest first within each. -/
def Owner.waiting (o : Owner) : List Waiting := o.dies.flatMap (fun d => d.2.waiting)

/-- Waiting data is dropped. -/
def Owner.wipe (o : Owner) (p : Waiting → Bool) : Owner := { o with dies := o.dies.map (fun d => (d.1, { d.2 with waiting := d.2.waiting.filter (fun w => !p w) })) }

/-- A list without the first entry that equals `w`. -/
def dropOne (w : Waiting) : List Waiting → List Waiting
  | [] => []
  | x :: xs => if x = w then xs else x :: dropOne w xs

/-- Waiting data is taken out of its partition: one entry of the first partition that holds it. -/
def dropFirst (w : Waiting) : Map DiePart → Map DiePart
  | [] => []
  | (d, p) :: ds => if p.waiting.contains w then (d, { p with waiting := dropOne w p.waiting }) :: ds else (d, p) :: dropFirst w ds

def Owner.takeWaiting (o : Owner) (w : Waiting) : Owner := { o with dies := dropFirst w o.dies }

def Owner.modColl (o : Owner) (k : Nat) (f : Coll → Coll) : Owner :=
  { o with dies := o.dies.map (fun d => (d.1, { d.2 with colls := mmod d.2.colls k f })) }

def State.modColl (s : State) (owner k : Nat) (f : Coll → Coll) : State := s.modOwner owner (fun o => o.modColl k f)

/-- What leaves at once: what is no fabric traffic of an owner. -/
def State.emit (s : State) (m : OutMsg) : State := { s with outbox := s.outbox ++ [m] }

/-- Flits that a message of `n` data bytes takes: one for the request, 64 bytes in each other (R306). -/
def flitsOf (n : Nat) : Nat := 1 + (n + 63) / 64

/-- A message of an owner waits at a plane port (R255, R306, R308). -/
def State.sendOn (s : State) (owner plane bytes : Nat) (m : OutMsg) : State :=
  { s with fab := { s.fab with ports := s.fab.ports ++ [{ owner := owner, plane := plane, flits := flitsOf bytes, msg := m }] } }

/-- The head of a message before it leaves its port. -/
def blankHead : FlitHead := { device := 0, plane := 0, gen := 0, seq := 0 }

/-- The generation that stands in the head of a message which has been judged on its arrival at a port (MODEL: a generation of the fabric has 4 bits). -/
def judged : Nat := 16

/-- A flit of an earlier generation than one that has come from its sender, and a replayed one, are dropped; any other is noted (R308, R309). -/
def State.freshFlit (s : State) (h : FlitHead) : Option State :=
  if h.gen = judged then some s else
  let key := h.device * 8 + h.plane % 8
  let seen := (mget s.fab.seen h.device).getD (h.gen, 0)
  let last := (mget s.fab.seen (1024 * 8 + key)).map Prod.snd
  let old := (mget s.fab.seen h.device).isSome && seen.1 != h.gen && decide ((seen.1 + 16 - h.gen) % 16 < 8)
  let again := match last with | some q => decide (h.seq ≤ q) | none => false
  if old || again then none
  else some { s with fab := { s.fab with seen := mset (mset s.fab.seen h.device (h.gen, 0)) (1024 * 8 + key) (h.gen, h.seq) } }

/-- A command fails (R316): its own STATUS, the notices to every other member, the end of the data that waits for it, and the memory of failed tags (R314, R322). -/
def State.failCollAt (s : State) (owner k code dev : Nat) (missing : List Nat) (declared : Nat) (notify : Bool) : State :=
  match (s.owner owner).coll? k with
  | none => s
  | some (_, x) =>
    if x.code.isSome then s
    else
      let s := s.modOwner owner (fun o =>
        let o : Owner := (o.modColl k (fun x => { x with code := some (code, dev), missing := missing, declared := declared, page := none })).wipe x.holds
        if (barrierTag x.tag).isSome then o else { o with failedTags := ((x.tag, code, dev) :: o.failedTags).take 64 })
      if notify then
        ((List.range x.members.length).zip x.members).foldl (fun s p => if p.2 = s.mgmt.device.toNat then s
          else s.sendOn owner 0 0 (.notice p.2 {
            head := blankHead, ctx := (s.owner owner).record.ctx, tag := x.tag, code := code, dev := dev, serial := (x.serials[p.1]?).getD 0, missing := missing, declared := declared })) s
      else s

/-- A failure that this device detects now. -/
def State.failColl (s : State) (owner k code dev : Nat) (missing : List Nat) (notify : Bool) : State :=
  s.failCollAt owner k code dev missing s.fabricTime notify

/-- The command cannot reach its memory: its issuer takes the fault, and the command ends. -/
def State.collFault (s : State) (owner k cause sub : Nat) (addr : DWord) : State :=
  match (s.owner owner).coll? k with
  | none => s
  | some (d, x) =>
    let s := s.modOwner owner (fun o => (o.modDie d (fun p => { p with colls := mdel p.colls k })).wipe x.holds)
    (s.regionOpen x.core x.region false).fatalFor x.core x.seat x.uid cause sub x.pc x.csn x.lgid addr

/-- What stops an access of the command: a fault ends it; for a page that is not present it waits, on a halted core it ends (R30, R85, R88, R330). -/
def State.collStop (s : State) (owner k : Nat) (e : EngineStop) : State :=
  match (s.owner owner).coll? k, e with
  | none, _ => s
  | some _, .fault cause sub a => s.collFault owner k cause sub a
  | some (_, x), .absent va w a =>
    if (s.core x.core).halt.isSome then s.collFault owner k 0x20 0 a
    else s.modColl owner k (fun x => { x with page := some { va := va, write := w, ga := a, since := (s.owner owner).oclk } })

/-! ### What waits in a partition (R315, R316) -/

/-- Bytes that wait in an owner's partition of a die. -/
def DiePart.held (p : DiePart) : Nat := (p.waiting.map (fun w => w.data.length)).foldl (· + ·) 0

/-- A contribution of `n` bytes finds room there (R315, R316). -/
def DiePart.room (p : DiePart) (owner n : Nat) : Bool := decide (p.held + n ≤ Config.reductionRoom owner)

/-- Data waits in a partition; none when there is no room. -/
def State.hold (s : State) (owner die : Nat) (w : Waiting) : Option State :=
  if ((s.owner owner).die die).room owner w.data.length then
    some (s.modOwner owner (fun o => o.modDie die (fun p => { p with waiting := p.waiting ++ [w] })))
  else none

/-- Contributions of one chunk of one collective. -/
def sameChunk (x y : Waiting) : Bool := !x.result && !y.result && x.tag == y.tag && x.block == y.block && x.chunk == y.chunk

/-- The oldest incomplete chunk of a partition, by its first contribution, and the ranks that are present; without one, that of the contribution itself (R316). -/
def DiePart.oldest (p : DiePart) (w : Waiting) : Waiting × List Nat :=
  match p.waiting.find? (fun x => !x.result) with
  | some x => (x, (p.waiting.filter (sameChunk x)).map (fun y => y.rank))
  | none => (w, if w.result then [] else [w.rank])

/-- Data that finds no room makes its collective LATE (R316): the lowest rank missing from the oldest incomplete chunk is named. Before the command has issued here
its members are not known: the failure waits for it. -/
def State.noRoom (s : State) (owner die : Nat) (w : Waiting) : State :=
  let o := s.owner owner
  let (y, here) := (o.die die).oldest w
  let devOf (x : Coll) : Option Nat := (x.ranks.find? (fun r => !here.contains r)).bind (fun r => x.members[r]?)
  let known := (o.collFor y.tag y.dev y.serial).bind (fun p => devOf p.2)
  match o.collFor w.tag w.dev w.serial with
  | some (k, x) => s.failColl owner k 3 ((known.or (devOf x)).getD 0) (if x.holds y then x.ranks.filter (fun r => !here.contains r) else []) true
  | none => s.modOwner owner (fun o =>
      let o := o.wipe (fun v => v.tag == w.tag && ((barrierTag w.tag).isNone || (v.dev == w.dev && v.serial == w.serial)))
      { o with early := o.early ++ [{ tag := w.tag, from_ := w.dev, serial := w.serial, code := 3, dev := known, present_ := some here, missing := [],
                                      declared := s.fabricTime }] })

/-- Data waits, or its collective is LATE. -/
def State.holdOr (s : State) (owner die : Nat) (w : Waiting) : State := (s.hold owner die w).getD (s.noRoom owner die w)

/-- A chunk of DSTA has come: it is written, or waits for its page. -/
def State.collDeliver (s : State) (owner k : Nat) (w : Waiting) : State :=
  match (s.owner owner).coll? k with
  | none => s
  | some (d, x) =>
    if x.code.isSome || x.got.contains (w.block, w.chunk) then s
    else if x.page.isSome then s.holdOr owner d w
    else
      let a := x.dsta + BitVec.ofNat 64 (x.dstOff w.block w.chunk)
      match s.engineWrite owner x.core x.segsp x.seggl x.region a (linePieces a w.data.length) w.data with
      | .ok s => s.modColl owner k (fun x => { x with got := x.got ++ [(w.block, w.chunk)] })
      | .error e =>
        let s := s.collStop owner k e
        if (((s.owner owner).coll? k).bind (fun p => p.2.page)).isSome then s.holdOr owner d w else s

/-- Elements of wire data, as numbers, and back. -/
def wireElems (w : Nat) : Nat → List Byte → List Nat
  | 0, _ => []
  | n + 1, bs => if bs.isEmpty then [] else leNat (bs.take w) :: wireElems w n (bs.drop w)

/-- Reduces contributions element by element, in ascending rank (R115). -/
def reduceChunk (wire red : Nat) (parts : List (List Byte)) : List Byte :=
  let w := wireBytes wire
  let es := parts.map (fun p => wireElems w p.length p)
  let n := (es.headD []).length
  (List.range n).flatMap (fun j => leBytes w (reduceElem wire red (es.map (fun e => (e[j]?).getD 0))))

/-- Delivers what a rank sends to another. -/
def State.collTo (s : State) (owner k : Nat) (x : Coll) (r b c : Nat) (data : List Byte) : State :=
  match x.members[r]? with
  | none => s
  | some d =>
    let serial := (x.serials[r]?).getD 0
    if r = x.rank then s.collDeliver owner k { tag := x.tag, serial := serial, dev := d, rank := r, result := true, block := b, chunk := c, since := s.fabricTime, agrees := true, data := data }
    else s.sendOn owner (c % 8) data.length (.contribution d
          { head := blankHead, ctx := (s.owner owner).record.ctx, tag := x.tag, rank := x.rank, block := b, chunk := c, result := true,
            agrees := true, serial := serial, data := data })

/-- Contributions of a command's chunk that wait, whatever the die. -/
def Owner.parts (o : Owner) (x : Coll) (b c : Nat) : List Waiting := o.waiting.filter (fun w => x.holds w && !w.result && w.block == b && w.chunk == c)

/-- A home reduces a chunk when every contribution is present (R315). -/
def State.collReduce (s : State) (owner k b c : Nat) : State :=
  match (s.owner owner).coll? k with
  | none => s
  | some (_, x) =>
    let ws := (s.owner owner).parts x b c
    let parts := x.ranks.map (fun r => ws.find? (fun w => w.rank == r))
    if x.code.isSome || x.reduced.contains (b, c) || !parts.all Option.isSome then s
    else
      let mine := parts.filterMap id
      let data := reduceChunk x.wire x.red (mine.map (fun w => w.data))
      let s := (s.modOwner owner (fun o => mine.foldl Owner.takeWaiting o)).modColl owner k (fun x => { x with reduced := x.reduced ++ [(b, c)] })
      x.receivers.foldl (fun s r => s.collTo owner k x r b c data) s

/-- A contribution reaches its home (R315, R316): the chunk is reduced when it is the last. It waits on die 0 before the home's own command has issued, and then on the
die of that command. -/
def State.collInput (s : State) (owner : Nat) (w : Waiting) : State :=
  match (s.owner owner).collFor w.tag w.dev w.serial with
  | none => s.holdOr owner 0 w
  | some (k, x) =>
    if !w.agrees then s.failColl owner k 4 0 [] true
    else
      match s.hold owner (dieOf x.core) w with
      | none => s.noRoom owner (dieOf x.core) w
      | some s => s.collReduce owner k w.block w.chunk

/-- A result reaches a receiver (R315): DSTA takes it, or it waits for the command that it belongs to. -/
def State.collResult (s : State) (owner : Nat) (w : Waiting) : State :=
  match (s.owner owner).collFor w.tag w.dev w.serial with
  | none => s.holdOr owner 0 w
  | some (k, x) =>
    if !w.agrees then s.failColl owner k 4 0 [] true
    else if x.got.contains (w.block, w.chunk) then s.holdOr owner (dieOf x.core) w
    else s.collDeliver owner k w

/-- How many of the owner's collectives at fabric barrier `fb` have had a device as a member. -/
def Owner.peerSerial (o : Owner) (fb dev : Nat) : Nat := ((mget o.cards fb).bind (fun c => mget c.serials dev)).getD 0

/-- A flit belongs to a collective that has failed (R314, R316): to a remembered TAG; to a failure that is known before its command; or to a generation of a fabric barrier
that this device has counted and whose command has failed or ended. -/
def Owner.flitDead (o : Owner) (tag dev serial : Nat) : Bool :=
  match barrierTag tag with
  | none => o.failedTags.any (fun f => f.1 == tag) || o.early.any (fun e => e.tag == tag)
  | some fb => o.early.any (fun e => e.tag == tag && e.from_ == dev && e.serial == serial)
      || (decide (serial ≤ o.peerSerial fb dev) && (o.collFor tag dev serial).isNone)

/-- The owner that a fabric context is bound to (R305). -/
def State.boundOwner (s : State) (ctx : Nat) : Option Nat := (s.owners.find? (fun p => p.2.admitted && p.2.record.ctx == ctx)).map Prod.fst

/-- The collective engine that a contribution comes to (R315). -/
def Owner.chunkUnit (o : Owner) (c : Contribution) : Nat :=
  unitWord (((o.collFor c.tag c.head.device c.serial).map (fun x => dieOf x.2.core)).getD 0) 7 0

/-- `CHUNK_CONTRIBUTION_ARRIVAL` (R308, R309, R315, R316): an input for a chunk whose home is here, or a result for DSTA. -/
def execChunkContributionArrival (c : Contribution) (s : State) : Host.Outcome State Fault Refusal :=
  .next (match s.boundOwner c.ctx, s.freshFlit c.head with
    | some k, some s =>
      let s := s.serves k ((s.owner k).chunkUnit c)
      let w : Waiting := { tag := c.tag, serial := c.serial, dev := c.head.device, rank := c.rank, result := c.result, block := c.block, chunk := c.chunk,
                           since := s.fabricTime, agrees := c.agrees, data := c.data }
      if (s.owner k).flitDead c.tag c.head.device c.serial then s
      else if c.result then s.collResult k w
      else s.collInput k w
    | _, _ => s)

/-- A result that waits for the command, if the command still wants it. -/
def Owner.earlyResult (o : Owner) (x : Coll) : Option Waiting := o.waiting.find? (fun w => x.holds w && w.result && !x.got.contains (w.block, w.chunk))

/-- Data of another descriptor waits for the command (R221). -/
def Owner.earlyDiffers (o : Owner) (x : Coll) : Bool := o.waiting.any (fun w => x.holds w && !w.agrees)

/-- The next chunk that the command sends: what it reads of SRC goes to a home or to a receiver (R315). -/
def State.collChunk (s : State) (owner k : Nat) (x : Coll) : State :=
  match x.sends[x.begun]? with
  | none => s.modColl owner k (fun x => { x with sent := true })
  | some (r, b, c, res, off) =>
    let a := x.src + BitVec.ofNat 64 off
    match s.engineRead owner x.core x.segsp x.seggl x.region a (linePieces a (x.chunkLen c)) with
    | .error e => s.collStop owner k e
    | .ok (data, s) =>
      let s := s.modColl owner k (fun x => { x with begun := x.begun + 1, sent := decide (x.sends.length ≤ x.begun + 1) })
      let serial := (x.serials[r]?).getD 0
      if res then s.collTo owner k x r b c data
      else if r = x.rank then s.collInput owner { tag := x.tag, serial := serial, dev := s.mgmt.device.toNat, rank := x.rank, result := false, block := b, chunk := c,
                                                  since := s.fabricTime, agrees := true, data := data }
      else s.sendOn owner (c % 8) data.length (.contribution ((x.members[r]?).getD 0)
        { head := blankHead, ctx := (s.owner owner).record.ctx, tag := x.tag, rank := x.rank, block := b, chunk := c,
          result := false, agrees := true, serial := serial, data := data })

/-- The ranks whose contribution to a chunk of the command has not come within 500 µs of the first (R316); none while no chunk is late. -/
def Owner.lateChunk (o : Owner) (x : Coll) (now : Nat) : Option (List Nat) :=
  (o.waiting.find? (fun w => x.holds w && !w.result && !x.reduced.contains (w.block, w.chunk) && decide (w.since + 500000 ≤ now))).map (fun w =>
    x.ranks.filter (fun r => !(o.parts x w.block w.chunk).any (fun y => y.rank == r)))

/-- The sending ranks whose data a receiver still waits for. -/
def Owner.lacking (o : Owner) (x : Coll) : List Nat :=
  let here (e : Nat × Nat × Nat) : Bool := x.got.contains (e.1, e.2.1) || o.waiting.any (fun w => x.holds w && w.result && w.block == e.1 && w.chunk == e.2.1)
  x.ranks.filter (fun r => r != x.rank && x.expected.any (fun e => e.2.2 == r && !here e))

/-- A 500 µs limit of a command has passed (R316): at a home, for the contributions of a chunk; at a receiver, for the data of a sending rank. -/
def State.collLate (s : State) (owner : Nat) (x : Coll) : Option (List Nat) :=
  let o := s.owner owner
  match o.lateChunk x s.fabricTime with
  | some ls => some ls
  | none => if s.fabricTime < x.issued + 500000 || (o.lacking x).isEmpty then none else some (o.lacking x)

/-- A collective engine begins a chunk operation (R19, R255): a result that has come before the command goes to DSTA, or the next chunk leaves. A command whose limit has
passed sends nothing more (R316), and one that waits for a page goes no further (R88). -/
def State.collSend (s : State) (owner k : Nat) : State :=
  match (s.owner owner).coll? k with
  | none => s
  | some (d, x) =>
    let o := s.owner owner
    if x.code.isSome || x.page.isSome || o.served.contains (unitWord d 7 0) || (s.collLate owner x).isSome then s
    else if o.earlyDiffers x then s.failColl owner k 4 0 [] true
    else
      match o.earlyResult x with
      | some w => ((s.serves owner (unitWord d 7 0)).modOwner owner (fun o => o.takeWaiting w)).collDeliver owner k w
      | none => if x.sent then s else (s.serves owner (unitWord d 7 0)).collChunk owner k x

/-- `COLL_LATE_TIMEOUT` (R316). -/
def execCollLateTimeout (owner coll : Nat) (s : State) : Host.Outcome State Fault Refusal :=
  .next (match (s.owner owner).coll? coll with
    | none => s
    | some (_, x) =>
      if x.code.isSome then s
      else
        match s.collLate owner x with
        | none => s
        | some miss => s.failColl owner coll 3 ((x.members[miss.headD 0]?).getD 0) miss true)

/-- `FAILURE_NOTICE` (R314, R316): the first notice of an incomplete command gives its STATUS; one that comes before the command is kept for it. -/
def execFailureNotice (n : FailNotice) (s : State) : Host.Outcome State Fault Refusal :=
  .next (match s.boundOwner n.ctx, s.freshFlit n.head with
    | some k, some s =>
      let dev := n.head.device
      match (s.owner k).collFor n.tag dev n.serial with
      | some (j, _) => s.failCollAt k j n.code n.dev n.missing n.declared false
      | none =>
        if (s.owner k).flitDead n.tag dev n.serial then s
        else if (barrierTag n.tag).isNone then s.modOwner k (fun o =>
          { o.wipe (fun w => w.tag == n.tag) with failedTags := ((n.tag, n.code, n.dev) :: o.failedTags).take 64 })
        else s.modOwner k (fun o => { o.wipe (fun w => w.tag == n.tag && w.dev == dev && w.serial == n.serial) with
          early := o.early ++ [{ tag := n.tag, from_ := dev, serial := n.serial, code := n.code, dev := some n.dev, present_ := none, missing := n.missing,
                                 declared := n.declared }] })
    | _, _ => s)

/-! ### Scorecards (R317, R318) -/

/-- A scorecard before its first generation. -/
def Card.blank : Card := { members := [], gens := [], stamps := [], serials := [] }

/-- A stamp of a device. -/
def Card.stamp (c : Card) (dev serial time : Nat) : Card := { c with stamps := mset c.stamps dev ((mget c.stamps dev).getD [] ++ [(serial, time)]) }

/-- The stamp of a device in a collective. -/
def Card.stampOf (c : Card) (x : Coll) (dev : Nat) : Option Nat :=
  (((mget c.stamps dev).getD []).find? (fun p => x.serialOf dev == some p.1)).map Prod.snd

/-- `SCORECARD_STAMP` (R318): a stamp of a collective that has failed is discarded (R316). -/
def execScorecardStamp (st : CardStamp) (s : State) : Host.Outcome State Fault Refusal :=
  .next (match s.boundOwner st.ctx, s.freshFlit st.head with
    | some k, some s =>
      if (s.owner k).flitDead (tagOf st.fb) st.device st.serial then s
      else s.modOwner k (fun o => { o with cards := mset o.cards st.fb (((mget o.cards st.fb).getD .blank).stamp st.device st.serial st.time) })
    | _, _ => s)

/-- The arrival of a tagged command at its fabric barrier (R317): a new membership clears the scorecard; every member device counts one more collective. -/
def Owner.cardIssue (o : Owner) (fb : Nat) (members : List Nat) : Owner :=
  let c := (mget o.cards fb).getD .blank
  let c : Card := if c.members = members then c else { c with members := members, gens := [] }
  { o with cards := mset o.cards fb { c with serials := (dedup members).foldl (fun m d => mset m d ((mget m d).getD 0 + 1)) c.serials } }

/-- The stamps of a collective are done with. -/
def Card.settle (c : Card) (x : Coll) : Card :=
  { c with stamps := c.stamps.map (fun p => (p.1, match x.serialOf p.1 with | some n => p.2.filter (fun y => decide (n < y.1)) | none => p.2)) }

/-- Records a generation that ended (R317, R318), under the lag threshold `thr`. -/
def Card.record (c : Card) (x : Coll) (late : Option (List Nat)) (declared thr : Nat) : Card :=
  let first (r : Nat) : Option Nat := (x.members[r]?).bind (fun d => c.stampOf x d)
  let times := x.ranks.filterMap first
  let t0 := times.foldl min (times.headD declared)
  let arr := x.ranks.map (fun r => if (late.getD []).contains r then declared - t0 else (first r).getD declared - t0)
  let g : Generation := { arr := arr, late := late, lag := [] }
  { c.settle x with gens := ({ g with lag := g.lagging thr } :: c.gens).take 16 }

/-- The command has received what it waits for, or has failed, and no page keeps it (R88, R221, R315): every stamp of a completed fabric-barrier generation has come too. -/
def Owner.collReady (o : Owner) (x : Coll) : Bool :=
  x.page.isNone && match x.code with
  | some _ => true
  | none =>
    x.sent && x.expected.all (fun e => x.got.contains (e.1, e.2.1))
      && (match barrierTag x.tag with
          | none => true
          | some fb =>
            match mget o.cards fb with
            | none => true
            | some c => x.members.all (fun d => (c.stampOf x d).isSome))

/-- STATUS of a completed command (R181, R221). -/
def collStatus (code : Option (Nat × Nat)) : Word := 0x80000000 ||| fenceStatus code

/-- Bytes of DSTA that a rank's command may have written. -/
def Coll.outBytes (x : Coll) : Nat :=
  match x.op with
  | 2 => x.members.length * x.block
  | 4 => if x.rank = x.root then x.block else 0
  | 6 => if x.rank = x.root then x.members.length * x.block else 0
  | _ => x.block

/-- What the end of a command leaves in its scorecard (R317, R318): a generation that ended with CODE 0 or LATE is recorded. -/
def Owner.cardEnd (o : Owner) (x : Coll) (now : Nat) : Owner :=
  match barrierTag x.tag with
  | none => o
  | some fb => { o with cards := mmod o.cards fb (fun c => match x.code with
      | none => c.record x none now o.strgt.toNat
      | some (3, _) => c.record x (some x.missing) x.declared o.strgt.toNat
      | some _ => c.settle x) }

/-- `COLL_COMPLETION` (R221, R291, R314, R318): after a failure DSTA holds free values; STATUS is written after all of DSTA. -/
def execCollCompletion (owner coll : Nat) (s : State) : Host.Outcome State Fault Refusal :=
  .next (match (s.owner owner).coll? coll with
    | none => s
    | some (d, x) =>
      if !(s.owner owner).collReady x then s
      else
        match s.engineWrite owner x.core x.segsp x.seggl x.region (x.desc + 40) [(0, 4)] (leBytes 4 (collStatus x.code).toNat) with
        | .error e => s.collStop owner coll e
        | .ok _ =>
          let s := if x.code.isSome && x.moves then s.engineFree owner x.core x.segsp x.seggl x.region x.dsta (linePieces x.dsta x.outBytes) else s
          let s := ((s.engineWrite owner x.core x.segsp x.seggl x.region (x.desc + 40) [(0, 4)] (leBytes 4 (collStatus x.code).toNat)).toOption).getD s
          let s := s.modOwner owner (fun o => ((o.modDie d (fun p => { p with colls := mdel p.colls coll })).wipe (fun w => (barrierTag x.tag).isSome && x.holds w)).cardEnd x s.fabricTime)
          s.regionOpen x.core x.region false)

/-! ### Issue (R220, R221) -/

/-- A descriptor's fields that are reserved or combined in a forbidden way (R220). -/
def collIllegal (bs : List Byte) : Bool :=
  let op := fieldLe bs 20 1
  let wire := fieldLe bs 21 1 % 16
  let red := fieldLe bs 21 1 / 16
  let reduces := op = 0 ∨ op = 1 ∨ op = 4
  let n := fieldLe bs 32 2
  decide (6 < op ∨ 4 < wire ∨ 2 < red ∨ (reduces ∧ wire = 4) ∨ (¬reduces ∧ red ≠ 0)
    ∨ fieldLe bs 16 4 = 0 ∨ 2 ^ 31 < fieldLe bs 16 4 ∨ 1024 ≤ fieldLe bs 22 2 ∨ n = 0 ∨ 1024 < n ∨ fieldLe bs 34 2 ≠ 0 ∨ fieldLe bs 44 20 ≠ 0)

/-- The ranks' devices that a member table of 16-bit entries holds. -/
def memberTable : List Byte → List Nat
  | a :: b :: t => (a.toNat + 256 * b.toNat) % 1024 :: memberTable t
  | _ => []

/-- A list holds no number twice. -/
def noRepeat : List Nat → Bool
  | [] => true
  | x :: xs => !xs.contains x && noRepeat xs

/-- Reads the member table by pages: the bytes, a wait, or trouble. -/
def State.fetchMany (s : State) (c : Ctx) (a : DWord) : List (Nat × Nat) → Fetched (List Byte)
  | [] => .got [] s
  | (o, n) :: ps =>
    match s.fetchNow c .command (a + BitVec.ofNat 64 o) n with
    | .trouble t => .trouble t
    | .wait s => .wait s
    | .got bs s =>
      match State.fetchMany s c a ps with
      | .got r s => .got (bs ++ r) s
      | x => x

/-- What a `COLL` fails by at issue (R221, R313, R316): a table that lacks the device or repeats one, a root that is no rank where the operation has one (DESIGN CHOICE,
row 28 of notes/assumptions), or a member that is lost. -/
def State.collBad (s : State) (members : List Nat) (op root : Nat) : Option (Nat × Nat × Bool) :=
  let dev := s.mgmt.device.toNat
  if !members.contains dev || !noRepeat members then some (4, 0, false)
  else if 3 ≤ op && decide (members.length ≤ root) then some (4, 0, false)
  else (members.find? (fun d => d != dev && s.fab.lost.contains d)).map (fun d => (1, d, true))

/-- `COLL` once its descriptor and member table have been read (R221, R314, R317, R318). -/
def Ctx.startColl (c : Ctx) (s : State) (a : DWord) (bs : List Byte) (members : List Nat) : State :=
  let dev := s.mgmt.device.toNat
  let rank := (List.range members.length).find? (fun r => members[r]? == some dev)
  let (csn, s) := s.takeCsn c
  let tag := fieldLe bs 36 4
  let fb := barrierTag tag
  let bad := s.collBad members (fieldLe bs 20 1) (fieldLe bs 22 2)
  let region := (s.group? c.core c.seat).bind (fun g => g.region)
  let s := match fb with | some n => s.modOwner c.owner (fun o => o.cardIssue n members) | none => s
  let o := s.owner c.owner
  let serials := match fb with | some n => members.map (o.peerSerial n) | none => members.map (fun _ => 0)
  let known := if fb.isSome then none else (o.failedTags.find? (fun f => f.1 == tag)).map Prod.snd
  let x : Coll := {
    core := c.core, seat := c.seat, uid := c.g.uid, tids := c.g.tids, lgid := s.lgid c.core c.seat, region := region, csn := csn, pc := c.pc, segsp := c.g.segsp,
    seggl := c.g.seggl, desc := a, src := BitVec.ofNat 64 (fieldLe bs 0 8), dsta := BitVec.ofNat 64 (fieldLe bs 8 8), count := fieldLe bs 16 4,
    op := fieldLe bs 20 1, wire := fieldLe bs 21 1 % 16, red := fieldLe bs 21 1 / 16, root := fieldLe bs 22 2, members := members, tag := tag,
    rank := rank.getD 0, issued := s.fabricTime, got := [], code := known, missing := [], declared := s.fabricTime, serials := serials,
    moves := known.isNone && (match bad with | some (4, _) => false | _ => true), page := none, begun := 0, sent := false, reduced := [] }
  let k := o.nextColl
  let s := s.modOwner c.owner (fun o =>
    { o.modDie (dieOf c.core) (fun p => { p with colls := mset p.colls k x }) with nextColl := k + 1 })
  let s := s.regionOpen c.core region true
  let s := match fb with
    | some n =>
      ((List.range members.length).zip members).foldl (fun (s : State) (p : Nat × Nat) =>
        let serial := (serials[p.1]?).getD 0
        if p.2 = dev then s.modOwner c.owner (fun o => { o with cards := mmod o.cards n (fun x => x.stamp dev serial s.fabricTime) })
        else s.sendOn c.owner 0 0 (.stamp p.2 { head := blankHead, ctx := o.record.ctx, fb := n, device := dev, serial := serial, time := x.issued })) s
    | none => s
  let early := o.early.find? (fun e => x.owns e.tag e.from_ e.serial)
  let s := match early with
    | some _ => s.modOwner c.owner (fun o => { o with early := o.early.filter (fun y => !x.owns y.tag y.from_ y.serial) })
    | none => s
  let s := match bad, early with
    | some (code, d, notify), _ => s.failColl c.owner k code d [] notify
    | none, none => s
    | none, some e =>
      let miss := match e.present_ with | some here => x.ranks.filter (fun r => !here.contains r) | none => e.missing
      let device := match e.dev with | some d => d | none => (x.members[miss.headD 0]?).getD 0
      s.failCollAt c.owner k e.code device miss e.declared e.present_.isSome
  (s.newRegion c.core c.seat).retired c.core c.seat c.g.uid 1

/-- `COLL` (R220, R221). -/
def execColl (f : FmtM) (s : State) : Host.Outcome State Fault Refusal :=
  issue (.coll f) (fun c s =>
    let a := c.sval 2 f.addr
    if a.toNat % 64 ≠ 0 then .error (fatalAddress a)
    else
      match s.fetchNow c .command a 64 with
      | .trouble t => .error t
      | .wait s => .ok s
      | .got bs s =>
        if collIllegal bs then .error c.fatalIllegal
        else
          let ma := BitVec.ofNat 64 (fieldLe bs 24 8)
          match s.fetchMany c ma (linePieces ma (2 * fieldLe bs 32 2)) with
          | .trouble t => .error t
          | .wait s => .ok s
          | .got ms s => .ok (c.startColl (s.dropProbes c) a bs (memberTable ms))) s

end Sys2Proof.Machine
end

