-- ==== Sys2Proof/Machine/Ctl.lean ====
section
/-! DEFINITION. Branches and calls (R48, R53, R120, R168 to R170), joins, exit and yield (R51, R52, R171, R172). While a trap is handled, a
divergent `BRD`, a `CALLI` with more than one target, `REFORM` and `EXIT` are illegal (R327). -/

namespace Sys2Proof.Machine

/-! ### Transfers of control (R119, R120, R128) -/

/-- The PC of slot number n + OFF; none when it does not fit a PC. -/
def targetPc (pc : Nat) (off : BitVec 27) : Option Nat :=
  let n := (slotNumber pc : Int) + off.toInt
  if n < 0 then none
  else
    let t := pcOfSlot n.toNat
    if pcOk t then some t else none

/-- A checked transfer of control of the issuing group. -/
def Ctx.jump (c : Ctx) (s : State) (pc : Option Nat) (addr : DWord) : Effect :=
  match pc with
  | none => .error (.fatal 0x24 0 addr)
  | some p => .ok (s.modCore c.core (fun co => co.transfer c.seat p c.now))

/-- The target of a relative branch. -/
def Ctx.branch (c : Ctx) (s : State) (off : BitVec 27) : Effect :=
  c.jump s (targetPc c.pc off) (BitVec.ofInt 64 ((c.pc : Int) + off.toInt * 12))

/-- A computed target (R120, R168). -/
def Ctx.computed (c : Ctx) (s : State) (a : DWord) : Effect :=
  c.jump s (if pcOk a.toNat then some a.toNat else none) a

/-- A v guard that differs among the active lanes (R48, R167). -/
def Ctx.guardSplit (c : Ctx) (g : Option Grd) : Bool := (c.effLanes g).length != c.g.lanes.length

/-- `BRA` (R168). -/
def execBra (f : FmtB) (s : State) : Host.Outcome State Fault Refusal :=
  issue (.bra f) (fun c s => if c.guardSplit f.hdr.guard then .error c.fatalIllegal else c.branch s f.off) s

/-- `JMP` (R168). -/
def execJmp (f : FmtB) (s : State) : Host.Outcome State Fault Refusal :=
  issue (.jmp f) (fun c s => if c.guardSplit f.hdr.guard then .error c.fatalIllegal else c.computed s (c.sval 2 f.a)) s

/-- `CALL` (R168): the return address is written before control passes. -/
def execCall (f : FmtB) (s : State) : Host.Outcome State Fault Refusal :=
  issue (.call f) (fun c s =>
    if c.guardSplit f.hdr.guard then .error c.fatalIllegal
    else
      let d := BitVec.ofNat 64 (nextPc c.pc)
      let rs : Results := (if isS f.dst then [c.lane0] else c.g.lanes).map (fun l => (l, d))
      c.branch (s.modGroup c.core c.seat (fun g => (g.writeResults f.dst 2 rs).markRegs f.dst 2 (c.now + 1))) f.off) s

/-- `RET` (R168). -/
def execRet (f : FmtB) (s : State) : Host.Outcome State Fault Refusal :=
  issue (.ret f) (fun c s =>
    let a := c.read 2 f.a c.lane0
    if c.guardSplit f.hdr.guard || c.g.lanes.any (fun l => c.read 2 f.a l != a) then .error c.fatalIllegal else c.computed s a) s

/-- The seat's group starts a fresh region (R275). -/
def State.freshRegion (s : State) (c : Ctx) : State := s.newRegion c.core c.seat

/-- `BRD` (R48, R169). -/
def execBrd (f : FmtB) (s : State) : Host.Outcome State Fault Refusal :=
  issue (.brd f) (fun c s =>
    let taken := c.effLanes f.hdr.guard
    if taken.length = c.g.lanes.length then c.branch s f.off
    else
      let others := c.g.lanes.filter (fun l => !taken.contains l)
      if c.g.handling.isSome then .error c.fatalIllegal
      else
      let live := f.live.toNat
      match targetPc c.pc f.off with
      | none => c.branch s f.off
      | some t =>
        if others.length ≤ taken.length then
          c.jump ((s.toDeck c.core c.seat others (nextPc c.pc) c.g.allot live none false).freshRegion c) (some t) 0
        else .ok ((s.toDeck c.core c.seat taken t c.g.allot live none true).freshRegion c)) s

/-! ### CALLI (R53, R170) -/

/-- BUD of a code pointer. -/
def ptrBud (p : DWord) : Nat := (p.extractLsb' 48 6).toNat
/-- PC of a code pointer. -/
def ptrPc (p : DWord) : Nat := (p.extractLsb' 0 48).toNat

/-- A code pointer that `CALLI` refuses whatever its target's line holds. -/
def badPointer (live : Nat) (p : DWord) : Bool :=
  p.extractLsb' 54 10 != 0 || decide (ptrBud p < 2 ∨ 32 < ptrBud p ∨ 8 * ptrBud p < live) || !pcOk (ptrPc p)

/-- Reads the target lines of a `CALLI`, one after the other: the pointers whose TMASK bit is clear (R120, R170). -/
def State.clearTargets (s : State) (c : Ctx) : List DWord → Fetched (List DWord)
  | [] => .got [] s
  | p :: ps =>
    let line := ptrPc p / 64 * 64
    match c.g.fetchVa line with
    | none => .trouble (fatalAddress (BitVec.ofNat 64 line))
    | some va =>
      match s.readNow c .code (BitVec.ofNat 64 line) va 64 with
      | .trouble t => .trouble t
      | .wait s => .wait s
      | .got bs s =>
        match State.clearTargets s c ps with
        | .got r s => .got (if lineTmask bs (ptrPc p % 64 / 12) then r else p :: r) s
        | x => x

/-- The pointer whose split stays (R53): most threads, then the lowest PC; then the lowest budget (DESIGN CHOICE, row 19 of notes/assumptions). -/
def stayingPointer (ps : List DWord) : DWord :=
  let count (p : DWord) : Nat := (ps.filter (fun q => q == p)).length
  ps.foldl (fun b p =>
    if count b < count p ∨ (count p = count b ∧ (ptrPc p < ptrPc b ∨ (ptrPc p = ptrPc b ∧ ptrBud p < ptrBud b))) then p else b) (ps.headD 0)

/-- Distinct pointers in the order of the lanes. -/
def distinct (ps : List DWord) : List DWord := ps.foldl (fun acc p => if acc.contains p then acc else acc ++ [p]) []

/-- `CALLI` once every target is known to be legal (R53): the return address, the splits, and the transfer of the one that stays. -/
def Ctx.callSplit (c : Ctx) (s : State) (f : FmtB) (eff : List Nat) (ptr : Nat → DWord) : State :=
  let live := f.live.toNat
  let ps := eff.map ptr
  let ret := BitVec.ofNat 64 (nextPc c.pc)
  let s := s.modGroup c.core c.seat (fun g => g.writeResults f.dst 2 (eff.map (fun l => (l, ret))))
  let out := c.g.lanes.filter (fun l => !eff.contains l)
  let s := if out.isEmpty then s else s.toDeck c.core c.seat out (nextPc c.pc) c.g.allot live none false
  let stay := stayingPointer ps
  let s := ((distinct ps).filter (fun p => p != stay)).foldl (fun s p =>
    s.toDeck c.core c.seat (eff.filter (fun l => ptr l == p)) (ptrPc p) (8 * ptrBud p) live none false) s
  let s := if (distinct ps).length = 1 then s else s.freshRegion c
  let s := s.modGroup c.core c.seat (fun g => g.markRegs f.dst 2 (c.now + 1))
  let s := s.modCore c.core (fun co => (co.transfer c.seat (ptrPc stay) c.now).modGroup c.seat (fun g => { g with tcheck := false }))
  let s := (s.riseTo c.core c.seat (8 * ptrBud stay)).retiredAt c.core c.seat c.g.uid (c.now + 1)
  if ((s.group? c.core c.seat).bind (fun g => g.wait)).isSome then s.endPlay c.core c.seat else s

/-- `CALLI` (R53, R170): the checks come before any effect; a target line that is not at hand is read first, and the instruction issues again. -/
def execCalli (f : FmtB) (s : State) : Host.Outcome State Fault Refusal :=
  issue (.calli f) (fun c s =>
    let live := f.live.toNat
    let eff := c.effLanes f.hdr.guard
    let ptr (l : Nat) : DWord := c.read 2 f.a l
    let ps := eff.map ptr
    if live ≤ regNum f.dst + 1 || (c.g.handling.isSome && 1 < (distinct ps).length) then .error c.fatalIllegal
    else
      match ps.find? (badPointer live) with
      | some p => .error (.fatal 0x24 0 p)
      | none =>
        match s.clearTargets c (distinct ps) with
        | .trouble t => .error t
        | .wait s => .ok s
        | .got bad s =>
          match ps.find? bad.contains with
          | some p => .error (.fatal 0x24 0 p)
          | none => .ok (c.callSplit (s.dropProbes c) f eff ptr)) s

/-! ### Joins, exit and yield -/

/-- `DMARK` (R51). -/
def execDmark (f : FmtB) (s : State) : Host.Outcome State Fault Refusal :=
  issue (.dmark f) (fun c s =>
    let n := f.jn.toNat
    let fresh := (c.g.threads.filter (fun p => !p.2.jmask.getLsbD n)).length
    let s := s.modGroup c.core c.seat (fun g =>
      { g with threads := g.threads.map (fun p => (p.1, { p.2 with jmask := p.2.jmask ||| ((1 : BitVec 8) <<< n) })) })
    .ok (s.modJoin c.core n (fun j => { j with e := j.e + fresh }))) s

/-- `REFORM` (R51): the counted threads arrive; a group that holds a live handle or an origin keeps them in its seat, and any other sends them to the
deck; the token is passed first (R283). -/
def execReform (f : FmtB) (s : State) : Host.Outcome State Fault Refusal :=
  issue (.reform f) (fun c s =>
    let n := f.jn.toNat
    let live := f.live.toNat
    let arr := (c.g.threads.filter (fun p => p.2.jmask.getLsbD n)).map Prod.fst
    let pass := c.g.lanes.filter (fun l => !arr.contains l)
    let next := nextPc c.pc
    if c.g.handling.isSome then .error c.fatalIllegal
    else if arr.isEmpty then .ok (s.retired c.core c.seat c.g.uid 1)
    else
      let s := s.tokenPass c.core c.seat
      let s := s.modJoin c.core n (fun j => { j with a := j.a + arr.length, budget := max j.budget c.g.allot })
      let holds := c.g.handles.any (fun h => h.2.live) || !c.g.origins.isEmpty
      let s :=
        if holds then
          let s := if pass.isEmpty then s else s.toDeck c.core c.seat pass next c.g.allot live none false
          (s.modGroup c.core c.seat (fun g => { g with wait := some (.join n live c.pc) })).endPlay c.core c.seat
        else
          let s := s.toDeck c.core c.seat arr next c.g.allot live (some n) false
          if pass.isEmpty then s.vacate c.core c.seat else (s.retired c.core c.seat c.g.uid 1).freshRegion c
      .ok (s.testJoin c.core n)) s

/-- The exit of threads would leave a participant of an open region without a thread (R235). -/
def State.orphans (s : State) (core : Nat) (t : Team) (tids : List Nat) : Bool :=
  let clu := match t.cluster with
    | some (k, _) => ((mget (s.owner t.owner).clusters k).map (fun x => x.regions)).getD []
    | none => []
  (t.regions ++ clu).any (fun r => r.2.isOpen && r.2.parts.any (fun p => p.core == core && p.tids.any tids.contains
    && p.tids.all (fun x => t.exited.contains x || tids.contains x)))

/-- `EXIT` (R52, R55, R283). -/
def execExit (f : FmtB) (s : State) : Host.Outcome State Fault Refusal :=
  issue (.exit f) (fun c s =>
    match (s.core c.core).team with
    | none => .ok s
    | some t =>
      if c.g.handling.isSome then .error c.fatalIllegal
      else
      let ls := c.effLanes f.hdr.guard
      let ths := ls.filterMap (fun l => mget c.g.threads l)
      let tids := ths.map (fun x => x.tid)
      if s.orphans c.core t tids then .error fatalSolve
      else
      let keys := tids.map (fun x => 1024 * t.teamId + x)
      let atKey := s.det c.core && (match (s.gridOf c.core).bind (fun g => g.key) with | some k => keys.contains k | none => false)
      let s := if s.det c.core then s.modOwner t.owner (fun o => o.modGrid t.grid (fun g => { g with gone := g.gone ++ keys })) else s
      let s := if atKey then s.passToken c.core c.seat else s
      let s := s.barrierExits c.core tids.length
      let s := s.modTeam c.core (fun t => { t with exited := t.exited ++ tids })
      let s := s.modGroup c.core c.seat (fun g => { g with threads := g.threads.filter (fun p => !ls.contains p.1) })
      let s := if ls.length = c.g.lanes.length then s.vacate c.core c.seat else s
      .ok ((List.range 8).foldl (fun s n =>
        let k := (ths.filter (fun x => x.jmask.getLsbD n)).length
        if k = 0 then s else (s.modJoin c.core n (fun j => { j with e := j.e - k })).testJoin c.core n) s)) s

/-- `YIELD` (R172): the play ends. -/
def execYield (f : FmtB) (s : State) : Host.Outcome State Fault Refusal :=
  issue (.yield f) (fun c s => .ok (s.endPlay c.core c.seat)) s

/-- `YIELD.done` (R172): a PRE handler between S and S + 8,191 of its owner's switch waits for the switch. -/
def execYieldDone (f : FmtB) (s : State) : Host.Outcome State Fault Refusal :=
  issue (.yieldDone f) (fun c s =>
    let due := match s.mgmt.switch, c.g.handling with
      | some w, some h => h.pre && w.delivered && !w.cut && w.out == some c.owner
      | _, _ => false
    let s := if due then s.modGroup c.core c.seat (fun g => { g with wait := some .yielded }) else s.retired c.core c.seat c.g.uid 1
    .ok (s.endPlay c.core c.seat)) s

end Sys2Proof.Machine
end

