-- ==== Sys2Proof/Machine/Lane.lean ====
section
/-! DEFINITION. Lane operations (R162 to R166). -/

namespace Sys2Proof.Machine

/-- Participants of a lane operation in ascending `TID` (R162). -/
def Ctx.participants (c : Ctx) (g : Option Grd) : List Nat := sortBy c.g.tid (c.effLanes g)

/-- The lane that `SHFL` reads (R163). -/
def shflLane (mode l s : Nat) : Option Nat :=
  let j : Int := match mode with
    | 0 => s
    | 1 => (l : Int) - s
    | 2 => l + s
    | _ => Nat.xor l s
  if 0 ≤ j ∧ j ≤ 31 then some j.toNat else none

/-- `SHFL` (R163). -/
def execShfl (f : FmtA) (s : State) : Host.Outcome State Fault Refusal :=
  alu (.shfl f) (fun c l =>
    match shflLane (f.opt.extractLsb' 0 2).toNat l ((c.read32 f.b l).extractLsb' 0 5).toNat with
    | some j => if c.g.lanes.contains j then c.readTy f.ty f.a j else c.readTy f.ty f.a l
    | none => c.readTy f.ty f.a l) s

/-- Writes one result to an s destination, or to a v destination in every participating lane. -/
def State.writeOne (s : State) (c : Ctx) (r : Row) (ps : List Nat) (d : DWord) (xs : List (Nat × Exc)) : State :=
  s.writeAlu c r (if isS r.dst then [(c.lane0, d)] else ps.map (fun l => (l, d))) xs

/-- The result of `VOTE` over participants (R164). -/
def voteResult (mode : Nat) (ps : List (Nat × Word)) (bit : Nat) : DWord :=
  match mode with
  | 0 => flag (ps.all (fun p => p.2.getLsbD bit))
  | 1 => flag (ps.any (fun p => p.2.getLsbD bit))
  | 2 => (maskOf ((ps.filter (fun p => p.2.getLsbD bit)).map Prod.fst)).zeroExtend 64
  | _ => flag (ps.all (fun p => ps.all (fun q => p.2 == q.2)))

/-- `VOTE` (R164): with no participant an s destination still receives the result. -/
def execVote (f : FmtA) (s : State) : Host.Outcome State Fault Refusal :=
  issue (.vote f) (fun c s =>
    match row? (.vote f) with
    | none => .ok s
    | some r =>
      let ps := c.effLanes f.hdr.guard
      .ok (s.writeOne c r ps (voteResult (f.opt.extractLsb' 0 2).toNat (ps.map (fun l => (l, c.read32 f.a l)))
        (f.opt.extractLsb' 2 5).toNat) [])) s

/-! ### Reductions (R165) -/

/-- An integer reduction over a non-empty list. -/
def intReduce (t : Ty) (op : Nat) (sat : Bool) (xs : List DWord) : DWord :=
  let is_ := xs.map (intOf t)
  let h := is_.headD 0
  match op with
  | 0 => intPut t sat (is_.foldl (· + ·) 0)
  | 1 => intPut t false (is_.foldl min h)
  | 2 => intPut t false (is_.foldl max h)
  | 3 => xs.foldl (· &&& ·) (xs.headD 0)
  | 4 => xs.foldl (· ||| ·) 0
  | _ => xs.foldl (· ^^^ ·) 0

/-- The exact sum of floats, rounded once (R165). In RD every exactly zero sum is −0, whatever its addends (DEDUCED, row 41 of notes/assumptions). -/
def fpSum (f : Fp) (mode : Mode) (xs : List FVal) : Nat × Exc :=
  match f.nanRule xs with
  | some r => r
  | none =>
    let pos := xs.contains (.inf false)
    let neg := xs.contains (.inf true)
    if pos && neg then f.bad 3
    else if pos then (f.infBits false, 0)
    else if neg then (f.infBits true, 0)
    else
      let d (x : FVal) : Dyad := match x with | .fin n m e => dyadOf n m e | _ => (0, 0)
      let allNeg := xs.all (fun x => match x with | .fin n m _ => n && m == 0 | _ => false)
      f.roundDyad mode false (allNeg || zeroNeg mode) (xs.foldl (fun a x => Dyad.add a (d x)) (0, 0))

/-- The minimum or maximum of floats (R151, R165): one NaN is passed over, and of two or more the first is the result. -/
def fpExtreme (f : Fp) (isMax : Bool) (bs : List Nat) : Nat × Exc :=
  let xs := bs.map f.unpack
  let nums := bs.filter (fun b => !(f.unpack b).isNan)
  let exc := if xs.any FVal.isSig then excInvalid else 0
  match nums with
  | [] => (f.nanRule xs).getD (0, 0)
  | b :: rest =>
    if nums.length + 2 ≤ bs.length then (f.nanRule xs).getD (0, 0)
    else (rest.foldl (fun a x => (f.minmax isMax a x).1) b, exc)

/-- A reduction over a non-empty list in `TID` order. -/
def reduce (t : Ty) (op : Nat) (rm : Rm) (sat : Bool) (xs : List DWord) : DWord × Exc :=
  match tyFp t with
  | some (f, _) =>
    let r := if op = 0 then fpSum f (modeOf rm 0) (xs.map (fun d => f.unpack d.toNat)) else fpExtreme f (op == 2) (xs.map BitVec.toNat)
    (BitVec.ofNat 64 r.1, r.2)
  | none => (intReduce t op sat xs, 0)

/-- The identity of an operation (R166). -/
def redIdentity (t : Ty) (op : Nat) : DWord :=
  match op with
  | 1 => (match tyFp t with | some (f, _) => BitVec.ofNat 64 (f.infBits false) | none => intPut t false (intRange t).2)
  | 2 => (match tyFp t with | some (f, _) => BitVec.ofNat 64 (f.infBits true) | none => intPut t false (intRange t).1)
  | 3 => trunc (tyBits t) (2 ^ 64 - 1)
  | _ => 0

/-- `GRED` (R165). -/
def execGred (f : FmtA) (s : State) : Host.Outcome State Fault Refusal :=
  issue (.gred f) (fun c s =>
    match row? (.gred f) with
    | none => .ok s
    | some r =>
      let ps := c.participants f.hdr.guard
      let (d, e) := reduce f.ty (f.opt.extractLsb' 0 3).toNat f.rm f.sat (ps.map (c.readTy f.ty f.a))
      .ok (s.writeOne c r ps d [(((c.effLanes f.hdr.guard).head?).getD 0, e)])) s

/-- The results of a scan: `before` are the values of earlier participants. -/
def scanResults (t : Ty) (op : Nat) (rm : Rm) (sat excl : Bool) (before : List DWord) : List (Nat × DWord) → List (Nat × DWord × Exc)
  | [] => []
  | (l, d) :: ps =>
    let xs := if excl then before else before ++ [d]
    let r := match xs with
      | [] => (redIdentity t op, 0)
      | xs => reduce t op rm sat xs
    (l, r) :: scanResults t op rm sat excl (before ++ [d]) ps

/-- `GSCAN` (R166). -/
def execGscan (f : FmtA) (s : State) : Host.Outcome State Fault Refusal :=
  issue (.gscan f) (fun c s =>
    match row? (.gscan f) with
    | none => .ok s
    | some r =>
      let rs := scanResults f.ty (f.opt.extractLsb' 0 3).toNat f.rm f.sat (f.opt.getLsbD 3) []
        ((c.participants f.hdr.guard).map (fun l => (l, c.readTy f.ty f.a l)))
      .ok (s.writeAlu c r (rs.map (fun p => (p.1, p.2.1))) (rs.map (fun p => (p.1, p.2.2))))) s

end Sys2Proof.Machine
end

