-- ==== Sys2Proof/Machine/Matrix.lean ====
section
/-! DEFINITION. The matrix engines (R73, R160, R161, R222 to R234, R251): commands, their issue, what they compute, their course; single cells. -/

namespace Sys2Proof.Machine

/-! ### What a command names -/

/-- Slots that a command reads on its own core, one list for each operand; a broadcast's B apart. -/
def EngineOp.reads : EngineOp → List (List Nat)
  | .mma _ _ _ _ _ ha hb => [ha, hb]
  | .mmas _ _ _ _ _ ha hb hb2 hm => [ha, hb, hb2, hm]
  | .mmab _ _ _ _ _ ha _ _ _ _ => [ha]
  | .mma64 _ _ ha hb => [ha, hb]
  | .mmai _ _ ha hb => [ha, hb]
  | .acz => []
  | .acst .. => []
  | .cvtb _ _ _ _ ha _ _ _ => [ha]
  | .bscl _ _ ha hb _ _ _ => [ha, hb]

/-- Slots that a command writes. -/
def EngineOp.writes : EngineOp → List Nat
  | .acst _ _ _ _ _ _ hd _ _ => hd
  | .cvtb _ _ _ _ _ hd _ _ => hd
  | .bscl _ _ _ _ hd _ _ => hd
  | _ => []

/-- The command reads its origin without writing it. -/
def EngineOp.onlyReads : EngineOp → Bool
  | .acst .. => true
  | _ => false

/-- D of the matrix commands by their operand types (R251). -/
def mmaTime (fa fb : Nat) : Nat :=
  let small (x : Nat) : Bool := x == 5 || x == 12 || x == 13
  let wide (x : Nat) : Bool := x == 6 || x == 7
  if small fa && small fb then 128 else if wide fa || wide fb then 512 else 256

/-- D of a command (R251). -/
def EngineOp.time : EngineOp → Nat
  | .mma _ _ _ fa fb _ _ => mmaTime fa fb
  | .mmas _ _ _ fa fb _ _ _ _ => mmaTime fa fb * 3 / 4
  | .mmab _ _ _ fa fb _ _ _ _ _ => mmaTime fa fb
  | .mma64 _ _ ha _ => 4096 * ha.length
  | .mmai .. => 256
  | .acz => 16
  | .acst .. => 64
  | .cvtb .. => 64
  | .bscl .. => 128

/-! ### What a command computes -/

/-- The tile of a handle's slots as it stands. -/
def Core.tile (c : Core) (slots : List Nat) : Tile := slots.map (fun k => (c.slot k).all)

/-- The cells of an origin from a value for each row and column below `cols`, each of `n` words, low word first. -/
def cellsOf (cols n : Nat) (v : Nat → Nat → Nat) : Words :=
  (List.range 128).flatMap (fun i => (List.range cols).flatMap (fun j =>
    let x := v i j
    (List.range n).filterMap (fun k =>
      let w : Word := BitVec.ofNat 32 (x / 2 ^ (32 * k))
      if w = 0 then none else some (128 * i + n * j + k, w))))

/-- Old cells as a number: FP32 or INT32 bits. -/
def Origin.old (o : Origin) (zc : Bool) (i j : Nat) : Nat := if zc then 0 else (o.cell i j).toNat

/-- Old cells as FP64 bits. -/
def Origin.old64 (o : Origin) (zc : Bool) (i j : Nat) : Nat := if zc then 0 else (o.cell i (2 * j)).toNat + 2 ^ 32 * (o.cell i (2 * j + 1)).toNat

/-- The lines of a tile, prepared once. -/
def linesOf {α : Type} (f : Nat → α) : Array α := ((List.range 128).map f).toArray

/-- `MMA` and `MMAB` (R109 to R113, R226). -/
def mmaCells (o : Origin) (zc nsa nsb : Bool) (fa fb : Nat) (ta tb : Tile) : Words :=
  let bl := blockLen fa
  let as := linesOf (fun i => ta.blocks fa ta.length bl nsa i)
  let bs := linesOf (fun j => tb.blocks fb tb.length bl nsb j)
  cellsOf 128 1 (fun i j => mmaCell (fa == 13) (o.old zc i j) (as.getD i []) (bs.getD j []))

/-- `MMAS` (R114, R227, R228). -/
def mmasCells (o : Origin) (zc nsa nsb : Bool) (fa fb : Nat) (ta tb tb2 tm : Tile) : Words :=
  let bl := blockLen fa
  let as := linesOf (fun i => sparseBlocks ta tm fa ta.length nsa i)
  let bs := linesOf (fun j => sparseB tb tb2 fb tb.length bl nsb j)
  cellsOf 128 1 (fun i j => mmasCell (fa == 13) (o.old zc i j) (as.getD i []) (bs.getD j []))

/-- `MMA64` (R111, R226). -/
def mma64Cells (o : Origin) (zc bh : Bool) (ta tb : Tile) : Words :=
  let as := linesOf (fun i => ta.line 15 ta.length i)
  let bs := linesOf (fun j => tb.line 15 tb.length j)
  cellsOf 64 2 (fun i j => ((as.getD i []).zip (bs.getD (j + if bh then 64 else 0) [])).foldl (fun acc p => fma64 acc p.1 p.2) (o.old64 zc i j))

/-- The integer of an INT8 element. -/
def FVal.int : FVal → Int
  | .fin n m _ => if n then -(m : Int) else m
  | _ => 0

/-- `MMAI` (R111, R226). -/
def mmaiCells (o : Origin) (zc sat : Bool) (ta tb : Tile) : Words :=
  let as := linesOf (fun i => (ta.line 0 ta.length i).map FVal.int)
  let bs := linesOf (fun j => (tb.line 0 tb.length j).map FVal.int)
  cellsOf 128 1 (fun i j =>
    let s := ((as.getD i []).zip (bs.getD j [])).foldl (fun acc p => acc + p.1 * p.2) ((BitVec.ofNat 32 (o.old zc i j)).toInt)
    (narrow32 sat s).toNat)

/-- Rounding of a stored element: RN, or SR with the hash of R104. -/
def storeMode (sr : Bool) (seed : DWord) (salt : Word) (row col : Nat) : Mode :=
  if sr then .sr (srHash seed.toNat row col salt.toNat) else .rn

/-- What `ACST` and `ACTH` write, by slot of the handle (R232, R233). -/
def acstWrites (o : Origin) (transposed sr sat : Bool) (ofs fa fb n : Nat) (salt : Word) (seed : DWord) : List (Nat × Nat × Word) :=
  let k := lineElems fa n
  let at_ (i j : Nat) : Nat × Nat := if transposed then (ofs + j, i) else (i, ofs + j)
  let bits (i j : Nat) : Nat := let p := at_ i j; if fb = 15 then o.old64 false p.1 p.2 else o.old false p.1 p.2
  let int (i j : Nat) : Int := (BitVec.ofNat 32 (bits i j)).toInt
  let rows {α : Type} (f : Nat → Nat → α) : List (List α) := (List.range 128).map (fun i => (List.range k).map (f i))
  let raw (f : Nat → Nat → Nat) : Encoded := { lines := rows f, scales := [], bands := (0, 0) }
  let e : Encoded :=
    if fb = fa then
      if fb = 0 then raw (fun i j => (BitVec.ofInt 8 (if sat then max (-128) (min 127 (int i j)) else int i j)).toNat) else raw bits
    else
      let val (i j : Nat) : FVal :=
        if fb = 15 then Fp.f64.unpack (bits i j) else if fb = 14 then Fp.f32.unpack (bits i j)
        else .fin (decide (int i j < 0)) (int i j).natAbs 0
      encodeTile fb fa sat (fun i j => let p := at_ i j; storeMode sr seed salt p.1 p.2) (rows val)
  e.writes fa

/-- What `CVTB` writes (R160). -/
def cvtbWrites (sr sat : Bool) (sf df : Nat) (ta : Tile) (salt : Word) (seed : DWord) : List (Nat × Nat × Word) :=
  (encodeTile sf df sat (fun i j => storeMode sr seed salt i j) ((List.range 128).map (fun i => ta.convLine sf ta.length i))).writes df

/-- What `BSCL` writes (R161). -/
def bsclWrites (sr : Bool) (df : Nat) (ta tb : Tile) (salt : Word) (seed : DWord) : List (Nat × Nat × Word) :=
  (encodeTile 14 df false (fun i j => storeMode sr seed salt i j)
    ((List.range 128).map (fun i => ta.line 14 4 i ++ tb.line 14 4 i))).writes df

/-- What a command writes: the origin's new cells, and words by slot. `tb` is the B tile of a broadcast. -/
def EngineOp.result (op : EngineOp) (c : Core) (o : Origin) (tb : Tile) : Words × Map (Map Word) :=
  match op with
  | .mma zc nsa nsb fa fb ha hb => (mmaCells o zc nsa nsb fa fb (c.tile ha) (c.tile hb), [])
  | .mmas zc nsa nsb fa fb ha hb hb2 hm => (mmasCells o zc nsa nsb fa fb (c.tile ha) (c.tile hb) (c.tile hb2) (c.tile hm), [])
  | .mmab zc nsa nsb fa fb ha _ _ _ _ => (mmaCells o zc nsa nsb fa fb (c.tile ha) tb, [])
  | .mma64 zc bh ha hb => (mma64Cells o zc bh (c.tile ha) (c.tile hb), [])
  | .mmai zc sat ha hb => (mmaiCells o zc sat (c.tile ha) (c.tile hb), [])
  | .acz => ([], [])
  | .acst tr sr sat ofs fa fb hd salt seed => ([], slotWrites hd (acstWrites o tr sr sat ofs fa fb hd.length salt seed))
  | .cvtb sr sat sf df ha hd salt seed => ([], slotWrites hd (cvtbWrites sr sat sf df (c.tile ha) salt seed))
  | .bscl sr df ha hb hd salt seed => ([], slotWrites hd (bsclWrites sr df (c.tile ha) (c.tile hb) salt seed))

/-! ### The course of a command (R223, R251) -/

def Core.modEngine (c : Core) (quad : Nat) (f : EngineCmd → EngineCmd) : Core :=
  c.modQuad quad (fun q => match q.engine with
    | x :: xs => { q with engine := f x :: xs }
    | [] => q)

/-- The command at the head of an engine. -/
def Core.headCmd (c : Core) (quad : Nat) : Option EngineCmd := (c.quad quad).engine.head?

/-- A read mark of slots clears. -/
def Core.unread (c : Core) (slots : List Nat) : Core := (c.modSlots slots (fun x => { x with reading := x.reading - 1 })).settleSlots

/-- B's slots of a source's command. -/
def EngineOp.bSlots : EngineOp → List Nat
  | .mmab _ _ _ _ _ _ hb _ _ _ => hb.getD []
  | _ => []

/-- The slots and the origin that a command reads are no longer read. -/
def Core.clearReads (c : Core) (quad : Nat) (x : EngineCmd) : Core :=
  let c := x.op.reads.foldl Core.unread c
  match x.org with
  | some p => if x.op.onlyReads then c.modQuad quad (fun q => (q.modOrigin p (fun o => { o with reading := o.reading - 1 })).settleOrigins) else c
  | none => c

/-- A command is not what its instruction should have launched: every mask of `MMAS` keeps 6 of 12 (R228). -/
def EngineCmd.sparseBad (x : EngineCmd) (c : Core) : Bool :=
  match x.op with
  | .mmas _ _ _ _ _ _ _ _ hm => !masksOk (c.tile hm)
  | _ => false

/-- The command reads the cells of its origin: an update that does not begin at zero, and a store of cells. -/
def EngineOp.readsCells : EngineOp → Bool
  | .mma zc .. => !zc
  | .mmas zc .. => !zc
  | .mmab zc .. => !zc
  | .mma64 zc .. => !zc
  | .mmai zc .. => !zc
  | .acst .. => true
  | .acz => false
  | .cvtb .. => false
  | .bscl .. => false

/-- A tile or an accumulator that the command reads has an uncorrectable error (R335). -/
def EngineCmd.dataBad (x : EngineCmd) (c : Core) (o : Origin) : Bool := x.op.reads.any c.tileBad || (o.bad && x.op.readsCells)

/-- The last cycle in which a command reads (R251): what it will write is fixed, and its read marks clear. -/
def State.readCommand (s : State) (core quad : Nat) : State :=
  let c := s.core core
  match c.headCmd quad with
  | none => s
  | some x =>
    match x.begun with
    | none => s
    | some b =>
      if x.read || b + x.d - 1 != s.now core then s
      else
        let o := match x.org with | some p => (c.quad quad).origin p | none => .blank
        let tb := match x.src with | some (k, slots) => (s.core k).tile slots | none => []
        let data := x.dataBad c o || (match x.src with | some (k, slots) => (s.core k).tileBad slots | none => false)
        let bad := x.bad || x.sparseBad c || data
        let (cells, tiles) := if bad then (o.cells, []) else x.op.result c o tb
        let s := if x.bad then s else if data then s.fatalFor core x.seat x.uid 0x27 0 x.pc x.csn x.lgid 0
          else if x.sparseBad c then s.fatalFor core x.seat x.uid 0x2C 0 x.pc x.csn x.lgid 0 else s
        let s := s.modCore core (fun c => (c.modEngine quad (fun x => { x with read := true, cells := cells, tiles := tiles, bad := bad })).clearReads quad x)
        match x.src with
        | some (k, slots) => s.modCore k (fun c => c.unread slots)
        | none => s

/-- The head command of an engine reads its last operand in this cycle (R251). -/
def Core.readDue (c : Core) (quad now : Nat) : Bool :=
  match c.headCmd quad with
  | some x => (match x.begun with | some b => !x.read && b + x.d - 1 == now | none => false)
  | none => false

/-- `ENGINE_READ_MARK_CLEAR` (R251). -/
def execEngineReadMarkClear (core quad : Nat) (s : State) : Host.Outcome State Fault Refusal := .next (s.readCommand core quad)

/-- A broadcast may begin: its last member has joined, and its members agree. One that they do not agree on holds its engine, and what waits behind it never
starts (R230). -/
def EngineCmd.joined (x : EngineCmd) : Bool :=
  match x.op with
  | .mmab .. => x.src.isSome
  | _ => true

/-- The head of an engine begins in the next cycle. -/
def State.beginCommand (s : State) (core quad : Nat) : State :=
  match (s.core core).headCmd quad with
  | some x => if x.begun.isNone && x.joined then s.modCore core (fun c => c.modEngine quad (fun x => { x with begun := some (s.now core + 1) })) else s
  | none => s

/-- The head command of an engine completes in this cycle (R251). -/
def Core.commandDue (c : Core) (quad now : Nat) : Bool :=
  match c.headCmd quad with
  | some x => (match x.begun with | some b => x.read && decide (b + x.d + 3 ≤ now) | none => false)
  | none => false

/-- `ENGINE_COMMAND_COMPLETION` (R223, R251): the last cell or byte is written and the write marks clear; a released origin or slot becomes free. -/
def execEngineCommandCompletion (core quad : Nat) (s : State) : Host.Outcome State Fault Refusal :=
  .next (if !(s.core core).commandDue quad (s.now core) then s
    else
      match (s.core core).headCmd quad with
      | none => s
      | some x => s.modCore core (fun c =>
          let c := c.modQuad quad (fun q =>
            let q : Quad := { q with engine := q.engine.drop 1 }
            match x.org with
            | some p =>
              if x.op.onlyReads then q
              else (q.modOrigin p (fun o => { o with cells := x.cells, pending := o.pending - 1, bad := o.bad && x.bad })).settleOrigins
            | none => q)
          let c := c.putTiles x.tiles
          (c.modSlots x.op.writes (fun t => { t with pending := t.pending - 1 })).settleSlots))

/-! ### Broadcasts (R229, R230) -/

/-- The engine number of a quadrant. -/
def State.engineNumber (s : State) (core quad : Nat) : Nat :=
  4 * ((((s.core core).team.bind (fun t => t.cluster)).map Prod.snd).getD 0) + quad

/-- Broadcasts that an engine has joined on a channel, and one more. -/
def State.joinCount (s : State) (core ch e : Nat) : Nat :=
  match (s.core core).team with
  | none => 0
  | some t =>
    match t.cluster with
    | some (k, _) => (((mget (s.owner t.owner).clusters k).bind (fun x => mget x.joined (64 * ch + e))).getD 0)
    | none => (mget t.joined (64 * ch + e)).getD 0

def State.bumpJoin (s : State) (core ch e : Nat) : State :=
  let n := s.joinCount core ch e + 1
  match (s.core core).team with
  | none => s
  | some t =>
    match t.cluster with
    | some (k, _) => s.modOwner t.owner (fun o => { o with clusters := mmod o.clusters k (fun x => { x with joined := mset x.joined (64 * ch + e) n }) })
    | none => s.modTeam core (fun t => { t with joined := mset t.joined (64 * ch + e) n })

/-- MEMB and SRCE of a broadcast word. -/
def bcMember (w : DWord) (e : Nat) : Bool := decide (e < 48) && w.getLsbD e
def bcSource (w : DWord) : Nat := (w.extractLsb' 48 6).toNat

/-- The broadcast word is refused by the issuing group (R229). -/
def State.bcIllegal (s : State) (core quad : Nat) (w : DWord) (hasB : Bool) : Bool :=
  let e := s.engineNumber core quad
  let n := 4 * (s.clusterCores core).length
  !bcMember w e || !bcMember w (bcSource w) || (List.range 48).any (fun k => decide (n ≤ k) && bcMember w k)
    || w.extractLsb' 54 10 != 0 || hasB != (bcSource w == e)

/-- The waiting command of an engine for broadcast `n` of a channel. -/
def Quad.broadcast? (q : Quad) (ch n : Nat) : Option EngineCmd :=
  q.engine.find? (fun x => match x.op with
    | .mmab _ _ _ _ _ _ _ _ c i => c == ch && i == n
    | _ => false)

/-- Word, B's type and NSB that the members must agree on. -/
def EngineOp.agree : EngineOp → DWord × Nat × Bool
  | .mmab _ _ nsb _ fb _ _ w _ _ => (w, fb, nsb)
  | _ => (0, 0, false)

/-- Changes the command of an engine for broadcast `n` of a channel. -/
def Quad.modBroadcast (q : Quad) (ch n : Nat) (f : EngineCmd → EngineCmd) : Quad :=
  { q with engine := q.engine.map (fun x => match x.op with
      | .mmab _ _ _ _ _ _ _ _ c i => if c == ch && i == n then f x else x
      | _ => x) }

/-- When every member that a command names has joined broadcast `n`, it is matched: the members disagree and fault, or each may begin with the source's B. -/
def State.matchBroadcast (s : State) (core ch n : Nat) (w : DWord) : State :=
  let cores := s.clusterCores core
  let members := (List.range 48).filter (bcMember w)
  if members.any (fun e => decide (s.joinCount core ch e ≤ n)) then s
  else
    let coreOf (e : Nat) : Nat := (cores[e / 4]?).getD core
    let cmds := members.map (fun e => (e, ((s.core (coreOf e)).quad (e % 4)).broadcast? ch n))
    let first := (cmds.findSome? (fun p => p.2)).map (fun x => x.op.agree)
    let ok := cmds.all (fun p => match p.2 with | some x => some x.op.agree == first | none => false)
    if !ok then
      cmds.foldl (fun s p => match p.2 with
        | some x => (s.fatalFor (coreOf p.1) x.seat x.uid 0x2D 0 x.pc x.csn x.lgid 0).modQuad (coreOf p.1) (p.1 % 4) (fun q => q.modBroadcast ch n (fun x => { x with bad := true }))
        | none => s) s
    else
      let k := coreOf (bcSource w)
      let slots := ((((s.core k).quad (bcSource w % 4)).broadcast? ch n).map (fun x => x.op.bSlots)).getD []
      let s := s.modCore k (fun c => c.modSlots slots (fun x => { x with reading := x.reading + (members.length - 1) }))
      members.foldl (fun s e => s.modQuad (coreOf e) (e % 4) (fun q => q.modBroadcast ch n (fun x => { x with src := some (k, slots) }))) s

/-! ### Issue -/

/-- Enqueues a command of the issuing group (R29, R223, R336). -/
def Ctx.command (c : Ctx) (s : State) (op : EngineOp) (org : Option Nat) (token : Bool) : State :=
  let s := if token then s.modOwner c.owner (fun o => o.modDie (dieOf c.core) (fun d => { d with pool := { d.pool with level := d.pool.level - 1 } })) else s
  let (csn, s) := s.takeCsn c
  let p := org.bind (fun n => c.g.origin? n)
  let x : EngineCmd := {
    op := op, seat := c.seat, uid := c.g.uid, lgid := s.lgid c.core c.seat, pc := c.pc, csn := csn, org := p, issued := c.now, tids := c.g.tids, begun := none,
    d := op.time, src := none, bad := false, read := false, cells := [], tiles := [] }
  let s := s.modCore c.core (fun co =>
    let co := op.reads.foldl (fun co ns => co.modSlots ns (fun t => { t with reading := t.reading + 1 })) co
    let co := co.modSlots op.writes (fun t => { t with pending := t.pending + 1 })
    co.modQuad c.quad (fun q =>
      let q : Quad := { q with engine := q.engine ++ [x] }
      match p with
      | some p => q.modOrigin p (fun o => if op.onlyReads then { o with reading := o.reading + 1 } else { o with pending := o.pending + 1 })
      | none => q))
  match op with
  | .mmab _ _ _ _ _ _ hb w ch n =>
    let s := match hb with
      | some ns => s.modCore c.core (fun co => co.modSlots ns (fun t => { t with reading := t.reading + 1 }))
      | none => s
    (s.bumpJoin c.core ch (s.engineNumber c.core c.quad)).matchBroadcast c.core ch n w
  | _ => s

/-- Slots of a handle operand. -/
def Ctx.slots (c : Ctx) (o : Opd) : List Nat := (c.g.handle (hnum o)).slots

def zcOf (f : FmtX) : Bool := f.xmod.getLsbD 0
def nsaOf (f : FmtX) : Bool := f.scs.getLsbD 0
def nsbOf (f : FmtX) : Bool := f.scs.getLsbD 1

/-- `MMA` (R226). -/
def execMma (f : FmtX) (s : State) : Host.Outcome State Fault Refusal :=
  issue (.mma f) (fun c s => .ok (c.command s
    (.mma (zcOf f) (nsaOf f) (nsbOf f) f.fmta.toNat f.fmtb.toNat (c.slots f.a) (c.slots f.b)) (some f.org.toNat) true)) s

/-- `MMAS` (R228). -/
def execMmas (f : FmtX) (s : State) : Host.Outcome State Fault Refusal :=
  issue (.mmas f) (fun c s => .ok (c.command s
    (.mmas (zcOf f) (nsaOf f) (nsbOf f) f.fmta.toNat f.fmtb.toNat (c.slots f.a) (c.slots f.b) (c.slots f.c) (c.slots f.dst)) (some f.org.toNat) true)) s

/-- `MMAB` (R229, R230): it joins the next broadcast of its channel. -/
def execMmab (f : FmtX) (s : State) : Host.Outcome State Fault Refusal :=
  issue (.mmab f) (fun c s =>
    let w := c.sval 2 f.c
    let ch := (f.xmod.extractLsb' 1 3).toNat
    let hb := match f.b with | .h n => some (c.g.handle n.toNat).slots | _ => none
    if s.bcIllegal c.core c.quad w hb.isSome then .error c.fatalIllegal
    else .ok (c.command s (.mmab (zcOf f) (nsaOf f) (nsbOf f) f.fmta.toNat f.fmtb.toNat (c.slots f.a) hb w ch
      (s.joinCount c.core ch (s.engineNumber c.core c.quad))) (some f.org.toNat) true)) s

/-- `MMA64` (R226). -/
def execMma64 (f : FmtX) (s : State) : Host.Outcome State Fault Refusal :=
  issue (.mma64 f) (fun c s => .ok (c.command s (.mma64 (zcOf f) (f.xmod.getLsbD 1) (c.slots f.a) (c.slots f.b)) (some f.org.toNat) true)) s

/-- `MMAI` (R226). -/
def execMmai (f : FmtX) (s : State) : Host.Outcome State Fault Refusal :=
  issue (.mmai f) (fun c s => .ok (c.command s (.mmai (zcOf f) (f.xmod.getLsbD 2) (c.slots f.a) (c.slots f.b)) (some f.org.toNat) true)) s

/-- `ACZ` (R231). -/
def execAcz (f : FmtX) (s : State) : Host.Outcome State Fault Refusal :=
  issue (.acz f) (fun c s => .ok (c.command s .acz (some f.org.toNat) false)) s

/-- An accumulator read of rows or columns (R233). -/
def Ctx.acstCommand (c : Ctx) (s : State) (f : FmtX) (transposed : Bool) : Effect :=
  let hd := c.slots f.dst
  .ok (c.command s (.acst transposed (f.xmod.getLsbD 0) (f.xmod.getLsbD 1) (f.xmod.extractLsb' 2 7).toNat f.fmta.toNat f.fmtb.toNat hd
    (if f.xmod.getLsbD 0 then c.sval32 f.c else 0) ((s.core c.core).team.map (fun t => t.srseed) |>.getD 0)) (some f.org.toNat) false)

/-- `ACST` (R233). -/
def execAcst (f : FmtX) (s : State) : Host.Outcome State Fault Refusal := issue (.acst f) (fun c s => c.acstCommand s f false) s

/-- `ACTH` (R233). -/
def execActh (f : FmtX) (s : State) : Host.Outcome State Fault Refusal := issue (.acth f) (fun c s => c.acstCommand s f true) s

/-- `CVTB` (R160). -/
def execCvtb (f : FmtA) (s : State) : Host.Outcome State Fault Refusal :=
  issue (.cvtb f) (fun c s => .ok (c.command s
    (.cvtb (f.rm == .sr) f.sat (cvtSty f) (cvtDty f) (c.slots f.a) (c.slots f.dst) (if f.rm == .sr then c.sval32 f.b else 0)
      ((s.core c.core).team.map (fun t => t.srseed) |>.getD 0)) none false)) s

/-- `BSCL` (R161). -/
def execBscl (f : FmtA) (s : State) : Host.Outcome State Fault Refusal :=
  issue (.bscl f) (fun c s => .ok (c.command s
    (.bscl (f.rm == .sr) (cvtDty f) (c.slots f.a) (c.slots f.b) (c.slots f.dst) (if f.rm == .sr then c.sval32 f.c else 0)
      ((s.core c.core).team.map (fun t => t.srseed) |>.getD 0)) none false)) s

/-! ### Single cells (R234) -/

/-- The cell that an index names: row and column. -/
def cellIndex (w64 : Bool) (a : Word) : Nat × Nat :=
  ((a.extractLsb' 7 7).toNat, if w64 then 2 * (a.extractLsb' 0 6).toNat else (a.extractLsb' 0 7).toNat)

/-- `ACRD` (R234). -/
def execAcrd (f : FmtX) (s : State) : Host.Outcome State Fault Refusal :=
  issue (.acrd f) (fun c s =>
    match row? (.acrd f), c.g.origin? f.org.toNat with
    | some r, some p =>
      let w64 := f.xmod.getLsbD 0
      let o := ((s.core c.core).quad c.quad).origin p
      let v (l : Nat) : DWord :=
        let i := cellIndex w64 (c.read32 f.a l)
        pair64 (o.cell i.1 i.2) (if w64 then o.cell i.1 (i.2 + 1) else 0)
      if o.bad then .error (.fatal 0x27 0 0)
      else .ok (s.writeAlu c r ((c.aluLanes r).map (fun l => (l, v l))) [])
    | _, _ => .ok s) s

/-- `ACWR` (R234): lanes in ascending order, so that the highest stands. -/
def execAcwr (f : FmtX) (s : State) : Host.Outcome State Fault Refusal :=
  issue (.acwr f) (fun c s =>
    match c.g.origin? f.org.toNat with
    | none => .ok s
    | some p =>
      let w64 := f.xmod.getLsbD 0
      .ok (s.modQuad c.core c.quad (fun q => q.modOrigin p (fun o => (c.effLanes f.hdr.guard).foldl (fun o l =>
        let i := cellIndex w64 (c.read32 f.a l)
        let k := 128 * i.1 + i.2
        let d := c.read (if w64 then 2 else 1) f.b l
        let o : Origin := { o with cells := sset 0 o.cells k (lo32 d) }
        if w64 then { o with cells := sset 0 o.cells (k + 1) (hi32 d) } else o) o)))) s

end Sys2Proof.Machine
end

