-- ==== Sys2Proof/Machine/Solve.lean ====
section
/-! DEFINITION. Solve regions (R235 to R241, R296 to R304): rendezvous, the step with its mixing arithmetic, its time, and the instructions. -/

namespace Sys2Proof.Machine

/-! ### FP64 arithmetic on bit patterns, in RN (R238) -/

namespace F64

def v (a : Nat) : FVal := Fp.f64.unpack a
def add (a b : Nat) : Nat := (Fp.f64.addV .rn (v a) (v b)).1
def sub (a b : Nat) : Nat := (Fp.f64.addV .rn (v a) (v b).neg).1
def mul (a b : Nat) : Nat := (Fp.f64.mulV .rn (v a) (v b)).1
def fma (a b c : Nat) : Nat := (Fp.f64.fmaV .rn (v a) (v b) (v c)).1
def one : Nat := 0x3FF0000000000000
def inf : Nat := 0x7FF0000000000000
def finite (a : Nat) : Bool := (v a).isFin
def isNan (a : Nat) : Bool := (v a).isNan

/-- a / b. -/
def div (a b : Nat) : Nat :=
  match Fp.f64.nanRule [v a, v b] with
  | some r => r.1
  | none =>
    match v a, v b with
    | .inf _, .inf _ => Fp.f64.genNan 3
    | .inf x, .fin y _ _ => Fp.f64.infBits (x != y)
    | .fin x _ _, .inf y => Fp.f64.sign (x != y) 0
    | .fin x m e, .fin y m' e' =>
      if m' = 0 then (if m = 0 then Fp.f64.genNan 4 else Fp.f64.infBits (x != y))
      else if m = 0 then Fp.f64.sign (x != y) 0
      else (Fp.f64.roundRat .rn false (x != y) m m' (e - e')).1
    | _, _ => 0

/-- a < b as real values, infinities included; false with a NaN. -/
def lt (a b : Nat) : Bool := !isNan a && !isNan b && (v a).lt (v b)
def le (a b : Nat) : Bool := !isNan a && !isNan b && !(v b).lt (v a)

/-- The exact value times a power of two. -/
def scaled (a : FVal) (k : Int) : FVal :=
  match a with
  | .fin n m e => .fin n m (e + k)
  | x => x

/-- FP32 bits widened, and FP64 bits narrowed with one rounding. -/
def widen (w : Nat) : Nat := (fpConvert .f32 .f64 .rn false (Fp.f32.unpack w)).1
def narrow (a : Nat) : Nat := (fpConvert .f64 .f32 .rn false (v a)).1

end F64

/-- The residual of an element (R237, R298): FP32 bits. -/
def residual (g x : Nat) : Nat :=
  let f := Fp.f32
  match f.unpack g, f.unpack x with
  | .nan n _ p, _ => f.quietNan n p
  | _, .nan n _ p => f.quietNan n p
  | a, b => (f.addV .rn a b.neg).1

/-- ρ of residuals in scope order (R237); none is NaN. -/
def rhoOf (l2 : Bool) (rs : List Nat) : Option Nat :=
  if rs.any (fun r => (Fp.f32.unpack r).isNan) then none
  else if l2 then some (rs.foldl (fun a r => let d := F64.widen r; F64.fma d d a) 0)
  else some (rs.foldl (fun a r => let d := F64.widen (r % 2 ^ 31); if F64.lt a d then d else a) 0)

/-! ### MIX (R238) -/

/-- Reads and writes of a small square table. -/
def tget (a : Array (Array Nat)) (i j : Nat) : Nat := (a.getD i #[]).getD j 0
def tset (a : Array (Array Nat)) (i j x : Nat) : Array (Array Nat) := a.modify i (fun r => r.set! j x)

/-- A table of zeros. -/
def tnew (n : Nat) : Array (Array Nat) := Array.replicate n (Array.replicate n 0)

/-- Differences of consecutive residuals. -/
def mixDeltas (n : Nat) (rs : Array (Array Nat)) : Array (Array Nat) :=
  ((List.range (n - 1)).map (fun i => ((rs.getD (i + 1) #[]).zip (rs.getD i #[])).map (fun p => F64.sub p.1 p.2))).toArray

/-- A sum of products, element by element in scope order. -/
def mixDot (a b : Array Nat) : Nat := (a.zip b).foldl (fun s p => F64.fma p.1 p.2 s) 0

/-- LDLᵀ without pivoting, and its solution: the gm of an attempt on `k` unknowns; none when a pivot or a result fails its test. -/
def mixSolve (k : Nat) (g : Array (Array Nat)) (bv : Array Nat) (lam : Nat) : Option (Array Nat) :=
  let tr := (List.range k).foldl (fun s i => F64.add s (tget g i i)) 0
  let g := (List.range k).foldl (fun g i => tset g i i (F64.add (tget g i i) (F64.mul lam tr))) g
  let start : Option (Array (Array Nat) × Array Nat) := some (tnew k, Array.replicate k 0)
  let ld := (List.range k).foldl (fun st j =>
    match st with
    | none => none
    | some (l, d) =>
      let dj := (List.range j).foldl (fun t q => F64.sub t (F64.mul (F64.mul (tget l j q) (tget l j q)) (d.getD q 0))) (tget g j j)
      let ok := !F64.isNan dj && !F64.isNan tr && (F64.scaled (F64.v tr) (-40)).lt (F64.v dj)
      if !ok then none
      else
        let l := ((List.range k).filter (fun i => decide (j < i))).foldl (fun l i =>
          let t := (List.range j).foldl (fun t q => F64.sub t (F64.mul (F64.mul (tget l i q) (tget l j q)) (d.getD q 0))) (tget g i j)
          tset l i j (F64.div t dj)) l
        some (l, d.set! j dj)) start
  match ld with
  | none => none
  | some (l, d) =>
    let y := (List.range k).foldl (fun (y : Array Nat) i =>
      y.set! i ((List.range i).foldl (fun t q => F64.sub t (F64.mul (tget l i q) (y.getD q 0))) (bv.getD i 0))) (Array.replicate k 0)
    let gm := (List.range k).reverse.foldl (fun (gm : Array Nat) i =>
      gm.set! i (((List.range k).filter (fun q => decide (i < q))).foldl (fun t q => F64.sub t (F64.mul (tget l q i) (gm.getD q 0)))
        (F64.div (y.getD i 0) (d.getD i 0)))) (Array.replicate k 0)
    if gm.all F64.finite then some gm else none

/-- The coefficients a_1 to a_n from the gm. -/
def mixCoefs (n : Nat) (gm : Array Nat) : List Nat :=
  (List.range n).map (fun i =>
    if i = 0 then gm.getD 0 0
    else if i = n - 1 then F64.sub F64.one (gm.getD (n - 2) 0)
    else F64.sub (gm.getD i 0) (gm.getD (i - 1) 0))

/-- The attempts of MIX on the newest entries, `n` at first: the coefficients, and the entry count of each attempt made. -/
def mixAttempts (lam : Nat) : Nat → List (Array Nat) → List Nat × List Nat
  | 0, _ => ([], [])
  | n + 1, rs =>
    if n = 0 then ([F64.one], [])
    else
      let ra := rs.toArray
      let dl := mixDeltas (n + 1) ra
      let last := ra.getD n #[]
      let g := ((List.range n).map (fun i => ((List.range n).map (fun j =>
        if j ≤ i then mixDot (dl.getD i #[]) (dl.getD j #[]) else 0)).toArray)).toArray
      let bv := ((List.range n).map (fun i => mixDot (dl.getD i #[]) last)).toArray
      match mixSolve n g bv lam with
      | some gm => (mixCoefs (n + 1) gm, [n + 1])
      | none =>
        let (a, ks) := mixAttempts lam n (rs.drop 1)
        (a, (n + 1) :: ks)

/-- The new x, element by element (FP32 bits), from the entries kept. -/
def mixCombine (beta : Nat) (as : List Nat) (xs rs : List (Array Nat)) (len : Nat) : List Nat :=
  (List.range len).map (fun e =>
    F64.narrow ((as.zip (xs.zip rs)).foldl (fun acc p =>
      let u := F64.fma beta (p.2.2.getD e 0) (p.2.1.getD e 0)
      F64.fma p.1 u acc) 0))

/-! ### Carried tiles (R71, R235, R236) -/

/-- Elements of an FP32 handle of `n` slots in scope order: slot and word. -/
def elemOrder (n : Nat) : List (Nat × Nat) :=
  (List.range 128).flatMap (fun i => (List.range n).flatMap (fun sl => (List.range 16).map (fun j => (sl, 16 * i + j))))

/-- The values of a handle's slots in scope order. -/
def Core.elems (c : Core) (slots : List Nat) : List Nat :=
  let t := c.tile slots
  (elemOrder slots.length).map (fun p => (t.word p.1 p.2).toNat)

/-- Words to write for values in scope order, by 32·core + slot. -/
def elemWrites (core : Nat) (slots : List Nat) (vals : List Nat) : Map (Map Word) :=
  (slotWrites slots (((elemOrder slots.length).zip vals).map (fun p => (p.1.1, p.1.2, BitVec.ofNat 32 p.2)))).map (fun p => (32 * core + p.1, p.2))

/-- The slots of a history tile of carried tile `c`: entry `i` of x, or of the residual (R236). -/
def Participant.tile (p : Participant) (m c i : Nat) (res : Bool) : List Nat :=
  let n := (p.counts[c]?).getD 0
  (((p.history[c]?).getD []).drop ((i + if res then m else 0) * n)).take n

/-- Participants in scope order (R235). -/
def scopeOrder (cores : List Nat) (ps : List Participant) : List Participant :=
  cores.flatMap (fun c => sortBy (fun p => p.lgid) (ps.filter (fun p => p.core == c)))

/-- The group that a participant's handles are read from: the one that arrived for it. -/
def State.partGroup (s : State) (p : Participant) : Option Group := s.groupOf p.core p.seat p.uid

/-- Carried tiles of a region in scope order: participant, tile number, slots of x and of g. -/
def State.carried (s : State) (ps : List Participant) : List (Participant × Nat × List Nat × List Nat) :=
  ps.flatMap (fun p => match s.partGroup p with
    | some g => ((List.range p.xh.length).zip (p.xh.zip p.gh)).map (fun q => (p, q.1, (g.handle q.2.1).slots, (g.handle q.2.2).slots))
    | none => [])

/-- Cuts values into those of each carried tile. -/
def perTile {α : Type} : List α → List Nat → List (List α)
  | _, [] => []
  | vs, n :: ns => vs.take (2048 * n) :: perTile (vs.drop (2048 * n)) ns

/-! ### Where a region stands -/

def Region.blank : Region :=
  { st := 0, cluster := false, clu := false, busy := false, isOpen := false, it := 0, best := 0, last := 0, parts := [], kind := 0, start := 0, nc := 0,
    m := 0, l2 := false, cf := false, hist := [], step := none, prev := none, opened := none, was := none, broken := false, traps := [], outs := [] }

def State.putRegion (s : State) (core sid : Nat) (clu : Bool) (r : Region) : State :=
  match if clu then s.cluOf core else none with
  | some (o, k) => s.modOwner o (fun o => { o with clusters := mmod o.clusters k (fun x => { x with regions := mset x.regions sid r }) })
  | none => s.modTeam core (fun t => { t with regions := mset t.regions sid r })

/-- The cores of a region's scope in cluster order. -/
def State.scopeCores (s : State) (core : Nat) (clu : Bool) : List Nat := if clu then s.clusterCores core else [core]

/-- A step may end in this cycle (R300): T cycles have passed, and when it writes x, no command reads a carried handle any longer. -/
def State.stepDue (s : State) (core : Nat) (r : Region) : Bool :=
  match r.step with
  | none => false
  | some x => decide (x.r + x.t - 1 ≤ s.now core)
      && (x.st == 3 || (s.carried r.parts).all (fun t => t.2.2.1.all (fun k => ((s.core t.1.core).slot k).reading == 0)))

/-- What a reader of a core sees (R300, R304): state, it, last, best, entries; the first core of the scope sees what a step leaves from the cycle in which it ends
on. -/
def Region.seen (r : Region) (ends : Bool) (now : Nat) (first : Bool) : Nat × Nat × DWord × DWord × Nat :=
  let cur : Nat × Nat × DWord × DWord × Nat := (r.st, r.it, r.last, r.best, r.hist.length)
  if first then
    match r.step with
    | some x => if ends then (x.st, x.it, x.last, x.best, if x.st = 1 then x.hist.length else 0) else cur
    | none => cur
  else
    match r.prev with
    | some (until_, st, it, last, best, n) => if now ≤ until_ then (st, it, last, best, n) else cur
    | none => cur

/-- `SOLSTAT` of a core's team (R298). -/
def State.solstat (s : State) (core : Nat) : Word :=
  solstatWord ((List.range 4).map (fun sid => match s.findRegion core sid with
    | some (clu, r) =>
      let first := lagOf (s.scopeCores core clu) core == 0
      (sid, r.cluster && (r.openedFor (s.now core) first).isSome, (r.seen (s.stepDue core r) (s.now core) first).1)
    | none => (sid, false, 0)))

/-! ### Rendezvous -/

/-- An arrival's group waits (R235); the holder passes the token first (R283). -/
def Ctx.solveWait (c : Ctx) (s : State) (kind sid : Nat) (clu : Bool) : State :=
  (s.modGroup c.core c.seat (fun g => { g with wait := some (.solve kind sid clu) })).endPlay c.core c.seat

/-- Releases a participant's group: it goes on after this cycle, at `pc` when one is given; behind its handler, when it runs one (R56, R328). -/
def State.releasePart (s : State) (p : Participant) (pc : Option Nat) : State :=
  match s.partGroup p with
  | none => s
  | some g =>
    match g.handling with
    | some h =>
      s.modGroup p.core p.seat (fun g => { g with rcnt := g.rcnt + 1, handling := some { h with wait := none, resume := pc.getD h.resume } })
    | none =>
      let s := s.modGroup p.core p.seat (fun g => { g with wait := none, wake := s.now p.core + 1, pc := pc.getD g.pc, tcheck := if pc.isSome then false else g.tcheck })
      let s := match pc with
        | some x => s.modCore p.core (fun c => c.requestTarget p.seat x (s.now p.core))
        | none => s
      s.retired p.core p.seat g.uid 1

/-- Every arrival of a rendezvous has been counted. -/
def allArrived (ps : List Participant) (now : Nat) : Bool := ps.all (fun p => match p.arrived with | some a => decide (a ≤ now) | none => false)

def clearArrivals (ps : List Participant) : List Participant := ps.map (fun p => { p with arrived := none })

/-- Threads of a scope that have not exited. -/
def State.scopeAlive (s : State) (core : Nat) (clu : Bool) : Nat :=
  match (s.core core).team with
  | none => 0
  | some t =>
    match (if clu then t.cluster else none) with
    | some (k, _) => ((mget (s.owner t.owner).clusters k).map (fun x => x.alive)).getD 0
    | none => t.alive

/-- What other cores go on seeing to the end of cycle `until_`: for 8 cycles after the first core has come to see the new figures (R300). -/
def Region.keep (r : Region) (until_ : Nat) : Region := { r with prev := some (until_, r.st, r.it, r.last, r.best, r.hist.length), was := r.opened }

/-- Frees the history slots of a region (R237). -/
def State.freeHistory (s : State) (r : Region) : State :=
  r.parts.foldl (fun s p => s.modCore p.core (fun c => p.history.flatten.foldl Core.letGo c)) s

/-- Participants on the first core of a scope, and those on others, which a release and an outcome reach 8 cycles later (R300). -/
def nearParts (cores : List Nat) (ps : List Participant) : List Participant := ps.filter (fun p => lagOf cores p.core == 0)
def farParts (cores : List Nat) (ps : List Participant) : List Participant := ps.filter (fun p => lagOf cores p.core != 0)

/-- `SOLB`'s rendezvous completes (R236). -/
def State.openRegion (s : State) (core sid : Nat) (clu : Bool) (r : Region) : State :=
  let now := s.now core
  let cores := s.scopeCores core clu
  let far := farParts cores r.parts
  let r' : Region := { r.keep (now + 8) with
    outs := r.outs ++ far.map (fun p => (now + 8, p, none)),
    st := 1, cluster := r.clu, busy := false, isOpen := true, it := 0, best := BitVec.ofNat 64 F64.inf, last := BitVec.ofNat 64 F64.inf,
    parts := clearArrivals (scopeOrder cores r.parts), hist := [], step := none, opened := some now, broken := false }
  let s := s.putRegion core sid clu r'
  (nearParts cores r.parts).foldl (fun s p => s.releasePart p none) s

/-- `SOLX`'s rendezvous completes (R240). -/
def State.exitRegion (s : State) (core sid : Nat) (clu : Bool) (r : Region) : State :=
  let now := s.now core
  let cores := s.scopeCores core clu
  let s := (s.freeHistory r).putRegion core sid clu { r.keep (now + 8) with
    outs := r.outs ++ (farParts cores r.parts).map (fun p => (now + 8, p, none)), st := 4, isOpen := false, parts := [], hist := [] }
  (nearParts cores r.parts).foldl (fun s p => s.releasePart p none) s

/-- T of a step (R300). -/
def stepTime (cores w : Nat) (outcome : Nat) (attempts : List Nat) : Nat :=
  let h := 16 * (cores - 1)
  match outcome with
  | 3 => 2 + h + w
  | 1 => 2 + h + 2 * w + (attempts.map (fun n => (n - 1) * w + h + 64)).foldl (· + ·) 0
  | _ => 2 + h + 2 * w

/-- Words of x for a new value of every element. -/
def xWrites (ts : List (Participant × Nat × List Nat × List Nat)) (vals : List Nat) : Map (Map Word) :=
  (ts.zip (perTile vals (ts.map (fun t => t.2.2.1.length)))).flatMap (fun p => elemWrites p.1.1.core p.1.2.2.1 p.2)

/-- Words of history entry `i` for a new value of every element. -/
def histWrites (m i : Nat) (res : Bool) (ts : List (Participant × Nat × List Nat × List Nat)) (vals : List Nat) : Map (Map Word) :=
  (ts.zip (perTile vals (ts.map (fun t => t.2.2.1.length)))).flatMap (fun p => elemWrites p.1.1.core (p.1.1.tile m p.1.2.1 i res) p.2)

/-- The values of history entry `i`, as FP64. -/
def State.histVals (s : State) (m i : Nat) (res : Bool) (ts : List (Participant × Nat × List Nat × List Nat)) : Array Nat :=
  (ts.flatMap (fun t => ((s.core t.1.core).elems (t.1.tile m t.2.1 i res)).map F64.widen)).toArray

/-- The participants that a step's data errors name: on each core that meets one in a carried tile, a result tile or a tile of a history entry that it reads, that of
the lowest logical id (R302). -/
def State.stepErrors (s : State) (ts : List (Participant × Nat × List Nat × List Nat)) (cores : List Nat) (m : Nat) (entries : List Nat) : List Participant :=
  cores.filterMap (fun k =>
    let mine := ts.filter (fun t => t.1.core == k)
    let old (t : Participant × Nat × List Nat × List Nat) : List Nat := entries.flatMap (fun i => t.1.tile m t.2.1 i false ++ t.1.tile m t.2.1 i true)
    if mine.any (fun t => (s.core k).tileBad (t.2.2.1 ++ t.2.2.2 ++ old t)) then (sortBy (fun p => p.lgid) (mine.map (fun t => t.1))).head? else none)

/-- `SOLE`'s rendezvous completes (R237, R238, R300): the step is computed, and its carried handles are pending until it ends. After an uncorrectable error
in a tile that it reads there is no step (R302). The NaN of `last` carries a cause of R100, which one the manual does not say (row 3 of notes/assumptions). -/
def State.startStep (s : State) (core sid : Nat) (clu : Bool) (r : Region) : State :=
  let now := s.now core
  let cores := s.scopeCores core clu
  let ts := s.carried r.parts
  let xs := ts.flatMap (fun t => (s.core t.1.core).elems t.2.2.1)
  let gs := ts.flatMap (fun t => (s.core t.1.core).elems t.2.2.2)
  let rs := (gs.zip xs).map (fun p => residual p.1 p.2)
  let team := (s.core (cores.headD core)).team
  let thr := (team.map (fun t => t.solthr.toNat)).getD 0
  let smax := (team.map (fun t => t.solmax.toNat)).getD 0
  let beta := F64.widen ((team.map (fun t => t.solbeta.toNat)).getD 0)
  let lam := (team.map (fun t => t.sollam.toNat)).getD 0
  let e := (cores.map (fun k => ((ts.filter (fun t => t.1.core == k)).map (fun t => 2048 * t.2.2.1.length)).foldl (· + ·) 0)).foldl max 0
  let w := (e + 63) / 64
  let wild := r.broken && xs.any (fun x => !(Fp.f32.unpack x).isFin)
  let rho := if wild then none else rhoOf r.l2 rs
  let nan := 0x7FF8000000000001 + (Config.freeWord s.free).toNat % 5
  let s := if rho.isNone then { s with free := s.free + 1 } else s
  let last := rho.getD nan
  let it := (r.it + 1) % 2 ^ 32
  let base : SolveStep := { r := now, t := 0, st := 2, it := it, best := r.best, last := BitVec.ofNat 64 last, hist := [], writes := [] }
  let (step, read) : SolveStep × List Nat :=
    if F64.le last thr then ({ base with st := 2, t := stepTime cores.length w 2 [], writes := xWrites ts gs }, [])
    else if rho.isNone || decide (max smax 1 ≤ it) then ({ base with st := 3, t := stepTime cores.length w 3 [] }, [])
    else
      let far := (F64.scaled (F64.v r.best.toNat) 4).lt (F64.v last)
      let hist := if far then [] else r.hist
      let hist := if hist.length < r.m then hist else hist.drop 1
      let i := (firstFree hist 0 r.m).getD 0
      let olds := hist.map (fun k => (s.histVals r.m k false ts, s.histVals r.m k true ts))
      let xa := olds.map Prod.fst ++ [(xs.map F64.widen).toArray]
      let ra := olds.map Prod.snd ++ [(rs.map F64.widen).toArray]
      let (as, ks) := mixAttempts lam xa.length ra
      let drop := xa.length - as.length
      let new := mixCombine beta as (xa.drop drop) (ra.drop drop) xs.length
      ({ base with
        st := 1, t := stepTime cores.length w 1 ks, best := BitVec.ofNat 64 (if F64.lt last r.best.toNat then last else r.best.toNat),
        hist := (hist ++ [i]).drop drop, writes := xWrites ts new ++ histWrites r.m i false ts xs ++ histWrites r.m i true ts rs },
       hist)
  match s.stepErrors ts cores r.m read with
  | [] =>
    let s := ts.foldl (fun s t => s.modCore t.1.core (fun c => c.modSlots t.2.2.1 (fun x => { x with pending := x.pending + 1 }))) s
    s.putRegion core sid clu { r with step := some step, broken := !(F64.finite beta && F64.finite lam) }
  | ps =>
    ps.foldl (fun s p => s.fatalFor p.core p.seat p.uid 0x27 0 p.pc (((s.partGroup p).map (fun g => g.csn)).getD 0) p.lgid 0)
      (s.putRegion core sid clu { r with parts := clearArrivals r.parts })

/-- The trap SOLVE-NC (R326). -/
def solveNc (sid it : Nat) (g : Group) : TrapInfo := .active 6 sid (BitVec.ofNat 64 it) g

/-- `SOLVE-NC` for a group (R301): held while it handles a trap; on a halted core it is not taken, and its cause word stands in the seat record (R329). -/
def State.ceilingTrap (s : State) (core seat uid sid it : Nat) : State :=
  match s.groupOf core seat uid with
  | some g =>
    let t := solveNc sid it g
    if (s.core core).halt.isSome then s.modGroup core seat (fun g => if g.faultWord = 0 then { g with faultWord := causeWord t.cause t.sub t.lane } else g)
    else if g.handling.isSome then s.modGroup core seat (fun g => g.holdMmx { issued := s.now core, order := 0, raised := s.now core, copy := false, info := t })
    else s.takeTrap core seat g.pc t g.pc
  | none => s

/-- A step ends (R237, R300, R301): x and the history are written, and every participant takes the outcome. -/
def State.endStep (s : State) (core sid : Nat) (clu : Bool) (r : Region) (x : SolveStep) : State :=
  let now := s.now core
  let cores := s.scopeCores core clu
  let ts := s.carried r.parts
  let s := x.writes.foldl (fun s p => s.modCore (p.1 / 32) (fun c => c.putWords (p.1 % 32) p.2)) s
  let s := ts.foldl (fun s t => s.modCore t.1.core (fun c => (c.modSlots t.2.2.1 (fun y => { y with pending := y.pending - 1 })).settleSlots)) s
  let pc := if x.st = 1 then some r.start else none
  let r' : Region := { r.keep (now + 7) with outs := r.outs ++ (farParts cores r.parts).map (fun p => (now + 8, p, pc)), st := x.st, it := x.it, best := x.best, last := x.last, step := none }
  let s := if x.st = 1 then s.putRegion core sid clu { r' with hist := x.hist, parts := clearArrivals r.parts }
    else (s.freeHistory r).putRegion core sid clu { r' with isOpen := false, parts := [], hist := [] }
  let s := (nearParts cores r.parts).foldl (fun s p => s.releasePart p pc) s
  if x.st = 3 && !r.cf then
    let s := (nearParts cores r.parts).foldl (fun s p => s.ceilingTrap p.core p.seat p.uid sid x.it) s
    match s.regionAt core sid clu with
    | some y => s.putRegion core sid clu { y with traps := y.traps ++ (farParts cores r.parts).map (fun p => (now + 8, p.core, p.seat, p.uid, x.it)) }
    | none => s
  else s

/-- A release, or the outcome of a step, reaches the other cores of a cluster 8 cycles after the first (R300). -/
def State.settleOuts (s : State) (core sid : Nat) (clu : Bool) : State :=
  match s.regionAt core sid clu with
  | none => s
  | some r =>
    let due (t : Nat × Participant × Option Nat) : Bool := decide (t.1 ≤ s.now core)
    if !r.outs.any due then s
    else
      (r.outs.filter due).foldl (fun s t => s.releasePart t.2.1 t.2.2) (s.putRegion core sid clu { r with outs := r.outs.filter (fun t => !due t) })

/-- `SOLVE-NC` reaches the other cores of a cluster 8 cycles after the first (R300). -/
def State.settleTraps (s : State) (core sid : Nat) (clu : Bool) : State :=
  match s.regionAt core sid clu with
  | none => s
  | some r =>
    let due (t : Nat × Nat × Nat × Nat × Nat) : Bool := decide (t.1 ≤ s.now core)
    if !r.traps.any due then s
    else
      (r.traps.filter due).foldl (fun s t => s.ceilingTrap t.2.1 t.2.2.1 t.2.2.2.1 sid t.2.2.2.2)
        (s.putRegion core sid clu { r with traps := r.traps.filter (fun t => !due t) })

/-- Tests the rendezvous of a region at the end of a cycle (R235, R300). -/
def State.settleRegion (s : State) (core sid : Nat) (clu : Bool) : State :=
  let s := (s.settleOuts core sid clu).settleTraps core sid clu
  match s.regionAt core sid clu with
  | none => s
  | some r =>
    let now := s.now core
    if r.busy then
      if allArrived r.parts now && decide (s.scopeAlive core clu ≤ 32 * r.parts.length) then s.openRegion core sid clu r else s
    else if r.isOpen && r.step.isNone && allArrived r.parts now then
      (if r.kind = 2 then s.exitRegion core sid clu r else s.startStep core sid clu r)
    else s

/-- The first core of a region's scope, and whether its record stands in a declared cluster. -/
def State.solvePlace (s : State) (a : SolveRef) : Nat × Bool :=
  match a.cluster with
  | some k => ((((mget (s.owner a.owner).clusters k).bind (fun x => x.cores.find? (fun n => n < Config.numCores))).getD 0), true)
  | none => (a.core, false)

/-- `SOLVE_STEP_COMPLETION` (R300). -/
def execSolveStepCompletion (at_ : SolveRef) (s : State) : Host.Outcome State Fault Refusal :=
  .next (let p := s.solvePlace at_
    match s.regionAt p.1 at_.sid p.2 with
    | none => s
    | some r =>
      match r.step with
      | none => s
      | some x => if s.stepDue p.1 r then s.endStep p.1 at_.sid p.2 r x else s)

/-! ### Instructions -/

def solSid (f : FmtX) : Nat := (f.xmod.extractLsb' 0 2).toNat

/-- The cycle in which an arrival of the issuing group counts (R300). -/
def Ctx.counts (c : Ctx) (s : State) (clu : Bool) : Nat := c.now + lagOf (s.scopeCores c.core clu) c.core

/-- Handle numbers of a `SOLB` handle word: x and g (R236). -/
def solHandles (w : Word) (lo : Nat) : List Nat := (List.range 4).map (fun c => w.toNat / 2 ^ (lo + 4 * c) % 16)

/-- The handle of the issuing group that `SOLB` refuses: dead, or a g whose slot count differs from its x's. -/
def solbTrouble (g : Group) (resume : Nat) : List (Nat × Nat) → Option Trouble
  | [] => none
  | (x, y) :: t =>
    if !(g.handle x).live then some (handleDead g x 0 resume)
    else if !(g.handle y).live then some (handleDead g y 0 resume)
    else if (g.handle x).slots.length ≠ (g.handle y).slots.length then some (handleDead g y 0xF0 resume)
    else solbTrouble g resume t

/-- A `SOLB` meets a region that its scope, or another scope of its cluster, holds (R235, R296). -/
def State.solbHeld (s : State) (core sid : Nat) (clu : Bool) : Bool :=
  let held (r : Option Region) (b : Bool) : Bool := match r with
    | some r => r.isOpen || (r.busy && r.clu != b)
    | none => false
  if clu then held (s.regionAt core sid true) true || ((s.cluOf core).isSome && (s.clusterCores core).any (fun k =>
    match s.regionAt k sid false with | some r => r.isOpen || r.busy | none => false))
  else held (s.regionAt core sid false) false || ((s.cluOf core).isSome && (match s.regionAt core sid true with | some r => r.isOpen || r.busy | none => false))

/-- Takes `n` groups of history slots for the issuing group. -/
def State.takeHistory (s : State) (core lgid sid : Nat) : List Nat → List (List Nat) × State
  | [] => ([], s)
  | n :: ns =>
    let (a, s) := s.takeSlots core n (.solve lgid sid)
    let (b, s) := State.takeHistory s core lgid sid ns
    (a :: b, s)

/-- `SOLB` (R236, R296). -/
def execSolb (f : FmtX) (s : State) : Host.Outcome State Fault Refusal :=
  issue (.solb f) (fun c s =>
    let sid := solSid f
    let nc := (f.xmod.extractLsb' 2 2).toNat + 1
    let clu := f.xmod.getLsbD 4
    let m := (f.xmod.extractLsb' 5 3).toNat + 1
    let w := c.sval32 f.a
    let xh := (solHandles w 0).take nc
    let gh := (solHandles w 16).take nc
    let rest := (solHandles w 0).drop nc ++ (solHandles w 16).drop nc
    if c.g.handling.isSome then .error fatalSolve
    else if rest.any (fun x => x != 0) || !noRepeat (xh ++ gh) then .error c.fatalIllegal
    else
      match solbTrouble c.g c.first (xh.zip gh) with
      | some t => .error t
      | none =>
        let old := (s.regionAt c.core sid clu).getD .blank
        let differs := old.busy && !(old.nc == nc && old.m == m && old.l2 == f.xmod.getLsbD 8 && old.cf == f.xmod.getLsbD 9)
        if s.solbHeld c.core sid clu || differs then .error fatalSolve
        else
          let counts := xh.map (fun n => (c.g.handle n).slots.length)
          let need := counts.map (fun n => 2 * m * n)
          if (s.core c.core).openSlots < need.foldl (· + ·) 0 then .error (.fatal 0x2F 0 0)
          else
            let lg := s.lgid c.core c.seat
            let (hist, s) := s.takeHistory c.core lg sid need
            let s := s.tokenPass c.core c.seat
            let p : Participant := { core := c.core, lgid := lg, seat := c.seat, uid := c.g.uid, tids := c.g.tids, xh := xh, gh := gh, counts := counts, history := hist, arrived := some (c.counts s clu), pc := c.pc }
            let r : Region := if old.busy then { old with parts := old.parts ++ [p] }
              else { old with busy := true, clu := clu, kind := 0, parts := [p], start := nextPc c.pc, nc := nc, m := m, l2 := f.xmod.getLsbD 8, cf := f.xmod.getLsbD 9 }
            .ok (c.solveWait (s.putRegion c.core sid clu r) 0 sid clu)) s

/-- The open region of the issuing group, of which it is a participant, or the trouble that its instruction meets (R235, R296, R297). -/
def Ctx.openRegion (c : Ctx) (s : State) (sid : Nat) : Except Trouble (Bool × Region × Participant) :=
  if c.g.handling.isSome then .error fatalSolve
  else
    match s.findRegion c.core sid with
    | none => .error fatalSolve
    | some (clu, r) =>
      match r.parts.find? (fun p => p.core == c.core && p.lgid == s.lgid c.core c.seat) with
      | some p => if r.isOpen then .ok (clu, r, p) else .error fatalSolve
      | none => .error fatalSolve

/-- The arrival of a participant at `SOLE` (kind 1) or `SOLX` (kind 2). -/
def Ctx.solveArrive (c : Ctx) (s : State) (sid kind : Nat) : Effect :=
  match c.openRegion s sid with
  | .error t => .error t
  | .ok (clu, r, p) =>
    let some_ := r.parts.any (fun q => q.arrived.isSome)
    if some_ && r.kind != kind then .error fatalSolve
    else
      let s := s.tokenPass c.core c.seat
      let at_ := c.counts s clu
      let r : Region := { r with kind := kind, parts := r.parts.map (fun q =>
        if q.core == p.core && q.lgid == p.lgid then { q with seat := c.seat, uid := c.g.uid, arrived := some at_, pc := c.pc } else q) }
      .ok (c.solveWait (s.putRegion c.core sid clu r) kind sid clu)

/-- `SOLE` (R237). -/
def execSole (f : FmtX) (s : State) : Host.Outcome State Fault Refusal :=
  issue (.sole f) (fun c s => c.solveArrive s (solSid f) 1) s

/-- `SOLX` (R240). -/
def execSolx (f : FmtX) (s : State) : Host.Outcome State Fault Refusal :=
  issue (.solx f) (fun c s => c.solveArrive s (solSid f) 2) s

/-- `SOLQ` (R239, R304). -/
def execSolq (f : FmtX) (s : State) : Host.Outcome State Fault Refusal :=
  issue (.solq f) (fun c s =>
    if c.g.handling.isSome then .error fatalSolve
    else
      let kind := (f.xmod.extractLsb' 2 2).toNat
      let v : Nat × Nat × DWord × DWord × Nat := match s.findRegion c.core (solSid f) with
        | some (clu, r) => r.seen (s.stepDue c.core r) c.now (lagOf (s.scopeCores c.core clu) c.core == 0)
        | none => (0, 0, 0, 0, 0)
      let (_, it, last, best, n) := v
      .ok (match kind with
        | 0 => s.writeScalar c f.dst 1 (c.now + 1) (BitVec.ofNat 64 it)
        | 1 => s.writeScalar c f.dst 2 (c.now + 1) last
        | 2 => s.writeScalar c f.dst 2 (c.now + 1) best
        | _ => s.writeScalar c f.dst 1 (c.now + 1) (BitVec.ofNat 64 n))) s

/-- `SOLH` (R241). -/
def execSolh (f : FmtX) (s : State) : Host.Outcome State Fault Refusal :=
  issue (.solh f) (fun c s =>
    match c.openRegion s (solSid f) with
    | .error t => .error t
    | .ok (_, r, p) =>
      let ct := (f.xmod.extractLsb' 2 2).toNat
      let e := (f.xmod.extractLsb' 4 3).toNat
      let hd := (c.g.handle (hnum f.dst)).slots
      let src := (r.hist.reverse[e]?).map (fun i => p.tile r.m ct i (f.xmod.getLsbD 7))
      if (s.core c.core).tileBad (src.getD []) then .error (.fatal 0x27 0 0)
      else
        .ok (s.modCore c.core (fun co => ((List.range hd.length).zip hd).foldl (fun co q =>
          let ws : Map Word := (List.range 2048).map (fun w => (w, match src with
            | some sl => (co.slot ((sl[q.1]?).getD 0)).word w
            | none => 0))
          co.putWords q.2 ws) co))) s

end Sys2Proof.Machine
end

