-- ==== Sys2Proof/Machine/System.lean ====
section
/-! DEFINITION. The system instructions (R187 to R195): special registers, allotment, traps and halts, trades, launches and events. -/

namespace Sys2Proof.Machine

/-! ### The next session's table (R15, R17, R22, R23) -/

/-- The owner is resident, or it is the incoming owner of an accepted switch that is not complete. -/
def State.mustHold (s : State) (k : Nat) : Bool :=
  (s.owner k).resident || (match s.mgmt.switch with | some w => w.inc == some k | none => false)

/-- A trade can be applied to a table (R23): its entries belong to the offerer, which is not left without one while it must hold one. -/
def State.tradeFits (s : State) (t : BitVec 64) (x : Offer) : Bool :=
  x.mask &&& turnMask t x.from_ == x.mask && !(turnMask t x.from_ == x.mask && s.mustHold x.from_)

/-- A table with accepted trades applied in order; a void one changes nothing. -/
def State.applyTrades (s : State) : BitVec 64 → List Offer → BitVec 64
  | t, [] => t
  | t, x :: xs => s.applyTrades (if s.tradeFits t x then setEntries t x.mask x.dest else t) xs

/-- The next session's table as it now stands, with the trades accepted before this cycle or, with `now`, in it too. -/
def State.nextTable (s : State) (now : Bool) : BitVec 64 :=
  s.applyTrades s.mgmt.nextTable (s.mgmt.accepted.filter (fun x => now || decide (x.at_ < s.cycle)))

/-! ### Special registers (R189 to R191) -/

/-- A thread of a team not yet admitted stands at the key (R286). -/
def Grid.twait (g : Grid) : Bool := match g.key with | some k => decide (g.nextTeam ≤ k / 1024) | none => false

/-- The value of a special register for a lane of the issuing group (R17, R25, R26, R29, R35, R190, R286, R287). -/
def State.special (s : State) (c : Ctx) (spr l : Nat) : DWord :=
  let g := c.g
  let co := s.core c.core
  let own := s.owner c.owner
  let gr := s.gridOf c.core
  let det := s.det c.core
  let team (f : Team → Nat) : Nat := (co.team.map f).getD 0
  let pk (f : Packet → Nat) : Nat := (gr.map (fun x => f x.packet)).getD 0
  let n (x : Nat) : DWord := BitVec.ofNat 64 x
  let denied : DWord := 0xFFFFFFFFFFFFFFFF
  match spr with
  | 0x000 => n (if det then g.retiredBy c.now else c.now)
  | 0x001 => n (g.retiredBy c.now)
  | 0x002 => (ownrWord (s.priv c.core) c.owner).zeroExtend 64
  | 0x003 => s.mgmt.table
  | 0x004 => tmineWord (turnMask s.mgmt.table c.owner) (turnMask (s.nextTable false) c.owner)
  | 0x005 => n ((if det then g.retiredBy c.now else s.cycle) % 65536)
  | 0x006 => if !det && (gr.map (fun x => x.packet.gta)).getD false then n s.mgmt.gtime else denied
  | 0x007 => if !det && (gr.map (fun x => x.packet.fta)).getD false then n s.fabricTime else denied
  | 0x010 => n c.seat
  | 0x011 => n (s.lgid c.core c.seat)
  | 0x012 => n (g.tid l)
  | 0x013 => n (team (fun t => t.teamId))
  | 0x014 => n (team (fun t => t.cluId))
  | 0x015 => n (pk (fun p => p.gridid.toNat))
  | 0x016 => n l
  | 0x020 => n (team (fun t => t.srseed.toNat))
  | 0x021 => n (team (fun t => t.solthr.toNat))
  | 0x022 => n (team (fun t => t.solmax.toNat))
  | 0x023 => n (team (fun t => t.solbeta.toNat))
  | 0x024 => n (team (fun t => t.sollam.toNat))
  | 0x025 => (s.solstat c.core).zeroExtend 64
  | 0x030 => g.trapv
  | 0x031 => g.trapc.zeroExtend 64
  | 0x032 => g.trapa
  | 0x033 => g.trapm.zeroExtend 64
  | 0x040 => g.segsp
  | 0x041 => g.segst
  | 0x042 => g.seggl
  | 0x050 => (toksWord (s.holdsToken c.core g) det (pk (fun p => p.trm)) (det && (gr.map Grid.twait).getD false) g.pass).zeroExtend 64
  | 0x051 => pwrtWord (own.die (dieOf c.core)).pool det
  | 0x052 => own.strgt.zeroExtend 64
  | 0x053 => own.strgp.zeroExtend 64
  | 0x054 => co.dumpbase
  | 0x055 => g.csn
  | _ => 0

/-- `MFS` (R189, R254): whole, or one half. -/
def execMfs (f : FmtS) (s : State) : Host.Outcome State Fault Refusal :=
  issue (.mfs f) (fun c s =>
    match row? (.mfs f) with
    | none => .ok s
    | some r =>
      let v (l : Nat) : DWord :=
        let x := s.special c f.spr.toNat l
        match (f.smod.extractLsb' 0 2).toNat with
        | 1 => (lo32 x).zeroExtend 64
        | 2 => (hi32 x).zeroExtend 64
        | _ => x
      .ok (s.writeAlu c r ((c.aluLanes r).map (fun l => (l, v l))) [])) s

/-- The value that a source of `MTS` or `MTSP` supplies: a pair for a 64-bit register. -/
def Ctx.sprSource (c : Ctx) (f : FmtS) : DWord :=
  c.sval (match sprInfo f.spr with | some (true, _, _) => 2 | _ => 1) f.a

/-- A write of a steering register: of those of one cycle that of the highest logical id stands (R299). -/
def Team.steer (t : Team) (spr now lgid : Nat) (h : Team → Team) : Team :=
  match mget t.solBy spr with
  | some (at_, lg) => if at_ = now ∧ lgid < lg then t else { h t with solBy := mset t.solBy spr (now, lgid) }
  | none => { h t with solBy := mset t.solBy spr (now, lgid) }

/-- `MTS` (R189, R299): a read-write register; reserved fields stay zero (R10). -/
def execMts (f : FmtS) (s : State) : Host.Outcome State Fault Refusal :=
  issue (.mts f) (fun c s =>
    let d := c.sprSource f
    let steer (h : Team → Team) : Effect := .ok (s.modTeam c.core (fun t => t.steer f.spr.toNat c.now (s.lgid c.core c.seat) h))
    match f.spr.toNat with
    | 0x020 => .ok (s.modTeam c.core (fun t => { t with srseed := d }))
    | 0x021 => steer (fun t => { t with solthr := d })
    | 0x022 => steer (fun t => { t with solmax := lo32 d })
    | 0x023 => steer (fun t => { t with solbeta := lo32 d })
    | 0x024 => steer (fun t => { t with sollam := d })
    | _ => .ok (s.modGroup c.core c.seat (fun g => { g with trapv := d &&& 0x001FFFFFFFFFFFFF }))) s

/-- A segment value with its reserved field zero. -/
def segValue (d : DWord) : DWord := d &&& 0xFFFFFFFFFFFF803F

/-- The write of a privileged register; none when the value is refused (R61, R319, R331). -/
def State.privWrite (s : State) (c : Ctx) (spr : Nat) (d : DWord) : Option State :=
  let group (ok : Bool) (h : Group → Group) : Option State := if ok then some (s.modGroup c.core c.seat h) else none
  match spr with
  | 0x040 => group (segLegal 17 17 d) (fun g => { g with segsp := segValue d })
  | 0x041 => group (segLegal 10 20 d) (fun g => { g with segst := segValue d })
  | 0x042 => group (segLegal 15 51 d) (fun g => { g with seggl := segValue d })
  | 0x052 => some (s.modOwner c.owner (fun o => { o with strgt := lo32 d }))
  | 0x053 => some (s.modOwner c.owner (fun o => { o with strgp := lo32 d &&& 0x1F }))
  | _ => if d.toNat % 64 = 0 ∧ d.toNat < 2 ^ 51 then some (s.modCore c.core (fun co => { co with dumpbase := d })) else none

/-- `MTSP` (R189): a privileged group writes a privileged register; d is 0, or 1 when the value is refused. -/
def execMtsp (f : FmtS) (s : State) : Host.Outcome State Fault Refusal :=
  issue (.mtsp f) (fun c s =>
    if !s.priv c.core then .error (fatalPermission 2)
    else
      let r := s.privWrite c f.spr.toNat (c.sprSource f)
      .ok ((r.getD s).writeScalar c f.dst 1 (c.now + 1) (if r.isSome then 0 else 1))) s

/-! ### Allotment and the owner clock (R40, R42, R192, R193) -/

/-- `ACQ` (R192): it issues once what it asks for is granted. -/
def execAcq (f : FmtS) (s : State) : Host.Outcome State Fault Refusal :=
  issue (.acq f) (fun c s =>
    .ok (match acqFigures (.acq f) with
      | some (r, h, o) => s.setAllotment c.core c.seat r h o
      | none => s)) s

/-- `RELA` (R192): the prologue allotment; a register figure below it cannot stand, so nothing rises. -/
def execRela (f : FmtS) (s : State) : Host.Outcome State Fault Refusal :=
  issue (.rela f) (fun c s => .ok (s.setAllotment c.core c.seat 16 2 0)) s

/-- A request has what it asks for. -/
def Core.enough (c : Core) (d : Demand) : Bool := decide (d.regs ≤ c.freeRegs ∧ d.orgs ≤ c.openOrigins (quadOf d.seat))

/-- Grants requests in order, as far as what is free reaches: one that lacks something holds back every later one (R42, R57). -/
def Core.grantAllotments (c : Core) : List Demand → Core
  | [] => c
  | d :: ds => if c.enough d then (c.grant d.seat).grantAllotments ds else c

/-- A group whose split or re-deal waited for registers takes them (R51, R53). -/
def State.takeRise (s : State) (core seat : Nat) : State :=
  match s.group? core seat, (s.core core).demand? seat with
  | some g, some d =>
    match g.wait with
    | some (.rise regs) =>
      if d.granted then
        (s.modCore core (fun c => c.dropDemand seat)).modGroup core seat (fun g => { g with allot := regs, wait := none, wake := s.now core + 1 })
      else s
    | _ => s
  | _, _ => s

/-- `ALLOTMENT_GRANT` (R42): free registers and origins go to the requests that wait, oldest first. -/
def execAllotmentGrant (core : Nat) (s : State) : Host.Outcome State Fault Refusal :=
  let s := s.modCore core (fun c => c.grantAllotments (c.waiting (fun d => d.slots == 0)))
  .next ((s.core core).groups.foldl (fun s p => s.takeRise core p.1) s)

/-- `RDOC` (R193, R253). -/
def execRdoc (f : FmtS) (s : State) : Host.Outcome State Fault Refusal :=
  issue (.rdoc f) (fun c s => .ok (s.writeScalar c f.dst 2 (c.now + 1) (s.special c 0x000 c.lane0))) s

/-! ### Traps and halts (R194, R327, R330, R338, R339) -/

/-- `TRAP` (R194): a precise trap; it resumes at the next slot. -/
def execTrap (f : FmtS) (s : State) : Host.Outcome State Fault Refusal :=
  issue (.trap f) (fun c _ => .error (.trap (.active 7 0 (f.smod.zeroExtend 64) c.g) (nextPc c.pc))) s

/-- `RFT` (R194, R327): outside a handler it is illegal. -/
def execRft (f : FmtS) (s : State) : Host.Outcome State Fault Refusal :=
  issue (.rft f) (fun c s => if c.g.handling.isNone then .error c.fatalIllegal else .ok (s.returnTrap c.core c.seat)) s

/-- `HALT` (R194). -/
def execHalt (f : FmtS) (s : State) : Host.Outcome State Fault Refusal :=
  issue (.halt f) (fun _ _ => .error (.fatal 0x2B 0 (f.smod.zeroExtend 64))) s

/-- A `SNAP` joins a latch that is due after this cycle, or calls for one; the tag of the earliest counts, then of the lowest logical id (R338). -/
def snapJoin (due : List (Nat × Nat × Nat)) (now tag lg : Nat) : List (Nat × Nat × Nat) :=
  match due.find? (fun x => decide (now < x.1)) with
  | none => due ++ [(now + 32, tag, lg)]
  | some x => if x.1 = now + 32 ∧ lg < x.2.2 then due.map (fun y => if y.1 = x.1 then (now + 32, tag, lg) else y) else due

/-- `SNAP` (R338). -/
def execSnap (f : FmtS) (s : State) : Host.Outcome State Fault Refusal :=
  issue (.snap f) (fun c s =>
    .ok (s.modOwner c.owner (fun o =>
      { o with snap := snapJoin o.snap c.now (f.smod.extractLsb' 0 8).toNat (s.lgid c.core c.seat) }))) s

/-- Rings of an owner (R348): 0 trade record, 1 fault queue, 2 error log, 3 telemetry, 4 debug. -/
def Owner.ring (o : Owner) (n : Nat) : Ring := (mget o.rings n).getD { pi := 0, drop := false, waiting := [] }

def Owner.modRing (o : Owner) (n : Nat) (f : Ring → Ring) : Owner := { o with rings := mset o.rings n (f (o.ring n)) }

/-- A record for a ring, to be written once it may be. -/
def State.ringAdd (s : State) (owner n : Nat) (bs : List Byte) : State :=
  s.modOwner owner (fun o => o.modRing n (fun r => { r with waiting := r.waiting ++ [bs] }))

/-- A debug record (R339). -/
def State.debugRecord (s : State) (c : Ctx) (code : Nat) : List Byte :=
  leBytes 4 (((s.gridOf c.core).map (fun g => g.packet.gridid.toNat)).getD 0) ++ leBytes 4 0 ++ leBytes 8 c.pc ++ leBytes 8 c.g.csn.toNat
    ++ leBytes 4 (s.lgid c.core c.seat) ++ leBytes 2 c.core ++ leBytes 1 c.seat ++ leBytes 1 0 ++ leBytes 2 code ++ leBytes 6 0
    ++ leBytes 8 c.now ++ leBytes 16 0

/-- Adds a debug record before those of the same core and cycle with a higher logical id (R329). -/
def debugInsert (bs : List Byte) (rs : List (List Byte)) : List (List Byte) :=
  let later (r : List Byte) : Bool :=
    fieldLe r 28 2 == fieldLe bs 28 2 && fieldLe r 40 8 == fieldLe bs 40 8 && decide (fieldLe bs 24 4 < fieldLe r 24 4)
  rs.filter (fun r => !later r) ++ [bs] ++ rs.filter later

/-- `DBG` (R194, R339): with the grid's debug flag the group stops until `DRES`; else a `NOP`. -/
def execDbg (f : FmtS) (s : State) : Host.Outcome State Fault Refusal :=
  issue (.dbg f) (fun c s =>
    if ((s.gridOf c.core).map (fun g => g.packet.dbg)).getD false then
      let s := s.modOwner c.owner (fun o => o.modRing 4 (fun r => { r with waiting := debugInsert (s.debugRecord c f.smod.toNat) r.waiting }))
      .ok ((s.modGroup c.core c.seat (fun g => { g with wait := some .debug })).endPlay c.core c.seat)
    else .ok (s.retired c.core c.seat c.g.uid 1)) s

/-! ### Trades (R22, R195) -/

/-- The status of a trade instruction (R22), each cause in its order. An offer that has been accepted no longer keeps its entries BUSY (DESIGN CHOICE, row 30 of
notes/assumptions). -/
def State.tradeStatus (s : State) (c : Ctx) (accept : Bool) (a b : Word) : Nat :=
  let who := a.toNat
  let mask : BitVec 16 := b.extractLsb' 0 16
  let next := s.nextTable true
  if !s.priv c.core then 1
  else if 65472 ≤ phase s.cycle then 7
  else if 8 ≤ who ∨ who = c.owner ∨ !(s.owner who).admitted then 2
  else if mask = 0 ∨ b.extractLsb' 16 16 ≠ 0 ∨ (!accept && mask &&& turnMask next c.owner != mask) then 3
  else if !accept && s.mgmt.offers.any (fun x => x.mask &&& mask != 0) then 4
  else if !accept && turnMask next c.owner == mask then 5
  else if accept && !s.mgmt.offers.any (fun x => x.from_ == who && x.dest == c.owner && x.mask == mask) then 6
  else 0

/-- `TRADE` (R22, R195). -/
def execTrade (f : FmtS) (s : State) : Host.Outcome State Fault Refusal :=
  issue (.trade f) (fun c s =>
    let st := s.tradeStatus c false (c.sval32 f.a) (c.sval32 f.b)
    let x : Offer := { from_ := c.owner, dest := (c.sval32 f.a).toNat, mask := (c.sval32 f.b).extractLsb' 0 16, at_ := s.cycle }
    let s := if st = 0 then { s with mgmt := { s.mgmt with offers := s.mgmt.offers ++ [x] } } else s
    .ok (s.writeScalar c f.dst 1 (c.now + 1) (BitVec.ofNat 64 st))) s

/-- `TRADEA` (R22, R23, R195): the offer is taken whole. -/
def execTradea (f : FmtS) (s : State) : Host.Outcome State Fault Refusal :=
  issue (.tradea f) (fun c s =>
    let st := s.tradeStatus c true (c.sval32 f.a) (c.sval32 f.b)
    let x : Offer := { from_ := (c.sval32 f.a).toNat, dest := c.owner, mask := (c.sval32 f.b).extractLsb' 0 16, at_ := s.cycle }
    let same (y : Offer) : Bool := y.from_ == x.from_ && y.dest == x.dest && y.mask == x.mask
    let s := if st = 0 then
        { s with mgmt := { s.mgmt with offers := s.mgmt.offers.filter (fun y => !same y), accepted := s.mgmt.accepted ++ [x] } }
      else s
    .ok (s.writeScalar c f.dst 1 (c.now + 1) (BitVec.ofNat 64 st))) s

/-! ### Launch packets and queues (R36, R187, R349, R350) -/

/-- The packet that 128 bytes hold. -/
def Packet.of (bs : List Byte) : Packet :=
  let d (o : Nat) : DWord := BitVec.ofNat 64 (fieldLe bs o 8)
  let fl := fieldLe bs 108 2
  { entry := fieldLe bs 0 8, argb := fieldLe bs 8 8, argm := d 16, segsp := d 24, segst := d 32, seggl := d 40, stkb := d 48, dovb := d 56,
    srseed := d 64, trapv := d 72, traceb := d 80, gridid := BitVec.ofNat 32 (fieldLe bs 88 4), teams := fieldLe bs 92 4,
    wthr := BitVec.ofNat 32 (fieldLe bs 96 4), nlog := fieldLe bs 100 4, groups := fieldLe bs 104 1, cw := fieldLe bs 105 1 % 16,
    ch := fieldLe bs 105 1 / 16, wevent := fieldLe bs 106 1 % 64, wen := 128 ≤ fieldLe bs 106 1, cevent := fieldLe bs 107 1 % 64, prio := fl % 4,
    det := fl / 4 % 2 = 1, trm := fl / 8 % 4, priv := fl / 32 % 2 = 1, gta := fl / 64 % 2 = 1, fta := fl / 128 % 2 = 1, dbg := fl / 256 % 2 = 1 }

/-- A segment value of a packet keeps R61 and its reserved field is zero. -/
def segPacket (lo hi : Nat) (d : DWord) : Bool := segLegal lo hi d && d == segValue d

/-- The packet is not MALFORMED (R350); `priv` tells whether the sender may set PRIV. -/
def packetOk (bs : List Byte) (priv : Bool) : Bool :=
  let p := Packet.of bs
  let zero (o n : Nat) : Bool := fieldLe bs o n == 0
  zero 110 18 && decide (fieldLe bs 106 1 / 64 % 2 = 0) && decide (fieldLe bs 107 1 < 64) && decide (fieldLe bs 108 2 < 512)
    && pcOk p.entry && decide (1 ≤ p.groups ∧ p.groups ≤ 32) && decide (1 ≤ p.teams ∧ p.teams < 2 ^ 31)
    && decide (p.cw * p.ch ≤ 12) && ((p.cw == 0) == (p.ch == 0))
    && p.trm != 3 && (p.trm == 0 || p.det) && (p.trm == 0 || decide (p.traceb.toNat % 64 = 0))
    && segPacket 17 17 p.segsp && segPacket 10 20 p.segst && segPacket 15 51 p.seggl
    && decide (p.trapv.toNat < 2 ^ 53) && (priv || !p.priv)

/-- APPENDING A PACKET (R187, R349): the status 0 OK, 1 FULL, 2 MALFORMED, and the packet in its queue and in the queue's ring. -/
def State.append (s : State) (owner : Nat) (bs : List Byte) (priv : Bool) : Nat × State :=
  if !packetOk bs priv then (2, s)
  else
    let p := Packet.of bs
    let o := s.owner owner
    let q := (mget o.queues p.prio).getD { packets := [], written := 0, taken := 0 }
    let cap := 2 ^ o.record.lq
    if cap ≤ q.packets.length then (1, s)
    else
      let q' : Queue := { q with packets := q.packets ++ [p], written := q.written + 1 }
      let s := s.setOwner owner { o with queues := mset o.queues p.prio q' }
      (0, { s with mem := s.mem.writeN ((o.record.queues[p.prio]?).getD 0 + 128 * (q.written % cap)) bs })

/-- `LAUNCH` (R187): once its release is complete the packet is read, as by a load. -/
def execLaunch (f : FmtS) (s : State) : Host.Outcome State Fault Refusal :=
  issue (.launch f) (fun c s =>
    match s.gather c 128 (fun _ => []) (fun _ => []) false [(c.lane0, c.sval 2 f.a)] with
    | .error t => .error t
    | .ok (m, r) =>
      let id := (s.core c.core).nextOp
      let o : MemOp := { c.op s .packet with
        acc := m.map (fun a => { a with lane := 0 }), scr := r, dst := regId? f.dst, returning := true,
        notBefore := if r.isEmpty then 0 else c.now + 4 }
      .ok (((s.modGroup c.core c.seat (fun g => g.markOp f.dst 1 id)).startOp c.core c.now o).newRegion c.core c.seat)) s

/-- The packet of a `LAUNCH` has reached the core in cycle a: it is appended, and the status is written at the end of a + 1 (R187, R354). -/
def State.finishLaunch (s : State) (core id : Nat) : State :=
  match s.op? core id with
  | none => s
  | some o =>
    let s := s.delOp core id
    match o.conflict with
    | some x => (s.modGroupOf core o.seat o.uid (fun g => g.holdMmx { issued := o.issued, order := id, raised := s.now core, copy := false, info := mmxInfo x })).retiredOp core o
    | none =>
      let (st, s) := s.append (s.ownerOf core) (((o.acc ++ o.scr).head?.map (fun a => a.res)).getD []) (s.priv core)
      let now := s.now core
      (s.modGroupOf core o.seat o.uid (fun g =>
        match o.dst with
        | some (.s n) => ((g.settleOp id now).setSreg n (BitVec.ofNat 32 st)).markRegs (.s (BitVec.ofNat 6 n)) 1 (now + 1)
        | _ => g)).retiredOpAt core o (now + 1)

/-! ### Events (R37, R188) -/

/-- Adds to an event of an owner. -/
def Owner.signal (o : Owner) (n : Nat) (w : Word) : Owner := { o with events := sset 0 o.events n (sget 0 o.events n + w) }

/-- `SIGNAL` (R188): it issues once its release is complete. -/
def execSignal (f : FmtS) (s : State) : Host.Outcome State Fault Refusal :=
  issue (.signal f) (fun c s =>
    .ok ((s.modOwner c.owner (fun o => o.signal (f.smod.extractLsb' 0 6).toNat (c.sval32 f.a))).newRegion c.core c.seat)) s

/-- `EVWAIT` (R188): it issues once the threshold is satisfied, and acquires at device scope. -/
def execEvwait (f : FmtS) (s : State) : Host.Outcome State Fault Refusal :=
  issue (.evwait f) (fun c s => .ok ((s.modCore c.core (fun co => co.acquire 3)).newRegion c.core c.seat)) s

end Sys2Proof.Machine
end

