-- ==== Sys2Proof/Machine/Ring.lean ====
section
/-! DEFINITION. The five record rings (R348), error-log entries (R334) and fault records (R87). -/

namespace Sys2Proof.Machine

/-- Base of a ring, a host address: 0 trade record, 1 fault queue, 2 error log, 3 telemetry, 4 debug (R345). -/
def AdmitRecord.ringBase (r : AdmitRecord) (n : Nat) : Nat := [r.trades, r.faultq, r.errlog, r.telem, r.debug].getD n 0

/-- Entry size E and entry count N of a ring (R348). -/
def ringEntry (n : Nat) : Nat := if n ≤ 1 then 16 else 64
def AdmitRecord.ringCount (r : AdmitRecord) (n : Nat) : Nat := [64, 2 ^ r.lf, 256, 2 ^ r.lt, 64].getD n 1

/-- The ring has room for an entry: a CI beyond PI is treated as PI. -/
def State.ringRoom (s : State) (k n : Nat) : Bool :=
  let o := s.owner k
  let ci := s.host.readLe (o.record.ringBase n + 8) 8
  let pi := (o.ring n).pi
  decide (pi < ci) || decide (pi - ci < o.record.ringCount n)

/-- MSI-X vector of a ring. -/
def ringVector (k n : Nat) : Option Nat := if n = 1 then some (9 + k) else if n = 2 then some (1 + k) else if n = 4 then some (17 + k) else none

/-- The DROP flag of an entry. -/
def markDrop (n : Nat) (bs : List Byte) : List Byte :=
  let set (o b : Nat) : List Byte := patch bs o [BitVec.ofNat 8 (fieldLe bs o 1 ||| 2 ^ b)]
  if n = 0 then set 4 0 else if n = 2 then set 5 2 else if n = 3 then set 11 1 else bs

/-- WRITING AN ENTRY: the entry in full, then PI; the host is notified (R348). -/
def State.ringWrite (s : State) (k n : Nat) (bs : List Byte) : State :=
  let o := s.owner k
  let r := o.ring n
  let base := o.record.ringBase n
  let bs := if r.drop then markDrop n bs else bs
  let host := s.host.writeN (base + 64 + ringEntry n * (r.pi % o.record.ringCount n)) bs
  let s := { s with host := host.writeN base (leBytes 8 (r.pi + 1)) }
  let s := s.modOwner k (fun o => o.modRing n (fun r => { r with pi := r.pi + 1, drop := false }))
  match ringVector k n with
  | some v => { s with outbox := s.outbox ++ [.msix v] }
  | none => s

/-- The entries of a ring that wait: the fault queue's and the debug ring's leave while there is room, others are dropped when there is none. -/
def State.ringFlush (s : State) (k n : Nat) : State :=
  ((s.owner k).ring n).waiting.foldl (fun s bs =>
    let pop (s : State) : State := s.modOwner k (fun o => o.modRing n (fun r => { r with waiting := r.waiting.drop 1 }))
    if s.ringRoom k n then (s.ringWrite k n bs) |> pop
    else if n = 1 || n = 4 then s
    else (s.modOwner k (fun o => o.modRing n (fun r => { r with drop := true }))) |> pop) s

/-- An error-log entry (R334), written in a house turn. -/
def State.contextError (s : State) (k : Nat) (cause second : Word) (flags : Nat) (core dev : Option Nat) (lg grid : Nat) (addr : DWord) (pc : Nat)
    (csn : DWord) (at_ : Nat) : State :=
  s.ringAdd k 2 (leBytes 4 cause.toNat ++ leBytes 1 k ++ leBytes 1 flags ++ leBytes 2 (core.getD 0xFFFF) ++ leBytes 2 (dev.getD 0xFFFF)
    ++ leBytes 2 0 ++ leBytes 4 lg ++ leBytes 4 grid ++ leBytes 4 0 ++ leBytes 8 addr.toNat ++ leBytes 8 pc ++ leBytes 8 csn.toNat
    ++ leBytes 8 at_ ++ leBytes 4 second.toNat ++ leBytes 4 0)

/-- GRIDID of a core's team. -/
def State.gridId (s : State) (core : Nat) : Nat := ((s.gridOf core).map (fun g => g.packet.gridid.toNat)).getD 0

/-- A context error of a remote access of an operation (R312, R334). -/
def State.remoteError (s : State) (core : Nat) (o : MemOp) (cause dev : Nat) (addr : DWord) : State :=
  s.contextError (s.ownerOf core) (causeWord cause 0 0) 0 0 (some core) (some dev) o.lgid (s.gridId core) addr o.pc
    (((s.groupOf core o.seat o.uid).map (fun g => g.csn)).getD 0) (s.now core)

/-- KIND of a fault record (R87): the reads of a `CPT` record, a `COLL` descriptor and its table count as loads (DESIGN CHOICE, row 37 of notes/assumptions). -/
def OpKind.faultKind : OpKind → Nat
  | .load .. => 1
  | .packet => 1
  | .probe use => if use == .code then 4 else 1
  | .pref _ => 1
  | .store => 2
  | .systemStore => 2
  | .drain .. => 2
  | .remoteDrain .. => 2
  | .atomic _ => 3
  | .atf .. => 3
  | .tqpop => 3
  | .tqsteal => 3
  | .tqdone => 3
  | .fetch _ => 4
  | .copyRead _ => 5
  | .copyWrite _ => 6
  | .tld .. => 7
  | .tst .. => 7

/-- A fault record (R87). -/
def faultRecord (lg core own lane kind lvl va : Nat) : List Byte :=
  leBytes 16 (lg % 2 ^ 32 * 2 ^ 96 + core % 2048 * 2 ^ 64 + own % 8 * 2 ^ 61 + lane % 32 * 2 ^ 56 + kind % 8 * 2 ^ 53 + lvl % 4 * 2 ^ 51 + va % 2 ^ 51)

/-- Fault records of an owner that wait: die, page, record and since when, the oldest first. -/
def Owner.faultsWaiting (o : Owner) : List (Nat × Nat × List Byte × Nat) :=
  sortBy (fun x => x.2.2.2) (o.dies.flatMap (fun d => d.2.merge.filterMap (fun e => e.record.map (fun bs => (d.1, e.vpn, bs, e.since)))))

/-- What waits at the CXL port for an owner (R18), each with its owner cycle of arrival and its rank: 0 the host's completions, 1 the slices' requests, in ascending die
and slice, 2 fault records that their ring has room for. R18 ranks the slices alone (DESIGN CHOICE, row 34 of notes/assumptions). -/
def State.cxlWaits (s : State) (k : Nat) : List (Nat × Nat) :=
  let o := s.owner k
  let answers := s.inbox.filterMap (fun x => match x.2 with
    | .responseArrival r => if r.owner == k && r.head.isNone && decide (x.1 ≤ s.cycle) then some (o.oclk - (s.cycle - x.1), 0) else none
    | _ => none)
  let lines := o.held.flatMap (fun c => (s.core c).ops.flatMap (fun p => p.2.lines.filterMap (fun r => match r.st with | .atPort arr => some (arr, 1) | _ => none)))
  answers ++ lines ++ (if s.ringRoom k 1 then o.faultsWaiting.map (fun x => (x.2.2.2, 2)) else [])

/-- The port has served nothing in this cycle, and nothing waits that came before what came at `arr` with this rank. -/
def State.cxlFree (s : State) (k arr rank : Nat) : Bool :=
  !(s.owner k).served.contains (unitWord 8 9 0) && !(s.cxlWaits k).any (fun y => decide (y.1 < arr) || (y.1 == arr && decide (y.2 < rank)))

/-- The oldest fault record that waits is written when the port and its ring have room for it (R18, R348). -/
def State.flushFaults (s : State) (k : Nat) : State :=
  match (s.owner k).faultsWaiting.head? with
  | none => s
  | some (d, vpn, bs, since) =>
    if s.ringRoom k 1 && s.cxlFree k since 2 then
      ((s.serves k (unitWord 8 9 0)).ringWrite k 1 bs).modOwner k (fun o => o.modDie d (fun x => { x with
        merge := x.merge.map (fun y => if y.vpn = vpn then { y with record := none } else y) }))
    else s

/-- `RING_HAS_ROOM` (R348): records that waited on a full ring are written. -/
def execRingHasRoom (owner : Nat) (ring : RingName) (s : State) : Host.Outcome State Fault Refusal :=
  .next (match ring with
    | .fault => s.flushFaults owner
    | .trade => s.ringFlush owner 0
    | .error => s.ringFlush owner 2
    | .telemetry => s.ringFlush owner 3
    | .debug => s.ringFlush owner 4)

end Sys2Proof.Machine
end

