-- ==== Sys2Proof/Machine/Admit.lean ====
section
/-! DEFINITION. Launch queues and admission (R36 to R39, R281, R288 to R290, R349, R350), the end of a team and of a grid (R37, R38). -/

namespace Sys2Proof.Machine

/-! ### Packets that leave their queue (R37, R38) -/

/-- The wait condition of a packet holds. -/
def Owner.packetReady (o : Owner) (p : Packet) : Bool := !p.wen || eventMet (sget 0 o.events p.wevent) p.wthr

/-- The grid that a packet becomes. -/
def Grid.new (id : Nat) (p : Packet) : Grid :=
  { id := id, packet := p, nextTeam := 0, ended := 0, order := id, key := none, steals := 0, gone := [], sealed := false }

/-- Ready heads of one queue leave it. -/
def Owner.dequeue (o : Owner) (prio : Nat) : List Packet → Owner
  | [] => o
  | p :: ps =>
    if o.packetReady p then
      let o : Owner := { o with
        grids := o.grids ++ [.new o.nextGrid p], nextGrid := o.nextGrid + 1,
        queues := mmod o.queues prio (fun q => { q with packets := q.packets.drop 1, taken := q.taken + 1 }) }
      o.dequeue prio ps
    else o

/-- Ready heads of every queue leave. -/
def Owner.dequeueAll (o : Owner) : Owner := o.queues.foldl (fun o q => o.dequeue q.1 q.2.packets) o

/-! ### Where teams go (R38, R290) -/

/-- A core that can take a team. -/
def State.idle (s : State) (n : Nat) : Bool := (s.core n).team.isNone && (s.core n).halt.isNone && (s.core n).faults.isEmpty

def State.idleCores (s : State) (k : Nat) : List Nat := (s.owner k).held.filter s.idle

/-- The cores of a rectangle whose first core is `base`, in cluster order (R35); whether it lies on one die. -/
def rectangle (base cw ch : Nat) : List Nat := (List.range ch).flatMap (fun r => (List.range cw).map (fun c => base + 16 * r + c))
def rectFits (base cw ch : Nat) : Bool := decide (base % 16 + cw ≤ 16 ∧ base % 256 / 16 + ch ≤ 16)

/-- A dispatch-trace record of a team (R288). -/
def State.teamRecord (s : State) (k : Nat) (p : Packet) (team : Nat) : Option (List Byte) := s.traceRead k (p.traceb.toNat + 16 * team) 16

/-- The record was written by a completed recording (R290). -/
def recordValid (bs : List Byte) : Bool := decide (fieldLe bs 0 1 % 2 = 1 ∧ fieldLe bs 1 1 = 1)

/-- Teams that are admitted together with team `t`. -/
def Packet.batch (p : Packet) (t : Nat) : List Nat := (List.range (min (max 1 (p.cw * p.ch)) (p.teams - t))).map (fun i => t + i)

/-- The idle cores that the records of a batch name, in replay. -/
def State.replayCores (s : State) (k : Nat) (g : Grid) : Option (List Nat) :=
  let p := g.packet
  if p.trm != 2 then none
  else
    let cs := (p.batch g.nextTeam).map (fun t => ((s.teamRecord k p t).map (fun bs => fieldLe bs 8 2 % 2048)).getD Config.numCores)
    let idle := s.idleCores k
    let shape := p.cw = 0 || (match cs.head? with
      | some b => rectFits b p.cw p.ch && (rectangle b p.cw p.ch).take cs.length == cs && (rectangle b p.cw p.ch).all idle.contains
      | none => false)
    if shape && cs.all idle.contains then some cs else none

/-- The cores of the next batch of a grid; none when no place is idle. -/
def State.placeTeams (s : State) (k : Nat) (g : Grid) : Option (List Nat) :=
  let p := g.packet
  let n := (p.batch g.nextTeam).length
  let idle := s.idleCores k
  match s.replayCores k g with
  | some cs => some cs
  | none =>
    if p.cw = 0 then (idle.head?).map (fun c => [c])
    else (idle.find? (fun b => rectFits b p.cw p.ch && (rectangle b p.cw p.ch).all idle.contains)).map (fun b => (rectangle b p.cw p.ch).take n)

/-- The grid that the admission unit serves: highest priority, then first dequeued. -/
def Owner.nextGrid? (o : Owner) : Option Grid :=
  o.grids.foldl (fun best g =>
    if g.packet.teams ≤ g.nextTeam then best
    else match best with
      | none => some g
      | some b => if b.packet.prio < g.packet.prio then some g else best) none

/-- The next admission of an owner. A DET grid takes one batch in a cycle (R281). -/
def State.nextAdmission (s : State) (k : Nat) : Option (Grid × List Nat) :=
  let o := s.owner k
  if !o.resident then none
  else
    match o.nextGrid? with
    | none => none
    | some g =>
      let already := s.cores.any (fun c => match c.2.team with
        | some t => t.owner == k && t.grid == g.id && t.admitted == o.oclk
        | none => false)
      if g.packet.det && already then none else (s.placeTeams k g).map (fun cs => (g, cs))

/-! ### Admitting a team (R39, R64, R75, R350) -/

/-- One byte of an argument block, read through the tables as they stand; a fault's cause where it cannot be read. -/
def State.argByte (s : State) (k va : Nat) : Except Nat Byte :=
  if 2 ^ 51 ≤ va then .error 0x20
  else
    match s.peek k va with
    | .leaf l =>
      if l.tgt = 0 then (if (s.owner k).leafColourOk l va then .ok (s.mem.read (l.addr va)) else .error 0x22)
      else if l.tgt = 1 then .ok (s.host.read (l.addr va))
      else .ok (Config.remoteArgument s.cycle va)
    | _ => .error 0x20

/-- Four bytes of an argument block. -/
def State.argWord (s : State) (k va : Nat) : Except Nat Word :=
  match s.argByte k va, s.argByte k (va + 1), s.argByte k (va + 2), s.argByte k (va + 3) with
  | .ok a, .ok b, .ok c, .ok d => .ok (BitVec.ofNat 32 (leNat [a, b, c, d]))
  | .error e, _, _, _ => .error e
  | _, .error e, _, _ => .error e
  | _, _, .error e, _ => .error e
  | _, _, _, .error e => .error e

/-- The scalar registers that ARGM selects; and the first word that cannot be read: its cause and address. -/
def State.argRegs (s : State) (k : Nat) (p : Packet) : Words × Option (Nat × Nat) :=
  (List.range 64).foldl (fun acc n =>
    if p.argm.getLsbD n then
      match s.argWord k (p.argb + 4 * n) with
      | .ok w => (sset 0 acc.1 n w, acc.2)
      | .error e => (acc.1, some (acc.2.getD (e, p.argb + 4 * n)))
    else acc) ([], none)

/-- The seat of a group at admission (R39). -/
def admitSeat (g : Nat) : Nat := 16 * (g % 4) + g / 4

/-- A group as it is admitted. -/
def Group.admitted (p : Packet) (g : Nat) (sregs : Words) : Group :=
  { Group.dealt 0 p.entry 16 [] with
    threads := (List.range 32).map (fun l => (l, { tid := 32 * g + l, jmask := 0 })), sregs := sregs, tcheck := true, trapv := p.trapv,
    segsp := p.segsp, segst := p.segst, seggl := p.seggl }

/-- A core as a team finds it: scratchpad zero and full, no line in the L1, no tile held, engines and queues idle; its seats fill the rotations. -/
def Core.takeTeam (c : Core) (t : Team) (groups : Nat) : Core :=
  { c with
    team := some t, seats := [], sp := [], spBad := [], spRaceBad := [], spEmpty := [], spRace := [], l1 := [], demands := [], mailWaits := [], copyLast := 3, haltDue := none,
    slots := c.slots.map (fun p => (p.1, { p.2 with use := .free, pending := 0, reading := 0 })),
    quads := (List.range 4).map (fun q => (q, { Quad.blank with
      rotation := ((List.range groups).filter (fun g => g % 4 == q)).map admitSeat })) }

/-- A team as it is admitted. -/
def Team.new (k : Nat) (g : Grid) (teamId now : Nat) (cluster : Option (Nat × Nat)) : Team :=
  let p := g.packet
  { owner := k, grid := g.id, teamId := teamId, cluId := if p.cw = 0 then teamId else teamId / (p.cw * p.ch), cluster := cluster,
    threads := p.threads, exited := [], srseed := p.srseed, solthr := 0, solmax := 0, solbeta := 0, sollam := 0, solBy := [], barriers := [], joins := [],
    deck := [], mail := [], joined := [], regions := [], admitted := now, stlx := none, nstl := 0 }

/-- A team's dispatch record, not yet valid (R288, R289). -/
def recordBytes (core adseq : Nat) : List Byte :=
  leBytes 16 (0x100 + 2 ^ 32 * (adseq % 2 ^ 32) + 2 ^ 64 * core + 2 ^ 96 * 0xFFFFFFFF)

/-- What follows the seating of a team: its record in record mode, the fault of its lowest group for an invalid record in replay or for an argument
that cannot be read (R289, R290, R350). -/
def State.admitChecks (s : State) (k : Nat) (g : Grid) (core teamId adseq : Nat) (bad : Option (Nat × Nat)) : State :=
  let p := g.packet
  let s := if p.trm = 1 then s.deviceStore core 0 (p.traceb.toNat + 16 * teamId) (recordBytes core adseq) else s
  let diverges := p.trm = 2 && !((s.teamRecord k p teamId).map recordValid).getD false
  if diverges then s.groupFatal core 0 0x30 0 0
  else
    match bad with
    | some (cause, va) => s.groupFatal core 0 cause 0 (BitVec.ofNat 64 va)
    | none => s

/-- ADMITTING A TEAM to a core (R38, R39). -/
def State.admitTeam (s : State) (k : Nat) (g : Grid) (core teamId : Nat) (cluster : Option (Nat × Nat)) : State :=
  let o := s.owner k
  let (regs, bad) := s.argRegs k g.packet
  let s := s.modCore core (fun c => c.takeTeam (.new k g teamId o.oclk cluster) g.packet.groups)
  let s := s.modOwner k (fun o => { o.modGrid g.id (fun x => { x with
    nextTeam := teamId + 1, key := if x.packet.det && x.nextTeam == 0 then some 0 else x.key }) with adseq := o.adseq + 1 })
  let s := (List.range g.packet.groups).foldl (fun s i => s.seat core (admitSeat i) (.admitted g.packet i regs)) s
  s.admitChecks k g core teamId o.adseq bad

/-- Admits a batch: one team, or a cluster whole. -/
def State.admitBatch (s : State) (k : Nat) (g : Grid) (cores : List Nat) : State :=
  let o := s.owner k
  let id := o.nextCluster
  let s := if g.packet.cw = 0 then s else
    s.setOwner k { o with
      nextCluster := id + 1,
      clusters := mset o.clusters id
        { grid := g.id, cluId := g.nextTeam / (g.packet.cw * g.packet.ch), cores := cores, alive := cores.length * g.packet.threads, barriers := [],
          joined := [], regions := [] } }
  ((List.range cores.length).zip cores).foldl (fun s p =>
    s.admitTeam k g p.2 (g.nextTeam + p.1) (if g.packet.cw = 0 then none else some (id, p.1))) s

/-- `TEAM_ADMISSION` (R38). -/
def execTeamAdmission (owner : Nat) (s : State) : Host.Outcome State Fault Refusal :=
  .next (match s.nextAdmission owner with
    | some (g, cs) => s.admitBatch owner g cs
    | none => s)

/-! ### The end of a team and of a grid (R37, R38) -/

/-- Every operation that the team of a core started has finished. -/
def Core.quiet (c : Core) : Bool :=
  c.wc.isEmpty && c.rwc.isEmpty && c.quads.all (fun q => q.2.copies.isEmpty && q.2.engine.isEmpty)
    && c.ops.all (fun p => match p.2.kind with | .fetch _ => true | .pref _ => true | _ => false)

/-- The team of a core has ended: its threads have exited, its deck is empty, and its work has finished. -/
def State.teamDone (s : State) (k core : Nat) : Bool :=
  let c := s.core core
  match c.team with
  | none => false
  | some t =>
    decide (t.threads ≤ t.exited.length) && t.deck.isEmpty && c.quiet && c.halt.isNone && c.faults.isEmpty
      && !(s.owner k).dies.any (fun d => d.2.colls.any (fun x => x.2.core == core))

/-- The core of a team that has ended becomes idle; its place in a cluster is given up. -/
def State.endTeam (s : State) (k core : Nat) (t : Team) : State :=
  let s := s.modCore core (fun c => { c with team := none, seats := [], quads := [], demands := [], mailWaits := [] })
  s.modOwner k (fun o =>
    let o := o.modGrid t.grid (fun g => { g with ended := g.ended + 1 })
    match t.cluster with
    | none => o
    | some (id, _) =>
      let cl := mmod o.clusters id (fun x => { x with cores := x.cores.map (fun n => if n = core then Config.numCores else n) })
      { o with clusters := cl.filter (fun p => p.2.cores.any (fun n => n < Config.numCores)) })

/-- Ends the team of a core that is done. The last team of a recording grid first makes the trace valid (R289). -/
def State.settleTeamEnd (s : State) (k core : Nat) : State :=
  if !s.teamDone k core then s
  else
    match (s.core core).team with
    | none => s
    | some t =>
      match (s.owner k).grid? t.grid with
      | none => s.endTeam k core t
      | some g =>
        if g.packet.trm = 1 ∧ !g.sealed ∧ g.ended + 1 = g.packet.teams then
          let s := s.modOwner k (fun o => o.modGrid g.id (fun x => { x with sealed := true }))
          (List.range g.packet.teams).foldl (fun s i => s.deviceStore core 0 (g.packet.traceb.toNat + 16 * i) [1]) s
        else s.endTeam k core t

/-- Ends the teams of an owner that are done. -/
def State.settleTeams (s : State) (k : Nat) : State := (s.owner k).held.foldl (fun s n => s.settleTeamEnd k n) s

/-- Grids of an owner whose teams have all ended. -/
def Owner.finished (o : Owner) : List Nat := (o.grids.filter (fun g => g.packet.teams ≤ g.ended)).map (fun g => g.id)

/-- `GRID_COMPLETION` (R37). -/
def execGridCompletion (owner grid : Nat) (s : State) : Host.Outcome State Fault Refusal :=
  .next (match (s.owner owner).grid? grid with
    | some g =>
      if g.packet.teams ≤ g.ended then
        s.modOwner owner (fun o => { o.signal g.packet.cevent 1 with grids := o.grids.filter (fun x => x.id != grid) })
      else s
    | none => s)

end Sys2Proof.Machine
end

