-- ==== Sys2Proof/Machine/Deal.lean ====
section
/-! DEFINITION. What a group issues next, and the dealer (R42, R50, R51, R57, R59, R281). -/

namespace Sys2Proof.Machine

/-! ### The group's next slot (R246) -/

/-- The bytes of the line that holds `pc`, if the group can issue from it in cycle `now`. -/
def Group.lineAt (g : Group) (pc now : Nat) : Option (List Byte) :=
  match g.lines.find? (fun l => l.line == pc / 64 * 64) with
  | some l => (match l.ready with
    | some t => if t ≤ now then some l.bytes else none
    | none => none)
  | none => none

/-- The slot of its line that a PC names. -/
def slotOf (pc : Nat) : Nat := pc % 64 / 12

/-- The PCs that issue together at a group's PC: one slot, or a pair. The first of a pair whose other instruction has issued issues alone (R44, R123). -/
def Group.issuePcs (g : Group) (line : List Byte) : List Nat :=
  if linePair line (slotOf g.pc) && g.half != some g.pc then [g.pc, nextPc g.pc] else [g.pc]

/-- The instructions at the group's PC that decode, with their PCs. -/
def Group.upcoming (g : Group) (now : Nat) : List (Nat × Instr) :=
  match g.lineAt g.pc now with
  | none => []
  | some line => (g.issuePcs line).filterMap (fun pc =>
      match decode (slotWord line (slotOf pc)) with
      | .ok i => some (pc, i)
      | .error _ => none)

/-! ### A quiescent team (R281) -/

/-- An instruction at which the dealer of a DET team does not wait for its group. -/
def quietWait : Instr → Bool
  | .tokw _ => true
  | .evwait _ => true
  | .cpw _ => true
  | .htake _ => true
  | .hput _ => true
  | .acq _ => true
  | _ => false

/-- The group is not ready at one of the waits of R281, with all that its next instruction reads settled: a read that comes before the effect of a `CPT` or a `COLL`, and a page that is not present, are none. -/
def State.quietGroup (s : State) (core seat : Nat) (g : Group) : Bool :=
  match g.wait with
  | some (.barrier ..) => true
  | some (.join ..) => true
  | some (.op id) => ((s.op? core id).map (fun o => match o.kind with | .atf .. => !o.parked | _ => false)).getD false
  | some (.solve ..) => true
  | some (.rise _) => true
  | some _ => false
  | none =>
    if (s.core core).ops.any (fun p => p.2.seat == seat && p.2.uid == g.uid && s.tokenHeld core p.2) then true
    else
    match s.ctx? { core := core, quad := quadOf seat, seat := seat, snap := none } with
    | none => false
    | some c => (g.upcoming c.now).any (fun p =>
        let c := { c with pc := p.1 }
        match row? p.2 with
        | some r => s.boardReady p.2 r c && c.takesEffect p.2 r && ((quietWait p.2 && !s.effectReady p.2 c) || (s.gated p.2 c && !s.tokenReady c.core c.g))
        | none => false)

/-- Every thread of the team that has not exited is in the deck, or in a group at such a wait. -/
def State.quiescent (s : State) (core : Nat) : Bool := (s.core core).groups.all (fun p => s.quietGroup core p.1 p.2)

/-! ### Sets of records (R50) -/

/-- A set of records that may be dealt now, as one group. -/
structure Dealt where
  /-- The key of its request for registers. -/
  key : Nat
  bud : Nat
  recs : List DeckRec
deriving DecidableEq, Repr

def Dealt.tid (d : Dealt) : Nat := (d.recs.head?.map (fun r => r.tid)).getD 0

/-- Records that wait to be dealt. -/
def DeckRec.loose (r : DeckRec) : Bool := !r.jwait && r.bundle.isNone

/-- The keys of requests of the dealer stand above every seat. -/
def looseKey (pc bud : Nat) : Nat := 64 + 512 * pc + bud
def bundleKey (tid : Nat) : Nat := 64 + 2 ^ 60 + tid

/-- The PC and budget of sets of records, by ascending lowest `TID`. -/
def looseSets (rs : List DeckRec) : List (Nat × Nat) :=
  (sortBy (fun r => r.tid) rs).foldl (fun ps r => if ps.contains (r.pc, r.bud) then ps else ps ++ [(r.pc, r.bud)]) []

/-- A set of loose records can be dealt: 32 of them, or all when every thread is, or was when the dealer took its sets up, in the deck, or the
oldest is 256 cycles old. -/
def Team.looseReady (t : Team) (seated : Bool) (now : Nat) (rs : List DeckRec) : Bool :=
  decide (32 ≤ rs.length) || (!seated && decide (t.alive ≤ t.deck.length)) || rs.any (fun r => r.due)
    || rs.any (fun r => decide (256 ≤ (now + 2 ^ 32 - r.stamp) % 2 ^ 32))

/-- The sets that may be dealt, lowest `TID` first. -/
def State.dealable (s : State) (core : Nat) : List Dealt :=
  let c := s.core core
  match c.team with
  | none => []
  | some t =>
    let loose := t.deck.filter DeckRec.loose
    let sets := if s.det core then [] else (looseSets loose).filterMap (fun k =>
      let rs := sortBy (fun r => r.tid) (loose.filter (fun r => (r.pc, r.bud) == k))
      if t.looseReady (!c.groups.isEmpty) (s.now core) rs then some { key := looseKey k.1 k.2, bud := k.2, recs := rs.take 32 } else none)
    let bundled := t.deck.filter (fun r => r.bundle.isSome && r.due)
    let bundles := (dedup (bundled.filterMap (fun r => r.bundle))).map (fun b =>
      let rs := sortBy (fun r => r.tid) (bundled.filter (fun r => r.bundle == some b))
      { key := bundleKey b, bud := (rs.head?.map (fun r => r.bud)).getD 16, recs := rs })
    sortBy Dealt.tid (sets ++ bundles)

/-- Free seats take a group of the dealer, lowest first. -/
def Core.freeSeat (c : Core) : Option Nat := firstFree (mkeys c.seats) 0 Config.numSeats

/-- The budget of a set is granted, or can be beside the pending demand (R42). -/
def Core.dealGranted (c : Core) (d : Dealt) : Bool :=
  match c.demand? d.key with
  | some x => x.granted
  | none => decide (d.bud + c.pendingDemand ≤ c.freeRegs)

/-- The registers of a record in the overflow area come back from memory (R49), as they stand there once the record's store has been performed. The dealer knows the header of
every record that it has written. Where the area cannot be read they are those written (DESIGN CHOICE, row 19 of notes/assumptions); one that an uncorrectable error
keeps from being read is bad (R335). -/
def State.readBack (s : State) (core teamId : Nat) (r : DeckRec) : DeckRec :=
  let va := s.overflowAt core teamId r.tid
  let open_ := (s.core core).ops.any (fun p => p.2.kind == .systemStore && p.2.acc.any (fun a => a.va == va))
  if !r.overflow || open_ then r
  else
    let c := Config.pageBytes
    -- A record of 144 bytes may lie across two pages.
    let n := min (deckBytes r.l) (c - va % c)
    match s.traceAt (s.ownerOf core) va n, s.traceAt (s.ownerOf core) (va + n) (deckBytes r.l - n) with
    | .ok a, .ok b => { r with regs := (List.range r.regs.length).map (fun i => BitVec.ofNat 32 (fieldLe (a ++ b) (16 + 4 * i) 4)) }
    | .ok a, .error e => if n = deckBytes r.l then { r with regs := (List.range r.regs.length).map (fun i => BitVec.ofNat 32 (fieldLe a (16 + 4 * i) 4)) } else { r with bad := r.bad || e == 0x27 }
    | .error e, _ => { r with bad := r.bad || e == 0x27 }

/-- Seats a set of records. A group of which one has an uncorrectable error takes DATA-ERROR (R335). -/
def State.dealSet (s : State) (core seat : Nat) (d : Dealt) : State :=
  let tids := d.recs.map (fun r => r.tid)
  let s := s.modCore core (fun c => (c.dropDemand d.key).modTeam (fun t => { t with deck := t.deck.filter (fun r => r.jwait || !tids.contains r.tid) }))
  let team := ((s.core core).team.map (fun t => t.teamId)).getD 0
  let rs := d.recs.map (s.readBack core team)
  let t := s.seat core seat (.dealt 0 ((d.recs.head?.map (fun r => r.pc)).getD 0) d.bud rs)
  if rs.any (fun r => r.bad) then t.groupFatal core seat 0x27 0 0 else t

/-- The waiting split asks for its registers (R42): once its set is dealable and a seat is free (DESIGN CHOICE, row 19 of notes/assumptions). -/
def State.dealAsk (s : State) (core : Nat) (d : Dealt) : State :=
  let team := ((s.core core).team.map (fun t => t.teamId)).getD 0
  s.modCore core (fun c => c.ask
    { seat := d.key, lgid := 1024 * team + d.tid, since := s.now core, regs := d.bud, orgs := 0, slots := 0, handle := 0, granted := false })

/-- What the dealer of a core does next: seats a set, or asks for its registers. -/
def State.dealNext (s : State) (core : Nat) : Option State :=
  match (s.core core).freeSeat with
  | none => none
  | some seat =>
    match (s.dealable core).find? (fun d => (s.core core).dealGranted d || ((s.core core).demand? d.key).isNone) with
    | none => none
    | some d => some (if (s.core core).dealGranted d then s.dealSet core seat d else s.dealAsk core d)

/-- The sets of a quiescent DET team: every set of matching records is cut into groups at once. -/
def Team.cutAll (t : Team) : Team :=
  let loose := t.deck.filter DeckRec.loose
  let pieces := (looseSets loose).flatMap (fun k => cut32 33 (sortBy (fun r => r.tid) (loose.filter (fun r => (r.pc, r.bud) == k))))
  let head (r : DeckRec) : Option Nat :=
    (pieces.find? (fun p => p.any (fun x => x.tid == r.tid))).bind (fun p => p.head?.map (fun x => x.tid))
  { t with deck := t.deck.map (fun r => if r.loose then { r with bundle := head r } else { r with due := true }) }

/-- A DET team has records that wait for its quiescence, and is quiescent. -/
def State.cutDue (s : State) (core : Nat) : Bool :=
  s.det core && ((s.core core).team.map (fun t => t.deck.any (fun r => r.loose || (r.bundle.isSome && !r.due)))).getD false && s.quiescent core

/-- The dealer of a core has something to do. -/
def State.dealDue (s : State) (core : Nat) : Bool :=
  let c := s.core core
  match c.team with
  | none => false
  | some t => !t.deck.isEmpty && c.halt.isNone && c.faults.isEmpty && (s.cutDue core || (s.dealNext core).isSome)

/-- With every thread in the deck the dealer takes up every set of it at once (R50): dealing one does not hold back the next. -/
def State.takeUp (s : State) (core : Nat) : State :=
  let c := s.core core
  s.modTeam core (fun t =>
    if c.groups.isEmpty && decide (t.alive ≤ t.deck.length) then { t with deck := t.deck.map (fun r => if r.loose then { r with due := true } else r) }
    else t)

/-- `DEAL` (R50). -/
def execDeal (core : Nat) (s : State) : Host.Outcome State Fault Refusal :=
  .next (if !s.dealDue core then s
    else if s.cutDue core then s.modTeam core Team.cutAll
    else if s.det core then (s.dealNext core).getD s
    else ((s.takeUp core).dealNext core).getD s)

end Sys2Proof.Machine
end

