-- ==== Sys2Proof/Machine/Serve.lean ====
section
/-! DEFINITION. The structures that serve requests in owned turns (R18, R79, R247 to R252): injection, L2 slices, HBM controllers, L2 TLBs, walkers,
the merge table, the drains by age, and the answers that reach a core. -/

namespace Sys2Proof.Machine

/-! ### The L2 as a set of present lines (R74, R355) -/

/-- The line is present in the owner's ways (R6, R355). -/
def State.l2Has (s : State) (k : Nat) (host : Bool) (line : Nat) : Bool := s.l2.any (fun x => x.owner == k && x.host == host && x.line == line)

/-- Advances the recency count of an owner. -/
def State.tickUse (s : State) (k : Nat) : State := s.modOwner k (fun o => { o with useClock := o.useClock + 1 })

def State.l2Use (s : State) (k : Nat) (host : Bool) (line : Nat) : State :=
  let u := (s.owner k).useClock
  { s with l2 := s.l2.map (fun (x : L2Line) => if x.owner == k && x.host == host && x.line == line then { x with used := u } else x) }.tickUse k

/-- The set of a line in its slice. -/
def l2Set (line : Nat) : Nat := line / 2 ^ 12 % 512

/-- A line of an L2 slice is written. -/
def State.l2Dirty (s : State) (k : Nat) (host : Bool) (line : Nat) : State :=
  { s with l2 := s.l2.map (fun (x : L2Line) => if x.owner == k && x.host == host && x.line == line then { x with dirty := true } else x) }

/-- A context error of a line that no group waits for (R335). -/
def State.asyncError (s : State) (k line : Nat) : State :=
  s.contextError k (causeWord 0x42 0 0) 0 0 none none 0 0 (BitVec.ofNat 64 line) 0 0 (s.owner k).oclk

/-- A fill into one of the owner's ways: a free one, or the least recently used. A line that has been written goes back to its stack, where an uncorrectable error
leaves a context error (R335). -/
def State.l2Fill (s : State) (k : Nat) (host : Bool) (line : Nat) : State :=
  let tgt := if host then 1 else 0
  if s.l2Has k host line then s.l2Use k host line
  else
    let o := s.owner k
    let inSet (x : L2Line) : Bool :=
      x.owner == k && lineSlice (if x.host then 1 else 0) x.line == lineSlice tgt line && l2Set x.line == l2Set line
    let mine := s.l2.filter inSet
    let entry : L2Line := { host := host, line := line, owner := k, used := o.useClock, die := (lineSlice tgt line).1 }
    if o.record.ways = 0 then s
    else
      let keep := if mine.length < o.record.ways then s.l2
        else
          let m := minUsed (mine.map (fun x => x.used))
          s.l2.filter (fun x => !(inSet x && x.used == m))
      let lost := s.l2.filter (fun x => !keep.contains x)
      let s := lost.foldl (fun s x => if x.dirty && !x.host && s.errors.contains x.line then s.asyncError k x.line else s) s
      { s with l2 := keep ++ [entry] }.tickUse k

/-! ### What waits at shared structures -/

/-- Numbers of what an HBM access serves: a line of an operation, a walk, an inbound request (the last two bits say which). -/
def lineReqId (core op line : Nat) : Nat := (op * 2 ^ 32 + core * 2 ^ 12 + line) * 4
def walkReqId (w : Nat) : Nat := w * 4 + 1
def inReqId (n : Nat) : Nat := n * 4 + 2

/-- The core, operation and line that a request number names. -/
def lineParts (req : Nat) : Nat × Nat × Nat := (req / 2 ^ 14 % 2 ^ 20, req / 2 ^ 34, req / 4 % 2 ^ 12)

/-- Cores of an owner, ascending. -/
def State.coresOf (s : State) (k : Nat) : List Nat := (s.cores.filter (fun p => p.2.owner == some k)).map Prod.fst

/-- Every line request of an owner's cores, with its core, operation and index. -/
def State.allLines (s : State) (k : Nat) : List (Nat × Nat × MemOp × Nat × LineReq) :=
  (s.coresOf k).flatMap (fun c => (s.core c).ops.flatMap (fun p =>
    ((List.range p.2.lines.length).zip p.2.lines).map (fun q => (c, p.1, p.2, q.1, q.2))))

/-- Changes a line request of an operation. -/
def State.modLine (s : State) (core op idx : Nat) (f : LineReq → LineReq) : State :=
  s.modOp core op (fun o => { o with lines := ((List.range o.lines.length).zip o.lines).map (fun p => if p.1 = idx then f p.2 else p.2) })

def State.lineTo (s : State) (core op idx : Nat) (st : LineState) : State := s.modLine core op idx (fun r => { r with st := st })

def State.modInbound (s : State) (n : Nat) (f : Inbound → Inbound) : State :=
  { s with fab := { s.fab with inbound := mmod s.fab.inbound n f } }

/-- The element with the smallest key, the first of equals. -/
def leastBy {α : Type} (key : α → Nat) (xs : List α) : Option α := (sortBy key xs).head?

/-! ### Fabric planes (R306, R308, R309) -/

/-- The live plane that carries the traffic of plane `p`. -/
def Fabric.plane? (f : Fabric) (p : Nat) : Option Nat := ((List.range 8).map (fun i => (p + i) % 8)).find? (fun q => !f.dead.contains q)

/-- Flits that an owner may still send on a plane in this cycle: one for each of the port's 7 channels, within its replay partition, and none on a plane
that is being quiesced (R306, R308, R309). -/
def State.flitRoom (s : State) (k p : Nat) : Nat :=
  if s.fab.quiesce == some p then 0
  else min (7 - sget 0 s.fab.sent p) (((s.owner k).record.replay[p]?).getD 0 - sget 0 s.fab.unacked (8 * p + k))

/-- A request may begin to leave its core on a plane: there is room for a flit, and no message of the owner waits at the port. -/
def State.planeFree (s : State) (k p : Nat) : Bool :=
  decide (0 < s.flitRoom k p) && !s.fab.ports.any (fun m => m.owner == k && s.fab.plane? m.plane == some p)

def State.takeFlits (s : State) (k p n : Nat) : State :=
  { s with fab := { s.fab with
      unacked := sset 0 s.fab.unacked (8 * p + k) (sget 0 s.fab.unacked (8 * p + k) + n), sent := sset 0 s.fab.sent p (sget 0 s.fab.sent p + n) } }

/-- The head of the message that leaves a port next. -/
def State.nextHead (s : State) (p : Nat) : FlitHead × State :=
  let n := sget 0 s.fab.nextSeq p
  ({ device := s.mgmt.device.toNat, plane := p, gen := s.fab.gen.toNat, seq := n + 1 }, { s with fab := { s.fab with nextSeq := sset 0 s.fab.nextSeq p (n + 1) } })

/-- The number of a request that has left the device: its owner beside its line's number. -/
def outReqId (k core op line : Nat) : Nat := lineReqId core op line * 4 + k

/-- The owner, core, operation and line of a request that has left the device. -/
def reqParts (req : Nat) : Nat × Nat × Nat × Nat := (req % 16, lineParts (req / 4))

def OutMsg.withHead (m : OutMsg) (h : FlitHead) : OutMsg :=
  match m with
  | .request d r => .request d { r with head := h }
  | .answer d id _ a data => .answer d id h a data
  | .keepWaiting d id _ => .keepWaiting d id h
  | .contribution d c => .contribution d { c with head := h }
  | .notice d n => .notice d { n with head := h }
  | .stamp d x => .stamp d { x with head := h }
  | m => m

/-- The event as which a message to the device itself comes back (R310). -/
def OutMsg.loop (m : OutMsg) (device : Nat) : Option Instr :=
  match m with
  | .request d r => if d = device then some (.remoteRequestArrival r) else none
  | .answer d id h a data =>
    let (k, c, o, i) := reqParts id
    if d = device then some (.responseArrival { owner := k, core := c, op := o, line := i, answer := a, data := data, head := some h }) else none
  | .keepWaiting d id h => if d = device then some (.keepWaitingNotice ⟨id, h⟩) else none
  | _ => none

/-- A message leaves port `p`: to a peer, or looped back to the device itself (R310). -/
def State.depart (s : State) (p : Nat) (m : OutMsg) : State :=
  let (h, s) := s.nextHead p
  let m := m.withHead h
  match m.loop s.mgmt.device.toNat with
  | some i => { s with inbox := s.inbox ++ [(s.cycle + 1, i)] }
  | none => { s with outbox := s.outbox ++ [m] }

/-- A message of `n` flits leaves through port `p` as far as there is room; what does not waits at the port, with the plane before the remap (R306, R308). -/
def State.leave (s : State) (k p plane n : Nat) (m : OutMsg) : State :=
  let s := s.serves k (unitWord 8 8 p)
  let room := s.flitRoom k p
  if n ≤ room then (s.takeFlits k p n).depart p m
  else { s.takeFlits k p room with fab := { (s.takeFlits k p room).fab with ports := { owner := k, plane := plane, flits := n - room, msg := m } :: s.fab.ports } }

/-- Bytes that a request for a line carries beyond the package. -/
def MemOp.outBytes (o : MemOp) (r : LineReq) : Nat :=
  let mine := o.acc.filter (o.inLine r)
  match o.kind with
  | .remoteDrain mask _ => mask.length
  | .drain mask _ _ => mask.length
  | .copyWrite _ => (mine.map (fun a => a.data.length)).foldl (· + ·) 0
  | .atomic _ => (mine.map (fun a => a.data.length + a.cmp.length)).foldl (· + ·) 0
  | _ => 0

/-- The bytes that a request writes to a line, with none for a byte that it leaves. -/
def lineMask (bs : List (Nat × Byte)) : List (Option Byte) := (List.range 128).map (fun i => (bs.find? (fun p => p.1 == i)).map Prod.snd)

/-- A word of an access, as a request carries it. -/
def wideOf (bs : List Byte) : DWord := BitVec.ofNat 64 (leNat bs)

/-- What a request for a line asks of the target, from which address on (R310, R311, R320). -/
def MemOp.peerKind (o : MemOp) (r : LineReq) : Nat × PeerKind :=
  let mine := (o.acc.filter (o.inLine r)).filterMap (fun a => (o.where_ a).map (fun w => (a, w.2)))
  let xs := mine.map (fun p => (p.2 - r.addr, wideOf p.1.data, wideOf p.1.cmp))
  let size := ((mine.head?).map (fun p => p.1.bytes)).getD 0
  let at_ := ((mine.head?).map (fun p => p.2)).getD r.addr
  match o.kind with
  | .remoteDrain mask _ => (r.addr, .store (lineMask (mask.map (fun b => (b.off, b.val)))))
  | .copyWrite _ => (r.addr, .store (lineMask (mine.flatMap (fun p => ((List.range p.1.data.length).zip p.1.data).map (fun q => (p.2 - r.addr + q.1, q.2))))))
  | .atomic op => (r.addr, .atomic op size xs o.returning)
  | .atf .. => (r.addr, .atomic .read size xs true)
  | .tqsteal => (at_, .steal (BitVec.ofNat 32 o.lgid) (((mine.head?).map (fun p => p.1.cmp)).bind (fun bs => if bs.isEmpty then none else some (wideOf bs))))
  | .tqdone => (at_, .done (BitVec.ofNat 32 o.lgid))
  | _ => (r.addr, .load 128)

/-! ### Injection (R18, R79, R80, R247, R308) -/

/-- An operation's place in the order of injection: a drain that an operation starts goes just before it. -/
def MemOp.turnOf (o : MemOp) (id : Nat) : Nat := match o.ahead with | some a => 2 * a | none => 2 * id + 1

def MemOp.isDrain (o : MemOp) : Bool :=
  match o.kind with
  | .drain .. => true
  | .remoteDrain .. => true
  | _ => false

/-- An access to a line waits for the injection of the drains of the line before it (R76, R261), and one to a remote line for that of every earlier access to it
(R307). -/
def Core.drainHeld (c : Core) (id : Nat) (o : MemOp) (r : LineReq) : Bool :=
  ((o.kind.lsPath || r.leaf.tgt == 2) && c.ops.any (fun p => (p.2.isDrain || r.leaf.tgt == 2)
    && (decide (p.2.turnOf p.1 < o.turnOf id) || (p.2.turnOf p.1 == o.turnOf id && decide (p.1 < id)))
    && p.2.lines.any (fun l => l.addr == r.addr && l.leaf.tgt == r.leaf.tgt && l.leaf.dev == r.leaf.dev
      && (match l.st with | .queued _ => true | _ => false))))

/-- A line request may leave its core in this cycle. -/
def State.mayInject (s : State) (k : Nat) (r : LineReq) (now : Nat) : Bool :=
  match r.st with
  | .queued f => decide (f ≤ now) && (r.leaf.tgt != 2 || s.fab.lost.contains r.leaf.dev || (match s.fab.plane? (r.va / 128 % 8) with
      | some p => s.planeFree k p
      | none => true))
  | _ => false

/-- What a core injects next: the request that has been ready longest, then by the order of R18; the copy unit offers that of the next queue in its search. A
request that holds a miss slot waits for a free one (R79, R211). -/
def State.nextInject (s : State) (k core now : Nat) : Option (Nat × MemOp × Nat × LineReq) :=
  let c := s.core core
  let full := decide (Config.missSlots ≤ c.missUsed)
  let reqs := c.ops.flatMap (fun p => ((List.range p.2.lines.length).zip p.2.lines).filterMap (fun q =>
    let held := q.2.leaf.tgt == 2 && (match p.2.kind with | .copyWrite x => c.copyHeld x p.1 | _ => false)
    if s.mayInject k q.2 now && !held && !(full && p.2.kind.missSlot) && !c.drainHeld p.1 p.2 q.2 then some (p.1, p.2, q.1, q.2) else none))
  let from_ (x : Nat × MemOp × Nat × LineReq) : Nat := match x.2.2.2.st with | .queued f => f | _ => 0
  let plain := leastBy (fun x => (from_ x * 4 + x.2.1.quad) * 2 ^ 48 + x.2.1.turnOf x.1 * 2 ^ 12 + x.2.2.1) (reqs.filter (fun x => !x.2.1.kind.isCopy))
  let copies := reqs.filter (fun x => x.2.1.kind.isCopy)
  let copy := leastBy (fun x => ((x.2.1.quad + 3 - c.copyLast) % 4) * 2 ^ 60 + x.1 * 2 ^ 12 + x.2.2.1) copies
  match plain, copy with
  | some x, some y => if from_ x ≤ from_ y then some x else some y
  | some x, none => some x
  | none, y => y

/-- Injection into the mesh in an owned cycle (R247): the request reaches its slice 8 cycles later, or the port of its plane beyond the package. -/
def State.inject (s : State) (k core : Nat) : State :=
  let now := s.now core
  match if s.owned k then s.nextInject k core now else none with
  | none => s
  | some (op, o, idx, r) =>
    let s := s.modCore core (fun c => { c with injected := some now, copyLast := if o.kind.isCopy then o.quad else c.copyLast })
    if r.leaf.tgt = 2 then
      match if s.fab.lost.contains r.leaf.dev then none else s.fab.plane? (r.va / 128 % 8) with
      | some p =>
        let (va, kind) := o.peerKind r
        (s.lineTo core op idx (.outside s.fabricTime p)).leave k p (r.va / 128 % 8) (flitsOf (o.outBytes r)) (.request r.leaf.dev
          { head := blankHead, id := outReqId k core op idx, ctx := (s.owner k).record.ctx, rmf := r.leaf.rmf, va := va, kind := kind })
      | none => s.lineTo core op idx (.outside s.fabricTime 16)
    else s.lineTo core op idx (.atSlice (now + 8))

/-- The cores of an owner inject in the order in which their requests have been ready, and then by their numbers (R18). -/
def State.injectAll (s : State) (k : Nat) : State :=
  let ready (c : Nat) : Nat := match s.nextInject k c (s.now c) with
    | some (_, _, _, r) => (match r.st with | .queued f => f | _ => 0)
    | none => 0
  (sortBy ready (s.owner k).held).foldl (fun s c => s.inject k c) s

/-! ### Service at a slice (R247 to R249, R261) -/

/-- An operation reads a line whose data has an uncorrectable error: the failure reaches its group, or stops its copy (R335). -/
def OpKind.meetsError : OpKind → Bool
  | .store => false
  | .tst .. => false
  | .drain .. => false
  | .remoteDrain .. => false
  | .copyWrite _ => false
  | .systemStore => false
  | .pref _ => false
  | _ => true

/-- An operation that writes the lines that it reaches. -/
def OpKind.writesLine : OpKind → Bool
  | .drain .. => true
  | .copyWrite _ => true
  | .atomic _ => true
  | .tqpop => true
  | .tqdone => true
  | _ => false

/-- DATA-ERROR of a line of an operation, with the line's generic address; of a fetch, with subcause 1. -/
def State.dataError (s : State) (core op idx : Nat) (r : LineReq) : State :=
  s.modOp core op (fun o => { o with
    failed := some (0x27 + (if o.kind.isFetch then 256 else 0), o.lineGa r), lines := setAt o.lines idx { r with performed := true } })

/-- Performs a line of an operation at its place. -/
def State.performAny (s : State) (core op idx now : Nat) : State :=
  match s.op? core op, (s.op? core op).bind (fun o => o.lines[idx]?) with
  | some o, some r =>
    if r.leaf.tgt == 0 && s.errors.contains r.addr && o.kind.meetsError then s.dataError core op idx r
    else
      let s := if o.kind.writesLine then s.l2Dirty (s.ownerOf core) (r.leaf.tgt == 1) r.addr else s
      match o.kind with
      | .copyWrite _ => s.performCopy core op idx
      | .copyRead _ => s.performRead core op idx
      | _ => s.performLine core op idx now
  | _, _ => s

/-- The place of a byte offset from a descriptor in the tables as they stand, for a queue step that a peer asks for. -/
def State.inEntry (s : State) (x : Inbound) (off : Nat) : Option Nat :=
  let va := x.req.va + off
  match s.peek x.owner va with
  | .leaf l => if l.tgt = 0 ∧ l.w ∧ (s.owner x.owner).leafColourOk l va then some (l.addr va) else none
  | _ => none

/-- Bytes of a store of a peer, from its address on. -/
def maskBytes : Nat → List (Option Byte) → List (Nat × Byte)
  | _, [] => []
  | i, some b :: xs => (i, b) :: maskBytes (i + 1) xs
  | i, none :: xs => maskBytes (i + 1) xs

/-- An error-log entry of the target's owner for a remote miss under RMF = FATAL (R312). -/
def State.targetMiss (s : State) (k : Nat) (r : PeerReq) : State :=
  s.contextError k (causeWord 0x40 0 0) 0 0 none (some r.head.device) 0xFFFFFFFF 0 (BitVec.ofNat 64 r.va) 0 0 (s.owner k).oclk

/-- Performs an inbound request at the target (R310, R311, R320): untracked. -/
def State.performInbound (s : State) (n : Nat) : State :=
  match mget s.fab.inbound n with
  | none => s
  | some x =>
    match x.pa with
    | none => s
    | some pa =>
      let s := if s.errors.contains (pa / 128 * 128) then s.asyncError x.owner (pa / 128 * 128) else s
      let writes := match x.req.kind with | .load _ => false | _ => true
      let s := if writes then s.l2Dirty x.owner false (pa / 128 * 128) else s
      let done (s : State) (data : List Byte) : State := s.modInbound n (fun y => { y with answer := some (.ok, data) })
      if x.answer.isSome then s
      else
        match x.req.kind with
        | .load b => done s (s.mem.readN pa b)
        | .store bs => done { s with mem := (maskBytes 0 bs).foldl (fun m p => m.write (pa + p.1) p.2) s.mem } []
        | .atomic op b xs ret =>
          let (m, old) := xs.foldl (fun (acc : Memory × List Byte) x =>
            let old := acc.1.readN (pa + x.1) b
            (acc.1.writeN (pa + x.1) (leBytes b (atomNew op b (leNat old) (x.2.1.toNat % 2 ^ (8 * b)) (x.2.2.toNat % 2 ^ (8 * b)))), acc.2 ++ old)) (s.mem, [])
          done { s with mem := m } (if ret then old else [])
        | .steal lg e =>
          let d := QDesc.of (s.mem.readN pa 24)
          let takes := e.isSome || (decide (d.fb ≤ 7) && (s.owner x.owner).straggler d.fb s.mgmt.device.toNat)
          let step (s : State) : State :=
            let (d, s) := s.stealStep x.owner pa (s.inEntry x) x.req.head.device lg.toNat e
            done s (leBytes 8 d.toNat)
          match if takes then d.stealEntry else none with
          | none => step s
          | some j =>
            let va := x.req.va + d.entryOff j
            match s.peek x.owner va with
            | .absent =>
              if x.req.rmf then (s.modInbound n (fun y => { y with answer := some (.remoteFatal, []) })).targetMiss x.owner x.req
              else s.modInbound n (fun y => { y with parked := some (s.fabricTime, va), noticed := y.noticed.or (some s.fabricTime), pa := none, st := .queued 0 })
            | _ => if (s.inEntry x (d.entryOff j)).isSome then step s else s.modInbound n (fun y => { y with answer := some (.refused, []) })
        | .done lg =>
          let (d, e) := doneEntry (s.mem.readN pa 32) x.req.head.device lg.toNat
          done { s with mem := s.mem.writeN pa e } (leBytes 4 d.toNat)

/-- Threads whose access an access of an operation in a lane is: those of the lane, or of the lanes that a scalar form serves; all threads of the group for what no lane makes. -/
def MemOp.threadsOf (o : MemOp) (lane : Nat) : List Nat :=
  match o.kind with
  | .tld .. => o.tids
  | .tst .. => o.tids
  | .packet => o.tids
  | .tqpop => o.tids
  | .tqsteal => o.tids
  | .tqdone => o.tids
  | _ => ((o.lanes.zip o.tids).filter (fun p => p.1 == lane || o.bcast.contains p.1)).map Prod.snd

/-- The threads that access a line by an operation on path LS, each with the offsets of its bytes (R261). -/
def Core.touches (c : Core) (o : MemOp) (r : LineReq) : List (Nat × Nat) :=
  match o.kind with
  | .copyRead _ => []
  | .copyWrite _ => []
  | .drain mask _ _ => mask.flatMap (fun b => match mget c.ops b.op with
      | some x => (x.threadsOf b.lane).map (fun t => (t, b.off))
      | none => [])
  | _ => (o.acc.filter (o.inLine r)).flatMap (fun a => (o.threadsOf a.lane).flatMap (fun t =>
      (List.range a.bytes).map (fun i => (t, ((o.where_ a).map (fun p => p.2)).getD 0 % 128 + i))))

/-- The slice has sent the request on to its stack. -/
def LineState.fetching : LineState → Bool
  | .atHbm _ => true
  | .filling _ => true
  | _ => false

/-- Requests of an owner's cores for a line that a slice has sent on to its stack and that have not been performed. -/
def State.fetchingLines (s : State) (k : Nat) (host : Bool) (line : Nat) : List (Nat × Nat × MemOp × Nat × LineReq) :=
  (s.allLines k).filter (fun x =>
    !x.2.2.2.2.performed && x.2.2.2.2.st.fetching && x.2.2.2.2.addr == line && x.2.2.2.2.leaf.tgt == (if host then 1 else 0))

/-- Inbound requests for a line of which the same is true, in the order in which they reached the slice. -/
def State.fetchingInbound (s : State) (k line : Nat) : List (Nat × Inbound) :=
  sortBy (fun p => p.2.injected.getD 0) (s.fab.inbound.filter (fun p =>
    p.2.owner == k && p.2.st.fetching && p.2.answer.isNone && (p.2.pa.map (fun a => a / 128 * 128)) == some line))

/-- What is performed before the access of a core that a slice serves now: earlier accesses of one of its threads to one of its bytes (R261), and every request of a
peer that has reached the slice (R18, R307). Any other is performed as its line arrives (R249). -/
def State.performWaiting (s : State) (k : Nat) (host : Bool) (core now : Nat) (o : MemOp) (r : LineReq) : State :=
  let mine := (s.core core).touches o r
  let s := (s.fetchingLines k host r.addr).foldl (fun s x =>
    if x.1 == core && ((s.core x.1).touches x.2.2.1 x.2.2.2.2).any (fun y => mine.contains y) then s.performAny x.1 x.2.1 x.2.2.2.1 now else s) s
  if host then s else (s.fetchingInbound k r.addr).foldl (fun s p => s.performInbound p.1) s

/-- A store that misses fetches its line behind it (R249). -/
def State.fetchBehind (s : State) (core now : Nat) (o : MemOp) (r : LineReq) : State :=
  s.modCore core (fun c => c.addOp { o with
    kind := .pref false, acc := [], scr := [], pages := [], entered := true, dst := none, acq := none, conflict := none,
    lines := [{ r with st := .atHbm (now + 4), performed := true, fill := false }] })

/-- The request is a store. -/
def OpKind.isWrite : OpKind → Bool
  | .drain .. => true
  | .copyWrite _ => true
  | _ => false

/-- A slice serves a line of an operation at t (R247 to R249). -/
def State.serveLine (s : State) (k core op idx : Nat) : State :=
  let now := s.now core
  match s.op? core op with
  | none => s
  | some o =>
    match o.lines[idx]? with
    | none => s
    | some r =>
      let host := r.leaf.tgt == 1
      if s.l2Has k host r.addr then
        (((s.l2Use k host r.addr).performWaiting k host core now o r).performAny core op idx now).lineTo core op idx (.back (now + 8))
      else if host then s.lineTo core op idx (.atPort now)
      else if o.kind.isWrite then
        (((s.performWaiting k host core now o r).performAny core op idx now).lineTo core op idx (.back (now + 8))).fetchBehind core now o r
      else s.lineTo core op idx (.atHbm (now + 4))

/-- A slice serves an inbound request. One for a line that others still fetch is performed behind them, as its own fetch of the line ends (R18, R307; row 17 of
notes/assumptions). -/
def State.serveInbound (s : State) (k n : Nat) : State :=
  let now := (s.owner k).oclk
  match mget s.fab.inbound n with
  | none => s
  | some x =>
    match x.pa with
    | none => s
    | some pa =>
      let line := pa / 128 * 128
      if !(s.fetchingLines k false line).isEmpty || !(s.fetchingInbound k line).isEmpty then s.modInbound n (fun y => { y with st := .atHbm (now + 4) })
      else if s.l2Has k false line then ((s.l2Use k false line).performInbound n).modInbound n (fun y => { y with st := .back now })
      else
        match x.req.kind with
        | .store _ =>
          let s := (s.performInbound n).modInbound n (fun y => { y with st := .back now })
          { s with fab := { s.fab with
              inbound := mset s.fab.inbound s.fab.nextIn { x with silent := true, answer := some (.ok, []), st := .atHbm (now + 4) }, nextIn := s.fab.nextIn + 1 } }
        | _ => s.modInbound n (fun y => { y with st := .atHbm (now + 4) })

/-- What waits at a slice for an owner, with the key of R18: arrival, then plane ports, then cores. A copy's write waits for those before it (R83). -/
def State.sliceQueue (s : State) (k die slice : Nat) : List (Nat × Sum Nat (Nat × Nat × Nat)) :=
  let now := (s.owner k).oclk
  let ins := s.fab.inbound.filterMap (fun p =>
    match p.2.st, p.2.pa with
    | .atSlice arr, some pa =>
      if p.2.owner == k && decide (arr ≤ now) && lineSlice 0 pa == (die, slice) then some (arr * 2 ^ 16 + p.2.req.head.plane, Sum.inl p.1) else none
    | _, _ => none)
  let lines := (s.allLines k).filterMap (fun x =>
    match x.2.2.2.2.st with
    | .atSlice arr =>
      let held := match x.2.2.1.kind with | .copyWrite q => (s.core x.1).copyHeld q x.2.1 | _ => false
      if decide (arr ≤ now) && !held && lineSlice x.2.2.2.2.leaf.tgt x.2.2.2.2.addr == (die, slice) then
        some (arr * 2 ^ 16 + 2 ^ 12 + x.1, Sum.inr (x.1, x.2.1, x.2.2.2.1)) else none
    | _ => none)
  ins ++ lines

/-- `L2_SLICE_SERVICE` (R18, R19, R247): in an owned cycle a slice serves the request that arrived first. -/
def execL2SliceService (die slice owner : Nat) (s : State) : Host.Outcome State Fault Refusal :=
  .next (if !s.owned owner then s
    else
      match leastBy (fun x => x.1) (s.sliceQueue owner die slice) with
      | none => s
      | some (_, .inl n) => (s.serves owner (unitWord die 4 slice)).serveInbound owner n
      | some (_, .inr (c, o, i)) => (s.serves owner (unitWord die 4 slice)).serveLine owner c o i)

/-! ### HBM (R248) -/

/-- What waits at the controller of a stack for an owner: key, request number, line address. -/
def State.hbmQueue (s : State) (k stack : Nat) : List (Nat × Nat × Nat) :=
  let now := (s.owner k).oclk
  let rank (a : Nat) : Nat := (lineSlice 0 a).1 * 32 + (lineSlice 0 a).2
  let lines := (s.allLines k).filterMap (fun x =>
    match x.2.2.2.2.st with
    | .atHbm arr => if decide (arr ≤ now) && paStack x.2.2.2.2.addr == stack then
        some (arr * 2 ^ 16 + rank x.2.2.2.2.addr, lineReqId x.1 x.2.1 x.2.2.2.1, x.2.2.2.2.addr) else none
    | _ => none)
  let ins := s.fab.inbound.filterMap (fun p =>
    match p.2.st, p.2.pa with
    | .atHbm arr, some pa => if p.2.owner == k && decide (arr ≤ now) && paStack pa == stack then
        some (arr * 2 ^ 16 + rank pa, inReqId p.1, pa / 128 * 128) else none
    | _, _ => none)
  let walks := ((List.range s.walks.length).zip s.walks).filterMap (fun p =>
    match p.2.arr with
    | some arr =>
      let a := (p.2.table + 8 * levelIndex (p.2.vpn * Config.pageBytes) p.2.level) / 128 * 128
      if p.2.owner == k && decide (arr ≤ now) && paStack a == stack then
        some (arr * 2 ^ 16 + 2 ^ 12 + p.2.die * 8 + p.2.walker, walkReqId p.1, a) else none
    | none => none)
  sortBy (fun x => x.1) (lines ++ ins ++ walks)

/-- An access of the owner can begin now: 20 a cycle, one a channel, one a bank in 64 cycles. -/
def State.hbmFree (s : State) (k a : Nat) : Bool :=
  let now := (s.owner k).oclk
  let mine := s.hbm.filter (fun x => x.owner == k && x.stack == paStack a)
  let begun := mine.filter (fun x => x.start == now)
  decide (begun.length < 20) && !begun.any (fun x => x.chan == paChannel a)
    && !mine.any (fun x => x.chan == paChannel a && x.colour == paColour a && decide (now < x.start + 64))

/-- `HBM_ACCESS_BEGIN` (R248): the access begins at u, and its line is at the slice at u + 68. -/
def execHbmAccessBegin (stack owner req : Nat) (s : State) : Host.Outcome State Fault Refusal :=
  .next (match (s.hbmQueue owner stack).find? (fun x => x.2.1 == req) with
    | none => s
    | some (_, _, a) =>
      if !(s.owned owner && s.hbmFree owner a) then s
      else
        let now := (s.owner owner).oclk
        let s : State := { s with hbm := s.hbm ++ [{ stack := stack, chan := paChannel a, colour := paColour a, owner := owner, start := now }] }
        if req % 4 = 2 then s.modInbound (req / 4) (fun y => { y with st := .filling (now + 68) })
        else if req % 4 = 1 then
          { s with walks := ((List.range s.walks.length).zip s.walks).map (fun p =>
              if p.1 = req / 4 then { p.2 with arr := none, ends := some (now + 91) } else p.2) }
        else s.lineTo (lineParts req).1 (lineParts req).2.1 (lineParts req).2.2 (.filling (now + 68)))

/-- `HBM_LINE_FILL` (R248, R249): the line fills its slice; what waited for it is performed, and answered 8 cycles later. -/
def execHbmLineFill (req : Nat) (s : State) : Host.Outcome State Fault Refusal :=
  .next (if req % 4 = 2 then
      let n := req / 4
      match mget s.fab.inbound n with
      | some x =>
        (match x.st, x.pa with
        | .filling _, some pa => 
          let s := s.l2Fill x.owner false (pa / 128 * 128)
          let s := if x.silent then s.l2Dirty x.owner false (pa / 128 * 128) else s
          (s.performInbound n).modInbound n (fun y => { y with st := .back (s.owner x.owner).oclk })
        | _, _ => s)
      | none => s
    else if req % 4 = 1 then
      match s.walks[req / 4]? with
      | some w => s.l2Fill w.owner false ((w.table + 8 * levelIndex (w.vpn * Config.pageBytes) w.level) / 128 * 128)
      | none => s
    else
      let core := (lineParts req).1
      let op := (lineParts req).2.1
      let idx := (lineParts req).2.2
      match (s.op? core op).bind (fun o => o.lines[idx]?) with
      | some r =>
        (match r.st with
        | .filling _ =>
          let now := s.now core
          -- The line that a store has missed comes behind its bytes (R249).
          let s := s.l2Fill (s.ownerOf core) false r.addr
          let behind := ((s.op? core op).map (fun o => o.kind == .pref false && r.performed && !r.fill)).getD false
          let s := if behind then s.l2Dirty (s.ownerOf core) false r.addr else s
          (s.performAny core op idx now).lineTo core op idx (.back (now + 8))
        | _ => s)
      | none => s)

/-! ### Translation (R86, R87, R250) -/

/-- Changes a page of an operation. -/
def State.modPage (s : State) (core op vpn : Nat) (f : Page → Page) : State :=
  s.modOp core op (fun o => { o with pages := o.pages.map (fun p => if p.vpn = vpn then f p else p) })

def State.pageTo (s : State) (core op vpn : Nat) (st : PageState) : State := s.modPage core op vpn (fun p =>
  { p with st := st })

/-- Every page of an owner's cores of a die with its core, operation and place in the operation. -/
def State.allPages (s : State) (k die : Nat) : List (Nat × Nat × MemOp × Nat × Page) :=
  ((s.coresOf k).filter (fun c => dieOf c == die)).flatMap (fun c => (s.core c).ops.flatMap (fun p =>
    ((List.range p.2.pages.length).zip p.2.pages).map (fun q => (c, p.1, p.2, q.1, q.2))))

/-- The rank of a page's request (R18): core, quadrant or copy unit, operation, place. -/
def pageKey (arr core : Nat) (o : MemOp) (op idx : Nat) : Nat :=
  ((arr * 2 ^ 12 + core) * 8 + (if o.kind.isCopy then 4 else o.quad)) * 2 ^ 44 + op * 2 ^ 12 + idx

/-- `L2_TLB_LOOKUP` (R86, R250): one lookup of the owner; a hit answers at v + 4, a miss starts a walk. -/
def execL2TlbLookup (die owner : Nat) (s : State) : Host.Outcome State Fault Refusal :=
  .next (
    let now := (s.owner owner).oclk
    let qs := (s.allPages owner die).filterMap (fun x => match x.2.2.2.2.st with
      | .atTlb arr => if arr ≤ now then some (pageKey arr x.1 x.2.2.1 x.2.1 x.2.2.2.1, x.1, x.2.1, x.2.2.2.2.vpn) else none
      | _ => none)
    match if s.owned owner then leastBy (fun x => x.1) qs else none with
    | none => s
    | some (_, core, op, vpn) =>
      let o := s.owner owner
      match tlbFind (o.die die).tlb vpn with
      | some l =>
        if tlbBad (o.die die).tlb vpn then s.pageTo core op vpn (.failed (now + 4) 0x27)
        else (((s.modOwner owner (fun o => o.modDie die (fun d => { d with tlb := tlbUse d.tlb vpn o.useClock }))).tickUse owner).pageTo
          core op vpn (.answer (now + 4) l))
      | none =>
        let w : Walk := { owner := owner, die := die, walker := vpn % 8, core := core, op := op, vpn := vpn, level := 1, table := o.record.l1table,
                          from_ := now + 1, arr := none, ends := none }
        { s with walks := s.walks ++ [w] }.pageTo core op vpn .walking)

/-- The address of the entry that a walk reads next. -/
def Walk.entry (w : Walk) : Nat := w.table + 8 * levelIndex (w.vpn * Config.pageBytes) w.level

def State.dropWalk (s : State) (i : Nat) : State := { s with walks := s.walks.take i ++ s.walks.drop (i + 1) }

/-- A walk may begin its next step now: one of an owner on a walker in a cycle, in the order of arrival. -/
def State.stepReady (s : State) (k : Nat) : List Nat :=
  let now := (s.owner k).oclk
  let idle := ((List.range s.walks.length).zip s.walks).filter (fun p =>
    p.2.owner == k && p.2.arr.isNone && p.2.ends.isNone && decide (p.2.from_ ≤ now))
  let key (p : Nat × Walk) : Nat := p.2.from_ * 2 ^ 16 + p.1
  (idle.filter (fun p => !idle.any (fun q => q.2.die == p.2.die && q.2.walker == p.2.walker && decide (key q < key p)))).map Prod.fst

/-- A step begins at p (R30, R250): the frame's colour is checked before the entry is read. -/
def State.beginStep (s : State) (k i : Nat) : State :=
  let now := (s.owner k).oclk
  match s.walks[i]? with
  | none => s
  | some w =>
    let put (s : State) (w : Walk) : State := { s with walks := setAt s.walks i w }
    if !(s.owner k).colourOk w.entry then s.pageTo w.core w.op w.vpn (.failed (now + 4) 0x22)
    else if s.l2Has k false (w.entry / 128 * 128) then put (s.l2Use k false (w.entry / 128 * 128)) { w with ends := some (now + 23) }
    else put s { w with arr := some (now + 4) }

/-- Walks of resident owners whose page no longer walks have ended. -/
def State.sweepWalks (s : State) : State :=
  { s with walks := s.walks.filter (fun w => !(s.owner w.owner).resident || match s.op? w.core w.op with
      | some o => o.pages.any (fun p => p.vpn == w.vpn && p.st == .walking)
      | none => w.ends.isSome || w.arr.isSome) }

/-- Begins every step of an owner that may begin in this cycle. -/
def State.beginSteps (s : State) (k : Nat) : State :=
  if s.owned k then (s.stepReady k).foldl (fun s i => s.beginStep k i) s else s

/-- `WALK_STEP` (R84 to R87, R250): a step ends at e; its entry leads on, maps the page, is not present, or cannot be read (R335). On a halted core a miss goes no further
(R330, R341). -/
def execWalkStep (walk : Nat) (s : State) : Host.Outcome State Fault Refusal :=
  .next (match s.walks[walk]? with
    | none => s
    | some w =>
      let now := (s.owner w.owner).oclk
      if !(match w.ends with | some e => decide (e ≤ now) | none => false) then s
      else
        let put (s : State) (w : Walk) : State := { s with walks := setAt s.walks walk w }
        match s.op? w.core w.op with
        | none => put s { w with ends := none, arr := none }
        | some o =>
        let s := put s { w with ends := none }
        if s.errors.contains (w.entry / 128 * 128) then s.pageTo w.core w.op w.vpn (.failed (now + 4) 0x27)
        else
        match pteKind w.level (s.mem.readLe w.entry 8) with
        | .table pa => put s { w with ends := none, level := w.level + 1, table := pa, from_ := now }
        | .malformed => s.pageTo w.core w.op w.vpn (.failed (now + 4) 0x20)
        | .foreign => s.pageTo w.core w.op w.vpn (.failed (now + 4) 0x22)
        | .leaf l =>
          let l := l.under (s.owner w.owner).record.pasid
          let s := s.modOwner w.owner (fun o => { o.modDie w.die (fun d => { d with
            tlb := tlbFill (s.owner w.owner).record.tlbShare d.tlb { vpn := w.vpn / 2 ^ (l.bits - 15) * 2 ^ (l.bits - 15), leaf := l, used := o.useClock } }) with
            useClock := o.useClock + 1 })
          s.pageTo w.core w.op w.vpn (.answer (now + 4) l)
        | .absent =>
          match o.kind with
          | .fetch _ =>
            if o.returning && (s.core w.core).halt.isNone then s.pageTo w.core w.op w.vpn (.toMerge (now + 4) w.level) else s.dropOp w.core w.op o
          | .pref _ => s.dropOp w.core w.op o
          | _ =>
            if (s.core w.core).halt.isSome then s.pageTo w.core w.op w.vpn .parked
            else s.pageTo w.core w.op w.vpn (.toMerge (now + 4) w.level))

/-- The core numbers by which an inbound request and a collective command stand on a merge entry. -/
def inboundCore : Nat := 4096
def collCore : Nat := 4097

/-- The core number by which the requests of a core's dump leave the device: they answer no operation (R331). -/
def dumpCore (core : Nat) : Nat := 8192 + core

/-- The numbers with their place by which what is no core's miss stands in the queue of a merge table (R18): remote requests, then collective engines. -/
def outerKey (arr rank n : Nat) : Nat := (arr * 2 ^ 3) * 2 ^ 59 + rank * 2 ^ 58 + n

/-- The level at which the tables as they stand hold no valid entry for an address. -/
def State.absentLevel (s : State) (k va : Nat) : Nat :=
  let t1 := (s.owner k).record.l1table
  match pteKind 1 (s.mem.readLe (t1 + 8 * levelIndex va 1) 8) with
  | .table t2 => (match pteKind 2 (s.mem.readLe (t2 + 8 * levelIndex va 2) 8) with | .table _ => 3 | _ => 2)
  | _ => 1

/-- Misses that have reached a die's merge table and can be inserted, by their arrival and then the ranks of R18: those of one operation in their order. -/
def State.mergeQueue (s : State) (k die : Nat) : List (Nat × Nat × Nat × Nat × Nat) :=
  let now := (s.owner k).oclk
  let pages := (s.allPages k die).filterMap (fun x => match x.2.2.2.2.st with
    | .toMerge arr lvl =>
      let walker := x.2.2.2.2.vpn % 8
      let earlier := (x.2.2.1.pages.take x.2.2.2.1).any (fun p => match p.st with
        | .start => true | .atTlb _ => true | .walking => true | .toMerge _ _ => true | _ => false)
      if decide (arr ≤ now) && !earlier && (s.core x.1).halt.isNone then some (pageKey (arr * 8 + walker) x.1 x.2.2.1 x.2.1 x.2.2.2.1, x.1, x.2.1, x.2.2.2.2.vpn, lvl) else none
    | _ => none)
  let waits (core n : Nat) : Bool := (s.owner k).dies.any (fun d => d.2.merge.any (fun e => e.waiters.contains (core, n)))
  let ins := if die = 0 then s.fab.inbound.filterMap (fun p =>
      if p.2.owner == k && p.2.parked.isSome && p.2.answer.isNone && p.2.pa.isNone
          && !waits inboundCore p.1 then
        some (outerKey p.2.arrived 0 p.1, inboundCore, p.1, (p.2.parked.map (fun y => y.2)).getD 0 / Config.pageBytes, s.absentLevel k ((p.2.parked.map (fun y => y.2)).getD 0))
      else none) else []
  let colls := ((s.owner k).die die).colls.filterMap (fun p => p.2.page.bind (fun g =>
    if waits collCore p.1 then none
    else some (outerKey g.since 1 p.1, collCore, p.1, g.va / Config.pageBytes, s.absentLevel k g.va)))
  ins ++ colls ++ pages

/-- The fault record of a miss: LANE is 0 for what lanes do not make, tile accesses among it (R87). -/
def State.missRecord (s : State) (k core op vpn lvl : Nat) : List Byte :=
  if core = inboundCore then
    match mget s.fab.inbound op with
    | some x => faultRecord 0xFFFFFFFF 0x7FF k 0 (match x.req.kind with | .load _ => 1 | .store _ => 2 | _ => 3) lvl
        ((x.parked.map (fun y => y.2)).getD x.req.va)
    | none => []
  else if core = collCore then
    match (s.owner k).coll? op with
    | some (_, x) => (match x.page with
      | some g => faultRecord x.lgid x.core k 0 (if g.write then 2 else 1) lvl g.va
      | none => [])
    | none => []
  else
    match s.op? core op with
    | some o =>
      let p := (o.pages.find? (fun p => p.vpn == vpn)).getD { vpn := vpn, lane := 0, va := vpn * Config.pageBytes, st := .parked }
      let lane := match o.kind with | .tld .. => 0 | .tst .. => 0 | _ => p.lane
      faultRecord o.lgid core k lane o.kind.faultKind lvl p.va
    | none => []

/-- `MERGE_TABLE_INSERT` (R87, R250): one lookup or insertion of the owner; the first miss of a page leaves a record. -/
def execMergeTableInsert (die owner : Nat) (s : State) : Host.Outcome State Fault Refusal :=
  .next (
    let d := (s.owner owner).die die
    let fits (vpn : Nat) : Bool := d.merge.any (fun e => e.vpn == vpn) || decide (d.merge.length < Config.mergeEntries)
    match if s.owned owner then leastBy (fun x => x.1) ((s.mergeQueue owner die).filter (fun x => fits x.2.2.2.1)) else none with
    | none => s
    | some (_, core, op, vpn, lvl) =>
      let park (s : State) : State := if inboundCore ≤ core then s else s.pageTo core op vpn .parked
      let mod (f : List MergeEntry → List MergeEntry) (s : State) : State :=
        s.modOwner owner (fun o => o.modDie die (fun x => { x with merge := f x.merge }))
      if d.merge.any (fun e => e.vpn == vpn) then
        park (mod (fun es => es.map (fun e => if e.vpn = vpn then { e with waiters := e.waiters ++ [(core, op)] } else e)) s)
      else
        let bs := s.missRecord owner core op vpn lvl
        let now := (s.owner owner).oclk
        let free := s.ringRoom owner 1 && s.cxlFree owner now 2
        let s := mod (fun es => es ++ [{ vpn := vpn, waiters := [(core, op)], record := if free then none else some bs, since := now }]) s
        park (if free then (s.serves owner (unitWord 8 9 0)).ringWrite owner 1 bs else s))

/-! ### Drains by age (R76, R77) -/

/-- `WC_AGE_DRAIN` (R76). -/
def execWcAgeDrain (core line : Nat) (s : State) : Host.Outcome State Fault Refusal :=
  let now := s.now core
  .next (s.modCore core (fun c => (c.wc.filter (fun e => e.line == line && decide (e.born + 64 ≤ now))).foldl (fun c e =>
    c.wcStart e now) c))

/-- `REMOTE_WC_AGE_DRAIN` (R77). -/
def execRemoteWcAgeDrain (core device line : Nat) (s : State) : Host.Outcome State Fault Refusal :=
  let now := s.now core
  .next (s.modCore core (fun c => (c.rwc.filter (fun e => e.line == line && e.dev == device && decide (e.born + 2048 ≤ now))).foldl (fun c e =>
    c.rwcStart e now) c))

/-! ### Answers -/

/-- Distributes the old values that a remote atomic or queue step returns among its accesses to a line. -/
def takeOld (o : MemOp) (r : LineReq) : List Access → List Byte → List Access
  | [], _ => []
  | a :: as, bs =>
    if o.inLine r a then
      let n := match o.kind with | .tqpop => 8 | .tqsteal => 8 | .tqdone => 4 | _ => a.bytes
      { a with res := bs.take n } :: takeOld o r as (bs.drop n)
    else a :: takeOld o r as bs

/-- The failure of a remote or host request as its issuer sees it (R310, R312, R313, R344): the cause of a fatal fault. -/
def answerCause : Answer → Nat
  | .frameUnavailable => 0x29
  | .remoteFatal => 0x40
  | _ => 0x20

/-- The groups of a drain's stores learn of lost work, for the next fence that covers it (R181). -/
def State.remoteLost (s : State) (core : Nat) (ops : List Nat) (code dev : Nat) : State :=
  ops.foldl (fun s st => match s.op? core st with
    | some o => s.modGroupOf core o.seat o.uid (fun g => { g with remote := worstStatus g.remote (some (code, dev)) })
    | none => s) s

/-- An answer from beyond the package reaches the core for line `idx` of an operation. -/
def State.outsideAnswer (s : State) (core op idx : Nat) (ans : Answer) (data : List Byte) : State :=
  match s.op? core op, (s.op? core op).bind (fun o => o.lines[idx]?) with
  | some o, some r =>
    let k := s.ownerOf core
    let now := s.now core
    let host := r.leaf.tgt == 1
    let first := match o.kind with
      | .remoteDrain mask _ => ((mask.head?).map (fun b => b.ga)).getD 0
      | _ => ((o.acc.find? (fun a => o.inLine r a)).map (fun a => a.ga)).getD 0
    let done (s : State) : State := s.modLine core op idx (fun r => { r with st := .done, performed := true })
    match ans with
    | .ok =>
      if host then
        let s := s.serves k (unitWord 8 9 0)
        -- The line has come from the host: it is in its slice, and the request is performed there.
        let s := if data.length = 128 then { s with host := s.host.writeN r.addr data } else s
        done ((s.l2Fill k true r.addr).performAny core op idx now)
      else
        done (match o.kind with
          | .remoteDrain .. => s
          | .copyWrite _ => s
          | .atomic _ => s.modOp core op (fun o => { o with acc := takeOld o r o.acc data })
          | .atf .. => s.modOp core op (fun o => { o with acc := takeOld o r o.acc data })
          | .tqsteal => s.modOp core op (fun o => { o with acc := takeOld o r o.acc data })
          | .tqdone => s.modOp core op (fun o => { o with acc := takeOld o r o.acc data })
          | _ => (s.modOp core op (fun o => o.takeLine r data)).modLine core op idx (fun r => { r with bytes := data }))
    | _ =>
      let lost := ans == .peerLost
      -- The dump names the device whose answer it is, or that is lost.
      let fails (s : State) : State := s.modOp core op (fun o => { o with failed := some (answerCause ans, first), failDev := if host then none else some r.leaf.dev })
      let s := match o.kind with
        | .remoteDrain _ ops =>
          if lost then s.remoteLost core ops 1 r.leaf.dev
          else s.remoteError core o (if ans == .remoteFatal then 0x40 else 0x41) r.leaf.dev first
        | .tqsteal => if lost then s.modOp core op (fun o => { o with acc := o.acc.map (fun a => { a with res := leBytes 8 resLost.toNat }) })
            else fails s
        | .tqdone => if lost then s.modOp core op (fun o => { o with acc := o.acc.map (fun a => { a with res := leBytes 4 2 }) })
            else fails s
        | .atomic _ =>
          if o.returning then fails s
          else if lost then s.modGroupOf core o.seat o.uid (fun g => { g with remote := worstStatus g.remote (some (1, r.leaf.dev)) })
          else s.remoteError core o (if ans == .remoteFatal then 0x40 else 0x41) r.leaf.dev first
        | .drain _ ops _ => if host then s.modOp core op (fun o => { o with failed := some (0x20, first) }) else s.remoteLost core ops 1 0
        | .pref _ => s
        | _ => fails s
      done s
  | _, _ => s

/-- Finishes an operation whose answers are complete, by its kind. -/
def State.finishAny (s : State) (core op : Nat) : State :=
  match s.op? core op with
  | none => s
  | some o =>
    if !o.answered (s.now core) then s
    else
      match o.kind with
      | .tld .. => s.finishTld core op
      | .tqpop => s.finishQueue core op
      | .tqsteal => s.finishQueue core op
      | .tqdone => s.finishQueue core op
      | .packet => match o.failed with
        | some (cause, addr) => (s.delOp core op).opFatal core o cause 0 addr
        | none => s.finishLaunch core op
      | .pref _ => s.delOp core op
      | .copyRead _ => s.copyArrive core op
      | .copyWrite _ => s.copyArrive core op
      | .store => s
      | .tst .. => s
      | .systemStore => s
      | .atf .. => s
      | .fetch _ => s
      | _ => s.finishOp core op

/-- A line of an operation reaches the core: it goes into the L1 when nothing has removed it since (R75) and no access of
the operation met a conflict (R279). -/
def State.lineArrives (s : State) (core op idx : Nat) : State :=
  match s.op? core op, (s.op? core op).bind (fun o => o.lines[idx]?) with
  | some o, some r =>
    match r.st with
    | .back t =>
      if s.now core < t then s
      else
        let s := s.lineTo core op idx .done
        if r.hit || !r.fill || r.leaf.tgt == 2 || o.conflict.isSome then s
        else s.modCore core (fun c => c.l1Fill r.addr (r.leaf.tgt == 1) o.kind.isFetch r.bytes)
    | _ => s
  | _, _ => s

/-- The answer of a peer to a store of a core's dump: one that failed leaves a context error of the core (R312, R331, R334). -/
def State.dumpAnswer (s : State) (k core op : Nat) (dev : Nat) (answer : Answer) : State :=
  if answer == .ok then s
  else
    let h := (s.core core).halt
    s.contextError k (causeWord (if answer == .remoteFatal then 0x40 else 0x41) 0 0) 0 0 (some core) (some dev) ((h.map (fun h => h.lgid)).getD 0) (s.gridId core)
      (BitVec.ofNat 64 (op * 128)) ((h.map (fun h => h.pc)).getD 0) ((h.map (fun h => h.csn)).getD 0) (s.owner k).oclk

/-- A line of a packet has come: what follows, its appending among it, waits for the completions of the cycle (R349). -/
def State.packetWaits (s : State) (core op line : Nat) : Bool :=
  match s.op? core op with
  | some o => (match o.kind with | .packet => decide (line < o.lines.length) | _ => false)
  | none => false

/-- `RESPONSE_ARRIVAL` (R247, R310 to R313, R344): data or an acknowledgement reaches the core; with the last answer of an operation its destination is
written. An answer from beyond the package comes before the cycle's issue: what follows from the last of them happens with the completions of the cycle (R243). -/
def execResponseArrival (r : RespRef) (s : State) : Host.Outcome State Fault Refusal :=
  .next (s.visiting r.owner (fun s =>
    let ofDump := decide (dumpCore 0 ≤ r.core)
    if !ofDump && (s.core r.core).owner != some r.owner then s else
    let outside := match (s.op? r.core r.op).bind (fun o => o.lines[r.line]?) with
      | some l => (match l.st with | .outside _ _ => true | _ => false)
      | none => false
    let old := match r.head with | some h => (s.freshFlit h).isNone | none => false
    if old then s else
    let s := (r.head.bind s.freshFlit).getD s
    if ofDump then s.dumpAnswer r.owner (r.core - dumpCore 0) r.op ((r.head.map (fun h => h.device)).getD 0) r.answer
    else if outside then
      (s.modCore r.core (fun c => c.extendLimits (s.sysfTids r.core r.op r.line) s.fabricTime)).outsideAnswer r.core r.op r.line r.answer r.data
    else
      let s := s.lineArrives r.core r.op r.line
      if s.packetWaits r.core r.op r.line then s else s.finishAny r.core r.op))

/-- The line is fetched once more: its copy in the L1 is passed over (R117). -/
def State.refetch (s : State) (core seat line : Nat) : State :=
  match s.group? core seat with
  | none => s
  | some g =>
    let va := (g.fetchVa line).getD 0
    let drop (l : L1Line) : Bool := match s.peek (s.ownerOf core) va with
      | .leaf x => l.code && l.line == x.addr va / 128 * 128 && l.host == (x.tgt == 1)
      | _ => false
    let s := s.modCore core (fun c => { c with l1 := c.l1.filter (fun l => !drop l) })
    let s := s.modGroup core seat (fun g => { g with lines := g.lines.filter (fun l => l.line != line) })
    (s.modCore core (fun c => c.requestLine seat line (s.now core) true)).modGroup core seat (fun g =>
      { g with lines := g.lines.map (fun l => if l.line == line then { l with again := true } else l) })

/-- `LINE_FETCH_ARRIVAL` (R117, R246, R335): a code line has reached the core; it can be issued from in the next cycle. One with an uncorrectable error is fetched once more. -/
def execLineFetchArrival (core op : Nat) (s : State) : Host.Outcome State Fault Refusal :=
  let s := (List.range (((s.op? core op).map (fun o => o.lines.length)).getD 0)).foldl (fun s i => s.lineArrives core op i) s
  .next (match s.op? core op with
    | none => s
    | some o =>
      match o.kind with
      | .fetch line =>
        if !o.answered (s.now core) then s
        else
          let now := s.now core
          let s := s.delOp core op
          match o.failed with
          | some (cause, addr) =>
            let again := match s.groupOf core o.seat o.uid with
              | some g => g.lines.any (fun l => l.line == line && l.again)
              | none => true
            if cause % 256 = 0x27 ∧ !again then s.refetch core o.seat line else s.failOp core op o (cause % 256) (cause / 256) addr
          | none =>
            let va := (o.acc.head?.map (fun a => a.va)).getD 0
            let pa := match o.where_ { lane := 0, ga := 0, va := va, bytes := 64, data := [], cmp := [], res := [], bad := false } with
              | some (_, p) => p
              | none => va
            let bytes := (((o.lines.head?.map (fun r => r.bytes)).getD []).drop (pa % 128)).take 64
            s.modGroupOf core o.seat o.uid (fun g => { g with lines := g.lines.map (fun l =>
              if l.line == line && l.op == some op then { l with ready := some (now + 1), op := none, bytes := bytes } else l) })
      | _ => s)

end Sys2Proof.Machine
end

