-- ==== Sys2Proof/Machine/Fabric.lean ====
section
/-! DEFINITION. The fabric side (R305 to R313): inbound requests, keep-waiting notices, timeouts, lost peers, dead planes, replay and
acknowledgement. -/

namespace Sys2Proof.Machine

/-! ### What comes in at the plane ports (R306, R308, R309) -/

/-- Bytes that a peer's request carries: those that it writes. -/
def peerSize : PeerKind → Nat
  | .load _ => 0
  | .store bs => (bs.filterMap id).length
  | .atomic _ b xs _ => 2 * b * xs.length
  | .steal _ e => if e.isSome then 8 else 0
  | .done _ => 0

/-- The head of what comes in at a plane port and the bytes that it carries beside it. -/
def portHead : Instr → Option (FlitHead × Nat)
  | .responseArrival r => r.head.map (fun h => (h, r.data.length))
  | .keepWaitingNotice n => some (n.head, 0)
  | .chunkContributionArrival c => some (c.head, c.data.length)
  | .failureNotice n => some (n.head, 0)
  | .scorecardStamp x => some (x.head, 0)
  | _ => none

/-- The same message with its head marked as judged. -/
def markJudged : Instr → Instr
  | .responseArrival r => .responseArrival { r with head := r.head.map (fun h => { h with gen := judged }) }
  | .keepWaitingNotice n => .keepWaitingNotice { n with head := { n.head with gen := judged } }
  | .chunkContributionArrival c => .chunkContributionArrival { c with head := { c.head with gen := judged } }
  | .failureNotice n => .failureNotice { n with head := { n.head with gen := judged } }
  | .scorecardStamp x => .scorecardStamp { x with head := { x.head with gen := judged } }
  | i => i

/-- The owner whose traffic a message is. -/
def State.portOwner (s : State) : Instr → Option Nat
  | .responseArrival r => if (s.owner r.owner).admitted then some r.owner else none
  | .keepWaitingNotice n => if (s.owner (reqParts n.req).1).admitted then some (reqParts n.req).1 else none
  | .chunkContributionArrival c => s.boundOwner c.ctx
  | .failureNotice n => s.boundOwner n.ctx
  | .scorecardStamp x => s.boundOwner x.ctx
  | _ => none

/-- A message queues at the port of its owner's plane, unless it is a copy, of an earlier generation, or no owner's (R308, R309). -/
def State.queueIn (s : State) (i : Instr) : State :=
  match portHead i with
  | none => s
  | some (h, n) =>
    match s.freshFlit h with
    | none => s
    | some s =>
      match s.portOwner i with
      | none => s
      | some k => { s with fab := { s.fab with
          arrived := s.fab.arrived ++ [{ owner := k, plane := h.plane % 8, flits := flitsOf n, what := .message (markJudged i), ready := false }] } }

/-- The flits of an owner's messages come in at a port in their order, `room` of them: what is left of the room, and the messages. -/
def comeIn (k p : Nat) : Nat → List PortIn → Nat × List PortIn
  | room, [] => (room, [])
  | room, m :: ms =>
    if m.owner = k ∧ m.plane = p ∧ !m.ready then
      if m.flits ≤ room then
        let r := comeIn k p (room - m.flits) ms
        (r.1, { m with flits := 0, ready := true } :: r.2)
      else (0, { m with flits := m.flits - room } :: ms)
    else
      let r := comeIn k p room ms
      (r.1, m :: r.2)

/-- A port takes up to 7 flits of an owner in a cycle (R306). -/
def State.portTakes (s : State) (k p : Nat) : State :=
  let room := 7 - sget 0 s.fab.came p
  let r := comeIn k p room s.fab.arrived
  if r.1 = room then s
  else ({ s with fab := { s.fab with arrived := r.2, came := sset 0 s.fab.came p (7 - r.1) } }).serves k (unitWord 8 8 p)

/-- Requests whose flits have all come in can be injected (R311). -/
def State.admitRequests (s : State) : State :=
  let is (m : PortIn) : Option Nat := match m.what with | .request n => if m.ready then some n else none | .message _ => none
  let s := (s.fab.arrived.filterMap is).foldl (fun s n => s.modInbound n (fun y => { y with came := true })) s
  { s with fab := { s.fab with arrived := s.fab.arrived.filter (fun m => (is m).isNone) } }

/-- What comes in for an owner in a cycle that it owns. -/
def State.portsTake (s : State) (k : Nat) : State := ((List.range 8).foldl (fun s p => s.portTakes k p) s).admitRequests

/-- A message whose flits have come in can be taken: a contribution or a result of a collective when its engine begins no other chunk operation (R19). -/
def State.takeable (s : State) (m : PortIn) : Option Instr :=
  match m.what with
  | .request _ => none
  | .message i =>
    let free := match i with
      | .chunkContributionArrival c => !(s.owner m.owner).served.contains ((s.owner m.owner).chunkUnit c)
      | _ => true
    if m.ready && s.owned m.owner && free then some i else none

/-- The first message that can be taken, and the others. -/
def takeArrived (p : PortIn → Option Instr) : List PortIn → Option (Instr × List PortIn)
  | [] => none
  | m :: ms =>
    match p m with
    | some i => some (i, ms)
    | none => (takeArrived p ms).map (fun r => (r.1, m :: r.2))

/-- What comes in for the owner of the turn, and the next of its messages that can be taken. -/
def State.nextArrived (s : State) : Option Instr × State :=
  let s := match if s.owned s.turnOf then some s.turnOf else none with | some k => s.portsTake k | none => s
  match takeArrived s.takeable s.fab.arrived with
  | some (i, ms) => (some i, { s with fab := { s.fab with arrived := ms } })
  | none => (none, s)

/-! ### Inbound requests (R305, R308 to R312) -/

/-- The answer to a peer's request. -/
def replyTo (r : PeerReq) (a : Answer) (data : List Byte) : OutMsg := .answer r.head.device r.id r.head a data

/-- The write permission that a peer's request needs. -/
def peerWrites : PeerKind → Bool
  | .load _ => false
  | _ => true

/-- Translates an inbound request in the target's tables as they stand (R310, R312), behind the earlier ones of its issuer to its line (R307). -/
def State.translateInbound (s : State) (n : Nat) : State :=
  match mget s.fab.inbound n with
  | none => s
  | some x =>
    let k := x.owner
    let line (v : Nat) : Nat := v / 128
    let behind := s.fab.inbound.any (fun p => decide (p.1 < n) && p.2.owner == k && p.2.req.head.device == x.req.head.device && line p.2.req.va == line x.req.va
      && p.2.pa.isNone && p.2.answer.isNone)
    let fail (a : Answer) : State := s.modInbound n (fun y => { y with answer := some (a, []), parked := none, st := .back (s.owner k).oclk })
    if behind then s
    else
    match s.peek k x.req.va with
    | .leaf l =>
      if l.tgt != 0 || (peerWrites x.req.kind && !l.w) || !(s.owner k).leafColourOk l x.req.va then fail .refused
      else s.modInbound n (fun y => { y with pa := some (l.addr x.req.va), untr := l.untr, parked := none, st := .queued (s.owner k).oclk })
    | .absent =>
      if x.req.rmf then (fail .remoteFatal).targetMiss k x.req
      else s.modInbound n (fun y => { y with parked := some (s.fabricTime, x.req.va), noticed := y.noticed.or (some s.fabricTime) })
    | _ => fail .refused

/-- The number under which house messages stand at the ports: an answer to a context that no owner is bound to (R305). -/
def houseOwner : Nat := 15

/-- `REMOTE_REQUEST_ARRIVAL` (R305, R308, R309, R311): a flit of an earlier generation and a replayed one are dropped; the request is served for the
owner bound to its context, once its flits have come in in that owner's turns. -/
def execRemoteRequestArrival (r : PeerReq) (s : State) : Host.Outcome State Fault Refusal :=
  .next (match s.freshFlit r.head with
    | none => s
    | some s =>
      match s.boundOwner r.ctx with
      | none => s.sendOn houseOwner (r.head.plane % 8) 0 (replyTo r .noContext [])
      | some k =>
        let n := s.fab.nextIn
        let x : Inbound := { req := { r with head := { r.head with gen := judged } }, owner := k, arrived := (s.owner k).oclk, injected := none, parked := none, noticed := none,
                             pa := none, st := .queued (s.owner k).oclk, answer := none, untr := false, came := false, silent := false }
        { s with fab := { s.fab with
          inbound := mset s.fab.inbound n x, nextIn := n + 1,
          arrived := s.fab.arrived ++ [{ owner := k, plane := r.head.plane % 8, flits := flitsOf (peerSize r.kind), what := .request n, ready := false }] } })

/-! ### What leaves by the plane ports -/

/-- The first message of an owner at a port, and the others. -/
def takePort (p : PortMsg → Bool) : List PortMsg → Option (PortMsg × List PortMsg)
  | [] => none
  | m :: ms => if p m then some (m, ms) else (takePort p ms).map (fun r => (r.1, m :: r.2))

/-- Room for the flits of a message at a port: flits that leave again stand in the replay partition already, and house messages use none (R308). -/
def State.portRoom (s : State) (k p : Nat) (m : OutMsg) : Nat :=
  match m with
  | .replayed .. => if s.fab.quiesce == some p then 0 else 7 - sget 0 s.fab.sent p
  | _ => if k = houseOwner then 7 - sget 0 s.fab.sent p else s.flitRoom k p

/-- `n` flits of a message leave. -/
def State.portFlits (s : State) (k p : Nat) (m : OutMsg) (n : Nat) : State :=
  let again := match m with | .replayed .. => true | _ => k == houseOwner
  if again then { s with fab := { s.fab with sent := sset 0 s.fab.sent p (sget 0 s.fab.sent p + n) } } else s.takeFlits k p n

/-- What an owner's messages send through port `p` in an owned cycle (R255, R306): at most 7 flits, in their order. -/
def State.portSend (s : State) (k p : Nat) : Nat → State
  | 0 => s
  | fuel + 1 =>
    match takePort (fun m => m.owner == k && s.fab.plane? m.plane == some p) s.fab.ports with
    | none => s
    | some (m, rest) =>
      let room := s.portRoom k p m.msg
      if room = 0 then s
      else
        let s := if k = houseOwner then s else s.serves k (unitWord 8 8 p)
        if m.flits ≤ room then
          State.portSend (({ s with fab := { s.fab with ports := rest } }.portFlits k p m.msg m.flits).depart p m.msg) k p fuel
        else { s with fab := { s.fab with ports := { m with flits := m.flits - room } :: rest } }.portFlits k p m.msg room

/-- The CXL port serves one request of an owner in an owned cycle (R18, R19): the one that reached it first. -/
def State.cxlCycle (s : State) (k : Nat) : State :=
  if !s.owned k then s
  else
    let qs := (s.allLines k).filterMap (fun x => match x.2.2.2.2.st with
      | .atPort arr => some (arr, x.1, x.2.1, x.2.2.2.1, x.2.2.2.2.addr)
      | _ => none)
    let rank (x : Nat × Nat × Nat × Nat × Nat) : Nat := (x.1 * 2 ^ 3 + (lineSlice 1 x.2.2.2.2).1) * 2 ^ 5 + (lineSlice 1 x.2.2.2.2).2
    match (leastBy rank qs).bind (fun x => if s.cxlFree k x.1 1 then some x else none) with
    | none => s
    | some (_, core, op, idx, line) =>
      let s := (s.serves k (unitWord 8 9 0)).lineTo core op idx (.outside s.fabricTime 8)
      { s with outbox := s.outbox ++ [.hostRequest (s.owner k).record.pasid (outReqId k core op idx) (line % 2 ^ 64)] }

/-- Inbound requests go on in an owned cycle (R311): one of each port is injected, and answers that are ready are; an answer reaches its port 8 cycles
later, and leaves it in an owned cycle. -/
def State.portCycle (s : State) (k : Nat) : State :=
  let now := (s.owner k).oclk
  let s := s.fab.inbound.foldl (fun s x =>
    if x.2.owner == k && x.2.came && x.2.pa.isNone && x.2.answer.isNone && x.2.parked.isNone then s.translateInbound x.1 else s) s
  let s := if !s.owned k then s else
    (List.range 8).foldl (fun s p =>
      match leastBy (fun (x : Nat × Inbound) => x.1) (s.fab.inbound.filter (fun x =>
          x.2.owner == k && x.2.req.head.plane % 8 == p && x.2.pa.isSome && (match x.2.st with | .queued f => decide (f ≤ now) | _ => false))) with
      | some (n, _) => (s.serves k (unitWord 8 8 p)).modInbound n (fun y => { y with injected := some now, st := .atSlice (now + 8) })
      | none => s) s
  let s := if !s.owned k then s else
    s.fab.inbound.foldl (fun s x =>
      match x.2.st with
      | .back f => if x.2.owner == k && decide (f ≤ now) && x.2.answer.isSome then s.modInbound x.1 (fun y => { y with st := .outside (now + 8) 0 }) else s
      | _ => s) s
  let s := s.fab.inbound.foldl (fun s x =>
    match x.2.st with
    | .outside t _ =>
      if x.2.owner == k && decide (t ≤ now) then
        match x.2.answer with
        | some (a, d) =>
          let s := { s with fab := { s.fab with inbound := mdel s.fab.inbound x.1 } }
          if x.2.silent then s else s.sendOn k (x.2.req.head.plane % 8) d.length (replyTo x.2.req a d)
        | none => s
      else s
    | _ => s) s
  if !s.owned k then s else (List.range 8).foldl (fun s p => s.portSend k p 8) (s.cxlCycle k)

/-- `KEEP_WAITING_SEND` (R312): every 32,768 ns for a request that has been parked, until it is answered. -/
def execKeepWaitingSend (req : Nat) (s : State) : Host.Outcome State Fault Refusal :=
  .next (match mget s.fab.inbound req with
    | some x =>
      (match x.noticed with
      | some t =>
        if t + 32768 ≤ s.fabricTime ∧ x.answer.isNone then
          (s.modInbound req (fun y => { y with noticed := some (t + 32768) })).sendOn x.owner (x.req.head.plane % 8) 0
            (.keepWaiting x.req.head.device x.req.id x.req.head)
        else s
      | none => s)
    | none => s)

/-! ### Outstanding requests of this device (R309, R313) -/

/-- `KEEP_WAITING_NOTICE` (R309, R313): the link timeout starts again; a flit of an earlier generation and a replayed one are dropped. -/
def execKeepWaitingNotice (n : KeepNotice) (s : State) : Host.Outcome State Fault Refusal :=
  let (k, c, o, i) := reqParts n.req
  .next (if (s.freshFlit n.head).isNone then s else ((s.freshFlit n.head).getD s).visiting k (fun s =>
    let tids := s.sysfTids c o i
    (s.modLine c o i (fun r => match r.st with | .outside _ p => { r with st := .outside s.fabricTime p, kept := true } | _ => r)).modCore c (fun x =>
      x.extendLimits tids s.fabricTime)))

/-- Every line request of the device that has left it. -/
def State.outsideLines (s : State) : List (Nat × Nat × MemOp × Nat × LineReq) :=
  s.cores.flatMap (fun c => c.2.ops.flatMap (fun p => ((List.range p.2.lines.length).zip p.2.lines).filterMap (fun q =>
    match q.2.st with | .outside _ _ => some (c.1, p.1, p.2, q.1, q.2) | _ => none)))

/-- Collectives of the device fail with a code, a device, for members that a predicate picks (R316). -/
def State.failColls (s : State) (p : Coll → Bool) (code dev : Nat) : State :=
  s.owners.foldl (fun s o =>
    (o.2.dies.flatMap (fun d => d.2.colls)).foldl (fun s x =>
      if x.2.code.isNone && p x.2 then s.failColl o.1 x.1 code dev [] true else s) s) s

/-- Declares a peer lost: its outstanding requests end (R313), and so do collectives with it (R316). -/
def State.losePeer (s : State) (dev : Nat) : State :=
  if s.fab.lost.contains dev then s
  else
    let s := { s with fab := { s.fab with lost := s.fab.lost ++ [dev] } }
    let s := s.everywhere (fun s => s.outsideLines.foldl (fun s x =>
      if x.2.2.2.2.leaf.tgt = 2 ∧ x.2.2.2.2.leaf.dev = dev then (s.outsideAnswer x.1 x.2.1 x.2.2.2.1 .peerLost []).finishAny x.1 x.2.1 else s) s)
    s.failColls (fun x => x.members.contains dev) 1 dev

/-- `PEER_LOST` (R313). -/
def execPeerLost (device : Nat) (s : State) : Host.Outcome State Fault Refusal := .next (s.losePeer device)

/-- `LINK_TIMEOUT` (R313): 2 ms without a response or a notice. -/
def execLinkTimeout (req : Nat) (s : State) : Host.Outcome State Fault Refusal :=
  let (k, c, o, i) := reqParts req
  let own := s.owner k
  let cores := if own.resident then s.cores else own.saved
  .next (match ((mget cores c).bind (fun x => mget x.ops o)).bind (fun o => o.lines[i]?) with
    | some r =>
      (match r.st with
      | .outside since _ => if r.leaf.tgt = 2 ∧ since + 2000000 ≤ s.fabricTime then s.losePeer r.leaf.dev else s
      | _ => s)
    | none => s)

/-- `PEER_READMIT` (R313). -/
def execPeerReadmit (device : Nat) (s : State) : Host.Outcome State Fault Refusal :=
  .next { s with fab := { s.fab with lost := s.fab.lost.filter (fun d => d != device) } }

/-- `n` free bytes, and the state with the counter advanced. -/
def State.freeBytes (s : State) (n : Nat) : List Byte × State :=
  ((List.range n).flatMap (fun i => leBytes 4 (Config.freeWord (s.free + i)).toNat), { s with free := s.free + n })

/-- An outstanding request on a dead plane is abandoned (R309): the fences of its group report PLANE-LOST; what an atomic or a read returns is then free, and a
queue step returns LOST. -/
def State.abandonLine (s : State) (core op : Nat) (o : MemOp) (idx : Nat) (r : LineReq) : State :=
  let note (s : State) : State := s.modGroupOf core o.seat o.uid (fun g => { g with remote := worstStatus g.remote (some (2, r.leaf.dev)) })
  let ends (s : State) : State := (s.lineTo core op idx .done).finishAny core op
  match o.kind with
  | .remoteDrain _ ops => ends (s.remoteLost core ops 2 r.leaf.dev)
  | .copyWrite _ => ends (note s)
  | .atomic _ =>
    let (bs, s) := s.freeBytes 64
    ends (note (s.modOp core op (fun o => { o with acc := takeOld o r o.acc bs })))
  | .tqsteal => ends (note (s.modOp core op (fun o => { o with acc := o.acc.map (fun a => { a with res := leBytes 8 resLost.toNat }) })))
  | .tqdone => ends (note (s.modOp core op (fun o => { o with acc := o.acc.map (fun a => { a with res := leBytes 4 2 }) })))
  | _ =>
    let (bs, s) := s.freeBytes 128
    ends (note ((s.modOp core op (fun o => o.takeLine r bs)).modLine core op idx (fun r => { r with bytes := bs, performed := true })))

/-- A message at a port that is a request of a core, which has begun to leave, or a replay: it ends with its plane. -/
def OutMsg.begun : OutMsg → Bool
  | .request _ r => (reqParts r.id).2.1 != inboundCore
  | .replayed .. => true
  | _ => false

/-- Every peer that an owner's requests could name: lost when no plane is live (R309, R313). -/
def allPeers : List Nat := List.range 1024

/-- `PLANE_DEAD` (R309): quiesce, abandon, new generation, resume. -/
def execPlaneDead (plane : Nat) (s : State) : Host.Outcome State Fault Refusal :=
  .next (if 8 ≤ plane ∨ s.fab.dead.contains plane then s
    else
      let carried := s.owners.flatMap (fun o => ((o.2.dies.flatMap (fun d => d.2.colls)).filter (fun x =>
        x.2.code.isNone && (List.range (min 8 x.2.planes)).any (fun c => s.fab.plane? c == some plane))).map (fun x => (o.1, x.1)))
      let on (s : State) := s.outsideLines.filter (fun x => match x.2.2.2.2.st with | .outside _ p => x.2.2.2.2.leaf.tgt == 2 && p == plane | _ => false)
      let s := { s with fab := { s.fab with dead := s.fab.dead ++ [plane], gen := s.fab.gen + 1, quiesce := none,
                                            ports := s.fab.ports.filter (fun m => !(s.fab.plane? m.plane == some plane && m.msg.begun)),
                                            unacked := s.fab.unacked.filter (fun p => p.1 / 8 != plane) } }
      let s := s.everywhere (fun s => (on s).foldl (fun s x => s.abandonLine x.1 x.2.1 x.2.2.1 x.2.2.2.1 x.2.2.2.2) s)
      let s : State := carried.foldl (fun s x => s.failColl x.1 x.2 2 0 [] true) s
      if s.fab.dead.length = 8 then { s with fab := { s.fab with lost := allPeers } } else s)

/-- `LINK_REPLAY` (R306, R308): the owner's unacknowledged flits leave again in its turns, before what else waits at the port; the target drops what it has seen. -/
def execLinkReplay (plane owner : Nat) (s : State) : Host.Outcome State Fault Refusal :=
  let n := sget 0 s.fab.unacked (8 * plane + owner)
  .next (if n = 0 then s
    else { s with fab := { s.fab with ports := { owner := owner, plane := plane, flits := n, msg := .replayed plane owner n } :: s.fab.ports } })

/-- `LINK_ACK` (R308): acknowledged flits leave their partition. -/
def execLinkAck (plane owner flits : Nat) (s : State) : Host.Outcome State Fault Refusal :=
  .next { s with fab := { s.fab with unacked := sset 0 s.fab.unacked (8 * plane + owner) (sget 0 s.fab.unacked (8 * plane + owner) - flits) } }

end Sys2Proof.Machine
end

