-- ==== Sys2Proof/Machine/Stop.lean ====
section
/-! DEFINITION. Abandoning a parked instruction (R88), MMX (R279), the halt of a core and its drain (R302, R330, R341), the dump (R331 to R333, R342),
releasing a core (R346), resuming a group at `DBG` (R339), and the host's fault answers (R88, R346). -/

namespace Sys2Proof.Machine

/-! ### Parked instructions -/

/-- The operation is one that an instruction of a group waits for. -/
def OpKind.ofInstr : OpKind → Bool
  | .fetch _ => false
  | .pref _ => false
  | .drain .. => false
  | .remoteDrain .. => false
  | .copyRead _ => false
  | .copyWrite _ => false
  | .systemStore => false
  | _ => true

/-- Parked instructions of a group: operations with a page that is not present. -/
def Core.parkedOps (c : Core) (seat uid : Nat) : List (Nat × MemOp) :=
  c.ops.filter (fun p => p.2.seat == seat && p.2.uid == uid && p.2.kind.ofInstr && p.2.parked)

/-- A load or a returning atomic of the group is kept waiting at its target: the group is parked, and executes nothing again (R312). -/
def Core.kept (c : Core) (seat uid : Nat) : Bool :=
  c.ops.any (fun p => p.2.seat == seat && p.2.uid == uid && p.2.kind.ofInstr && (p.2.returning || p.2.kind.isProbe)
    && p.2.lines.any (fun r => r.kept && (match r.st with | .outside _ _ => true | _ => false)))

/-- Takes back what issuing an operation did: marks, slots, a counted steal. -/
def State.unissue (s : State) (core id : Nat) (o : MemOp) : State :=
  let s := (s.dropOp core id o).modGroupOf core o.seat o.uid (fun g => g.clearOp id)
  match o.kind with
  | .tld slots _ _ => s.modCore core (fun c => (c.modSlots slots (fun x => { x with pending := x.pending - 1 })).settleSlots)
  | .tst slots _ _ => s.modCore core (fun c => (c.modSlots slots (fun x => { x with reading := x.reading - 1 })).settleSlots)
  | .tqsteal =>
    match s.gridOf core with
    | some g => if g.packet.trm = 0 then s else s.modOwner (s.ownerOf core) (fun o => o.modGrid g.id (fun x => { x with steals := x.steals - 1 }))
    | none => s
  | _ => s

/-- The first slot of a pair in a line that the group holds. -/
def Group.pairAt (g : Group) (pc : Nat) : Bool :=
  match g.lines.find? (fun l => l.line == pc / 64 * 64) with
  | some l => linePair l.bytes (slotOf pc)
  | none => false

/-- Instructions of a group that a pre-emption takes back: those parked at a page (R88), and those that wait for the token at a page that was not present when
they issued (R284, R295). -/
def State.takenBack (s : State) (core seat uid : Nat) : List (Nat × MemOp) :=
  (s.core core).ops.filter (fun p => p.2.seat == seat && p.2.uid == uid && p.2.kind.ofInstr && (p.2.parked || s.tokenHeld core p.2))

/-- A parked group executes its instruction again (R88): what the instruction did at issue is taken back, and the group stands at it, the earliest of several; what
it asked for behind the instruction is given up. -/
def State.rewind (s : State) (core seat : Nat) : State :=
  match s.group? core seat with
  | none => s
  | some g =>
    let ps := s.takenBack core seat g.uid
    let s := if ps.isEmpty then s else s.modCore core (fun c => { c with
      demands := c.demands.filter (fun d => d.seat != seat || g.rising), mailWaits := c.mailWaits.filter (fun w => w.2.1 != seat) })
    ps.reverse.foldl (fun s p =>
      (s.unissue core p.1 p.2).modGroup core seat (fun g =>
        { g with pc := p.2.pc, half := if g.pairAt p.2.pc then some p.2.pc else g.half, reads := p.2.reads,
                 wait := match g.wait with | some (.op _) => none | w => w })) s

/-! ### MMX (R279, R329) -/

/-- The group of a seat would take a held MMX before its next issue. -/
def Group.mmxDue (g : Group) : Bool := !g.mmx.isEmpty && g.handling.isNone && g.wait.isNone

/-- `MMX` (R279): the first held one is taken at the instruction boundary; a floating-point exception of the same play goes with it, the earlier
first (R329). -/
def execMmx (core seat : Nat) (s : State) : Host.Outcome State Fault Refusal :=
  .next (match s.group? core seat with
    | none => s
    | some g =>
      match g.mmx with
      | [] => s
      | h :: rest =>
        if !g.mmxDue then s
        else
          let slot := ((s.core core).quad (quadOf seat)).holder
          let inPlay := match slot with | some (x, t) => x == seat && decide (t ≤ h.issued) | none => false
          if !g.fpe.isEmpty && inPlay then s.endPlay core seat
          else
            let late := match fpeInfo g.fpe with
              | some t => [({ issued := s.now core, order := 0, raised := s.now core, copy := false, info := t } : HeldMmx)]
              | none => []
            ((s.modGroup core seat (fun g => { g.clearOp h.order with mmx := rest ++ late })).modCore core (fun c => c.unpend h.slots)).takeTrap core seat g.pc h.info g.pc)

/-! ### The halt (R330) -/

/-- A trap taken in the cycle of a fatal fault, or one that is due, is not taken: its cause word stands in the seat record (R329). -/
def Group.untrap (g : Group) (now : Nat) : Group :=
  let word (w : Word) : Word := if g.faultWord = 0 then w else g.faultWord
  let cw (t : TrapInfo) : Word := causeWord t.cause t.sub t.lane
  match g.handling with
  | some h =>
    if h.cycle = now then
      { g with trapc := h.old.1, trapa := h.old.2.1, trapm := h.old.2.2, handling := none, pc := h.resume, wait := g.wait.or h.wait, half := h.half,
               faultWord := word h.cause }
    else g
  | none =>
    match g.mmx, fpeInfo g.fpe with
    | m :: _, _ => { g with faultWord := word (cw m.info) }
    | [], some t => { g with faultWord := word (cw t) }
    | [], none => g

/-- The primary fault: that of the lowest logical id. -/
def primary : List Halt → Option Halt
  | [] => none
  | h :: hs => some (hs.foldl (fun a b => if b.lgid < a.lgid then b else a) h)

/-- The faulting instruction is a `SOLB` at cluster scope. -/
def State.clusterSolb (s : State) (core : Nat) (h : Halt) : Bool :=
  h.cause == 0x2F && (s.core core).groups.any (fun p => s.lgid core p.1 == h.lgid && (p.2.upcoming (s.now core)).any (fun q => match q.2 with
    | .solb f => f.xmod.getLsbD 4
    | _ => false))

/-- The core holds a participant of a cluster-scope region, open or awaiting its `SOLB` rendezvous (R302). -/
def State.inClusterRegion (s : State) (core : Nat) : Bool :=
  match s.cluOf core with
  | none => false
  | some (k, _) => ((mget (s.owner (s.ownerOf core)).clusters k).map (fun x =>
      x.regions.any (fun r => (r.2.isOpen || r.2.busy) && r.2.parts.any (fun p => p.core == core)))).getD false

/-- The other cores of the cluster stop 8 cycles later (R302). -/
def State.haltCluster (s : State) (core : Nat) : State :=
  let now := s.now core
  ((s.clusterCores core).filter (fun n => n != core && decide (n < Config.numCores))).foldl (fun s n =>
    s.modCore n (fun c => if c.halt.isSome || c.haltDue.isSome then c else { c with haltDue := some (now + 8) })) s

/-- HALTING A CORE at the end of the cycle of its fatal faults (R330): issue stops, its write-combining entries drain. -/
def State.settleHalt (s : State) (core : Nat) : State :=
  match primary (s.core core).faults with
  | none => s
  | some h =>
    let now := s.now core
    let spreads := s.inClusterRegion core || s.clusterSolb core h
    let s := s.modCore core (fun c =>
      let c : Core := { c with
        halt := some h, faults := [], haltDue := none,
        seats := c.seats.map (fun p => match p.2 with | .group g => (p.1, .group (g.untrap now)) | .blank => p),
        quads := c.quads.map (fun q => (q.1, q.2.endPlay)) }
      (c.wcDrainAll now).rwcDrainAll now)
    if spreads then s.haltCluster core else s

/-- `CLUSTER_HALT` (R302): the core takes SOLVE-STATE. -/
def execClusterHalt (core : Nat) (s : State) : Host.Outcome State Fault Refusal :=
  .next (
    let c := s.core core
    if !(match c.haltDue with | some t => decide (t ≤ s.now core) | none => false) then s
    else
      let low := (c.groups.map (fun p => (s.lgid core p.1, p.2))).foldl (fun (a : Option (Nat × Group)) p => match a with
        | some b => if p.1 < b.1 then some p else a
        | none => some p) none
      let team := (c.team.map (fun t => 1024 * t.teamId)).getD 0
      let h : Halt := { cycle := s.now core, cause := 0x2E, sub := 1, pc := (low.map (fun p => p.2.pc)).getD 0, csn := (low.map (fun p => p.2.csn)).getD 0,
                        lgid := (low.map Prod.fst).getD team, addr := 0, dev := none, byCluster := true, drained := none, dumped := false }
      s.modCore core (fun c => { c with haltDue := none, faults := if c.halt.isSome then c.faults else c.faults ++ [h] }))

/-! ### The drain (R330) -/

/-- The queue's running copy has ended, or stands at a parked element with what lies before it written. -/
def Core.copyDrained (c : Core) (quad : Nat) : Bool :=
  match c.headCopy quad with
  | none => true
  | some x => !x.started || x.faulted || (c.copyOps quad).any (fun p => p.2.parked && p.2.issued == x.done)

/-- Engine commands have run to completion; a broadcast whose members have not all joined never begins. -/
def Core.engineDrained (c : Core) (quad : Nat) : Bool :=
  match c.headCmd quad with
  | none => true
  | some x => x.begun.isNone && !x.joined

/-- A mixing step with a participant on the core goes on. -/
def State.stepping (s : State) (core : Nat) : Bool :=
  let t := ((s.core core).team.map (fun t => t.regions)).getD []
  let k := match s.cluOf core with
    | some (k, _) => ((mget (s.owner (s.ownerOf core)).clusters k).map (fun x => x.regions)).getD []
    | none => []
  (t ++ k).any (fun r => r.2.step.isSome && r.2.parts.any (fun p => p.core == core))

/-- All that drains on a halted core has drained: what waits for a page is abandoned, a collective command among it. -/
def State.drained (s : State) (core : Nat) : Bool :=
  let c := s.core core
  c.wc.isEmpty && c.rwc.isEmpty && !s.stepping core
    && c.ops.all (fun p => p.2.parked || (match p.2.kind with | .fetch _ => true | .pref _ => true | .copyRead _ => true | .copyWrite _ => true | _ => false))
    && (List.range 4).all (fun q => c.copyDrained q && c.engineDrained q)
    && !(s.owner (s.ownerOf core)).dies.any (fun d => d.2.colls.any (fun x => x.2.core == core && x.2.page.isNone))

/-- Notes the end of the drain: the cycle after the last completion. -/
def State.settleDrain (s : State) (core : Nat) : State :=
  match (s.core core).halt with
  | some h =>
    if h.drained.isNone && s.drained core then s.modCore core (fun c => { c with halt := some { h with drained := some (s.now core + 1) } }) else s
  | none => s

/-! ### The dump (R331 to R333, R342) -/

/-- Where a dump write goes; a fault's cause and subcause (R341). -/
def State.dumpLeaf (s : State) (k va : Nat) : Except (Nat × Nat) Leaf :=
  if 2 ^ 51 ≤ va then .error (0x20, 0)
  else
    match s.peek k va with
    | .leaf l => if !l.w then .error (0x21, 1) else if (s.owner k).leafColourOk l va then .ok l else .error (0x22, 0)
    | .foreign => .error (0x22, 0)
    | _ => .error (0x20, 0)

/-- A line of a dump that goes to a peer: a store, which answers no operation of a core (R310, R311). -/
def State.dumpSend (s : State) (core : Nat) (l : Leaf) (va : Nat) (bs : List Byte) : State :=
  let k := s.ownerOf core
  let mask := lineMask (((List.range bs.length).zip bs).map (fun p => (va % 128 + p.1, p.2)))
  s.sendOn k (va / 128 % 8) bs.length (.request l.dev
    { head := blankHead, id := outReqId k (dumpCore core) (va / 128) 0, ctx := (s.owner k).record.ctx, rmf := l.rmf, va := l.addr va / 128 * 128, kind := .store mask })

/-- Writes bytes of one page through its leaf; those for a peer leave the device line by line. -/
def State.dumpPut (s : State) (core : Nat) (l : Leaf) (va : Nat) (bs : List Byte) : State :=
  if l.tgt = 0 then { s with mem := s.mem.writeN (l.addr va) bs }
  else if l.tgt = 1 then { s with host := s.host.writeN (l.addr va) bs }
  else if s.fab.lost.contains l.dev then s
  else (cutLines (bs.length / 128 + 2) va bs.length).foldl (fun s p => s.dumpSend core l p.1 ((bs.drop (p.1 - va)).take p.2)) s

/-- Writes bytes page by page: how many were written, and the fault that stopped them. -/
def State.dumpBytes (s : State) (core : Nat) : Nat → Nat → List Byte → State × Nat × Option (Nat × Nat)
  | 0, _, _ => (s, 0, none)
  | fuel + 1, va, bs =>
    if bs.isEmpty then (s, 0, none)
    else
      let piece := bs.take (Config.pageBytes - va % Config.pageBytes)
      match s.dumpLeaf (s.ownerOf core) va with
      | .error e => (s, 0, some e)
      | .ok l =>
        let (s, n, e) := State.dumpBytes (s.dumpPut core l va piece) core fuel (va + piece.length) (bs.drop piece.length)
        (s, piece.length + n, e)

def State.dumpSpan (s : State) (core va : Nat) (bs : List Byte) : State × Nat × Option (Nat × Nat) := s.dumpBytes core (bs.length / Config.pageBytes + 2) va bs

/-- A register as 4 bytes. -/
def wordBytes (w : Word) : List Byte := leBytes 4 w.toNat

/-- A handle of a seat record (R332). -/
def HandleReg.word (h : HandleReg) : Nat :=
  h.slots.headD 0 + (if h.slots.length = 4 then 2 else if h.slots.length = 2 then 1 else 0) * 2 ^ 5 + (if h.live then 2 ^ 7 else 0) + h.gen.toNat * 2 ^ 8

/-- Bytes 60 to 63 of a seat record: the cause word of the group's fatal fault, or of a trap that was raised in the cycle of the halt or later (R329, R332). -/
def State.wordOf (s : State) (core : Nat) (g : Group) : Word :=
  if g.faultWord ≠ 0 then g.faultWord
  else
    match (s.core core).halt with
    | none => 0
    | some h =>
      match g.mmx.find? (fun m => decide (h.cycle ≤ m.raised)) with
      | some m => causeWord m.info.cause m.info.sub m.info.lane
      | none => 0

/-- The seat record of a group (R332). -/
def State.seatRecord (s : State) (core seat : Nat) (g : Group) : List Byte :=
  let bit (b : Bool) (n : Nat) : Nat := if b then 2 ^ n else 0
  let parked := (s.core core).parkedOps seat g.uid
  let own (i n : Nat) : Nat := match g.origins[i]? with | some p => p * 2 ^ n | none => 0
  let faulted := decide (0x20 ≤ g.faultWord.toNat % 256)
  let resume := match g.handling, parked with
    | some h, _ => h.resume
    | none, p :: _ => p.2.pc
    | none, [] => g.pc
  let toks := toksWord (s.holdsToken core g) (s.det core) (((s.gridOf core).map (fun x => x.packet.trm)).getD 0)
    (s.det core && ((s.gridOf core).map Grid.twait).getD false) g.pass
  leBytes 4 (s.lgid core seat) ++ leBytes 1 seat
    ++ leBytes 1 (bit g.handling.isSome 0 + bit (!parked.isEmpty || (s.core core).kept seat g.uid) 1 + bit (match g.wait with | some (.join ..) => true | _ => false) 2
        + bit (g.wait == some .debug) 3 + bit faulted 4)
    ++ leBytes 1 (g.allot / 8) ++ leBytes 1 g.hperm
    ++ leBytes 1 (bit (decide (0 < g.origins.length)) 0 + bit (decide (1 < g.origins.length)) 1 + own 0 2 + own 1 3) ++ leBytes 3 0
    ++ wordBytes g.mask ++ leBytes 8 resume ++ leBytes 8 g.trapv.toNat ++ wordBytes g.trapc ++ wordBytes g.trapm ++ leBytes 8 g.trapa.toNat
    ++ leBytes 8 (g.retiredBy (s.now core + 1)) ++ wordBytes toks ++ wordBytes (s.wordOf core g) ++ leBytes 8 g.csn.toNat
    ++ (List.range 16).flatMap (fun n => leBytes 2 (g.handle n).word) ++ leBytes 24 0
    ++ (List.range 64).flatMap (fun n => wordBytes (g.sreg n))
    ++ (List.range g.allot).flatMap (fun r => (List.range 32).flatMap (fun l => wordBytes (g.vreg r l)))

/-- The TEAM section. -/
def State.teamSection (s : State) (core : Nat) (t : Team) : List Byte :=
  leBytes 8 t.srseed.toNat ++ leBytes 8 t.solthr.toNat ++ wordBytes t.solmax ++ wordBytes t.solbeta ++ leBytes 8 t.sollam.toNat
    ++ wordBytes (s.solstat core) ++ leBytes 4 t.teamId ++ leBytes 4 t.cluId ++ leBytes 4 (s.core core).pendingDemand ++ leBytes 16 0

/-- The SCRATCH section: the bytes, and the full/empty bitmap. -/
def Core.scratchSection (c : Core) : List Byte :=
  c.sp.readN 0 Config.scratchBytes ++ (List.range 128).map (fun i =>
    BitVec.ofNat 8 ((List.range 8).foldl (fun a b => a + (if c.spEmpty.contains (8 * i + b) then 0 else 2 ^ b)) 0))

/-- The BARRIERS section. -/
def State.barrierSection (s : State) (core : Nat) (t : Team) : List Byte :=
  let one (b : Barrier) : List Byte := leBytes 2 b.c ++ leBytes 2 b.a ++ leBytes 2 b.g.toNat ++ leBytes 1 (if b.counted then 1 else 0) ++ leBytes 1 0
  (List.range 16).flatMap (fun n => one (s.barrier core false n)) ++ (List.range 8).flatMap (fun n => one (s.barrier core true n))
    ++ (List.range 8).flatMap (fun n => leBytes 2 (t.join n).e ++ leBytes 2 (t.join n).a ++ leBytes 4 0)

/-- The HANDLES section. -/
def State.handleSection (s : State) (core : Nat) : List Byte :=
  (List.range Config.numSlots).flatMap (fun n =>
    let x := (s.core core).slot n
    let (st, box, lg) := match x.use with
      | .free => (0, 0xFF, 0xFFFFFFFF)
      | .handle seat _ => (1, 0xFF, s.lgid core seat)
      | .mailbox m => (2, m, 0xFFFFFFFF)
      | .solve lg _ => (3, 0xFF, lg)
      | .draining => (4, 0xFF, 0xFFFFFFFF)
    leBytes 1 st ++ leBytes 1 x.gen.toNat ++ leBytes 1 box ++ leBytes 1 0 ++ leBytes 4 lg)

/-- Copies that are not complete, queue by queue. -/
def Core.copySection (c : Core) : List (List Byte) :=
  (List.range 4).flatMap (fun q => (c.quad q).copies.map (fun x =>
    let r := (c.copyReport x.ticket).toNat
    wordBytes x.ticket ++ leBytes 1 (r / 2 ^ 32 % 4) ++ leBytes 3 0 ++ leBytes 4 (r % 2 ^ 32) ++ leBytes 4 0 ++ leBytes 8 x.csn.toNat ++ leBytes 8 x.pc))

/-- The record sets of the deck, by ascending lowest `TID`. -/
def Team.deckSection (t : Team) : List (List Byte) :=
  let keys := (sortBy (fun r => r.tid) t.deck).foldl (fun (ps : List (Nat × Nat × Bool)) r =>
    if ps.contains (r.pc, r.bud, r.jwait) then ps else ps ++ [(r.pc, r.bud, r.jwait)]) []
  keys.map (fun k =>
    let rs := sortBy (fun r => r.tid) (t.deck.filter (fun r => (r.pc, r.bud, r.jwait) == k))
    leBytes 6 k.1 ++ leBytes 1 (k.2.1 / 8) ++ leBytes 1 (if k.2.2 then 1 else 0) ++ leBytes 2 rs.length ++ leBytes 2 ((rs.head?.map (fun r => r.tid)).getD 0)
      ++ leBytes 4 (rs.filter (fun r => r.overflow)).length)

/-- The sections with their COUNT and bytes, in ascending ID (R332). -/
def State.dumpSections (s : State) (core : Nat) (t : Team) : List (Nat × List Byte) :=
  let c := s.core core
  let gs := sortBy (fun p => s.lgid core p.1) c.groups
  let cs := c.copySection
  let ds := t.deckSection
  [(gs.length, gs.flatMap (fun p => s.seatRecord core p.1 p.2)), (1, s.teamSection core t), (1, c.scratchSection), (32, s.barrierSection core t),
   (32, s.handleSection core), (cs.length, cs.flatten), (ds.length, ds.flatten)]

/-- Rounds up to a multiple of 64. -/
def up64 (n : Nat) : Nat := (n + 63) / 64 * 64

/-- The planned offsets of sections that begin at or after `at_` (R342). -/
def planSections : Nat → List (Nat × List Byte) → List (Nat × Nat × List Byte)
  | _, [] => []
  | at_, (n, bs) :: t => (n, up64 at_, bs) :: planSections (up64 at_ + bs.length) t

/-- A dump header (R331). -/
def State.dumpHeader (s : State) (core : Nat) (h : Halt) (flags status tlen : Nat) (secondary : List Byte) (table : List (Nat × Nat × Nat)) : List Byte :=
  [0x46, 0x52, 0x4E, 0x44] ++ leBytes 2 1 ++ leBytes 1 (s.ownerOf core) ++ leBytes 1 (flags + (if h.byCluster then 4 else 0)) ++ leBytes 2 core ++ leBytes 2 0
    ++ wordBytes (causeWord h.cause h.sub 0) ++ leBytes 8 h.pc ++ leBytes 8 h.csn.toNat ++ leBytes 4 h.lgid ++ leBytes 4 (s.gridId core)
    ++ leBytes 8 h.addr.toNat ++ leBytes 8 h.cycle ++ leBytes 4 status ++ leBytes 4 tlen ++ secondary
    ++ ((List.range table.length).zip table).flatMap (fun p => leBytes 4 (p.1 + 1) ++ leBytes 4 p.2.1 ++ leBytes 4 p.2.2.1 ++ leBytes 4 p.2.2.2)
    ++ leBytes 16 0

/-- Writes the sections until one fails: the lengths written, and the fault with its section and offset. -/
def State.writeSections (s : State) (core base : Nat) : Nat → List (Nat × Nat × List Byte) → State × List Nat × Option (Nat × Nat × Nat × Nat)
  | _, [] => (s, [], none)
  | id, (_, off, bs) :: t =>
    match s.dumpSpan core (base + off) bs with
    | (s, n, some (cause, sub)) => (s, n :: t.map (fun _ => 0), some (cause, sub, id, off + n))
    | (s, n, none) =>
      let (s, ns, e) := State.writeSections s core base (id + 1) t
      (s, n :: ns, e)

/-- The context error after a dump (R334). -/
def State.dumpError (s : State) (core : Nat) (h : Halt) (lost : Bool) (second : Word) (flags : Nat) : State :=
  let s := s.contextError (s.ownerOf core) (if lost then causeWord 0x43 0 0 else causeWord h.cause h.sub 0) second flags (some core) h.dev h.lgid (s.gridId core)
    h.addr h.pc h.csn h.cycle
  s.modCore core (fun c => { c with halt := some { h with dumped := true } })

/-- WRITING A DUMP (R331, R333, R334, R342): the header with STATUS 2, the sections, the header again, and the context error. -/
def State.writeDump (s : State) (core : Nat) (h : Halt) (t : Team) : State :=
  let base := (s.core core).dumpbase.toNat
  let plan := planSections 256 (s.dumpSections core t)
  let none64 := leBytes 64 0
  let table := plan.map (fun p => (p.1, p.2.1, p.2.2.length))
  match s.dumpSpan core base (s.dumpHeader core h 0 2 256 none64 table) with
  | (s, _, some (cause, sub)) => s.dumpError core h true (causeWord cause sub 0) 0
  | (s, _, none) =>
    let (s, lens, bad) := s.writeSections core base 1 plan
    let tlen := 256 + lens.foldl (· + ·) 0
    let table := (plan.zip lens).map (fun p => (p.1.1, p.1.2.1, p.2))
    let (flags, status, second, cw) := match bad with
      | none => (0, 0, none64, (0 : Word))
      | some (cause, sub, id, off) =>
        (3, 1, wordBytes (causeWord cause sub 0) ++ leBytes 4 id ++ leBytes 8 (base + off) ++ leBytes 8 off ++ leBytes 40 0, causeWord cause sub 0)
    match s.dumpSpan core base (s.dumpHeader core h flags status tlen second table) with
    | (s, _, some (cause, sub)) => s.dumpError core h true (causeWord cause sub 0) 0
    | (s, _, none) => s.dumpError core h false cw (if bad.isSome then 3 else 1)

/-- The dump of a halted core is due. -/
def State.dumpDue (s : State) (core : Nat) : Bool :=
  match (s.core core).halt with
  | some h => !h.dumped && (match h.drained with | some d => decide (d < s.now core) | none => false)
  | none => false

/-- `DUMP` (R331). -/
def execDump (core : Nat) (s : State) : Host.Outcome State Fault Refusal :=
  .next (match (s.core core).halt, (s.core core).team with
    | some h, some t => if s.dumpDue core then s.writeDump core h t else s
    | _, _ => s)

/-! ### The host's answers (R88, R339, R346) -/

/-- `CREL` (R346): a halted core becomes idle; its team is discarded. -/
def execCrel (owner core : Nat) (s : State) : Host.Outcome State Fault Refusal :=
  .next (s.visiting owner (fun s =>
    let c := s.core core
    if c.owner != some owner || c.halt.isNone then s
    else
      let place := c.team.bind (fun t => t.cluster)
      let s := s.setCore core { Core.blank with
        owner := some owner, dumpbase := c.dumpbase, tlb := c.tlb, nextOp := c.nextOp, nextUid := c.nextUid, useClock := c.useClock, injected := c.injected,
        slots := c.slots.map (fun p => (p.1, { p.2 with use := .free, pending := 0, reading := 0 })) }
      s.modOwner owner (fun o =>
        let o := { o with regions := o.regions.map (fun p => (p.1, if p.2.core = core then { p.2 with current := false, open_ := 0 } else p.2)) }
        match place with
        | some (id, _) =>
          let cl := mmod o.clusters id (fun x => { x with cores := x.cores.map (fun n => if n = core then Config.numCores else n) })
          { o with clusters := cl.filter (fun p => p.2.cores.any (fun n => n < Config.numCores)) }
        | none => o)))

/-- A debug record of the seat still waits for room. -/
def Owner.debugWaits (o : Owner) (core seat : Nat) : Bool := (o.ring 4).waiting.any (fun r => fieldLe r 28 2 == core && fieldLe r 30 1 == seat)

/-- `DRES` (R339, R346): a group stopped at `DBG` goes on, once its record is written. -/
def execDres (owner core seat : Nat) (s : State) : Host.Outcome State Fault Refusal :=
  .next (s.visiting owner (fun s =>
    match s.group? core seat with
    | some g =>
      if (s.core core).owner == some owner && g.wait == some .debug && !(s.owner owner).debugWaits core seat then
        (s.modGroup core seat (fun g => { g with wait := none, wake := s.now core + 1 })).retired core seat g.uid 1
      else s
    | none => s))

/-- The generic address that an operation's fault on a page reports (R88). -/
def MemOp.faultAddress (o : MemOp) (vpn : Nat) : DWord :=
  match o.acc.find? (fun a => a.va / Config.pageBytes == vpn) with
  | some a => a.ga
  | none => BitVec.ofNat 64 (vpn * Config.pageBytes)

/-- An answer to an operation that waits on a page: none resumes it. A halted core's instruction has been abandoned. -/
def State.answerOp (s : State) (core op vpn : Nat) (cause : Option Nat) : State :=
  if (s.core core).halt.isSome then s
  else
    match s.op? core op with
    | none => s
    | some o =>
      match cause with
      | none => s.pageTo core op vpn .start
      | some x => s.failOp core op o x 0 (o.faultAddress vpn)

/-- An answer to a parked request of a peer (R312). -/
def State.answerInbound (s : State) (n : Nat) (cause : Option Nat) : State :=
  match mget s.fab.inbound n with
  | none => s
  | some x =>
    if x.parked.isNone then s
    else
      match cause with
      | none => s.translateInbound n
      | some c => s.modInbound n (fun y => { y with
          answer := some (if c = 0x29 then .frameUnavailable else .notMapped, []), parked := none, st := .back (s.owner x.owner).oclk })

/-- An answer to the page that a collective command waits for (R88, R221). -/
def State.answerColl (s : State) (k n : Nat) (cause : Option Nat) : State :=
  match (s.owner k).coll? n with
  | none => s
  | some (_, x) =>
    match x.page with
    | none => s
    | some g =>
      match cause with
      | none => s.modColl k n (fun x => { x with page := none })
      | some c => s.collFault k n c 0 g.ga

/-- ANSWERING A PAGE on every die (R346): its entries end, and what waits on them goes on or takes the fault. -/
def State.answerPage (s : State) (k vpn : Nat) (cause : Option Nat) : State :=
  let ws := (s.owner k).dies.flatMap (fun d => (d.2.merge.filter (fun e => e.vpn == vpn)).flatMap (fun e => e.waiters))
  let s := s.modOwner k (fun o => { o with dies := o.dies.map (fun d => (d.1, { d.2 with merge := d.2.merge.filter (fun e => e.vpn != vpn) })) })
  s.visiting k (fun s => ws.foldl (fun s w => if w.1 = inboundCore then s.answerInbound w.2 cause else if w.1 = collCore then s.answerColl k w.2 cause else s.answerOp w.1 w.2 vpn cause) s)

/-- `FANS` RESUME, NOMAP and FRAME-UNAVAILABLE (R88, R346). -/
def execFansResume (owner vpn : Nat) (s : State) : Host.Outcome State Fault Refusal := .next (s.answerPage owner vpn none)

def execFansNomap (owner vpn : Nat) (s : State) : Host.Outcome State Fault Refusal := .next (s.answerPage owner vpn (some 0x20))

def execFansFrameUnavailable (owner vpn : Nat) (s : State) : Host.Outcome State Fault Refusal := .next (s.answerPage owner vpn (some 0x29))

end Sys2Proof.Machine
end

