-- ==== Sys2Proof/Machine/Telemetry.lean ====
section
/-! DEFINITION. Counters, the global tick and snapshots (R337, R338, R340). -/

namespace Sys2Proof.Machine

/-! ### Which units serve an owner, and where its work waits -/

/-- The units of an owner: those of every shared structure, and those of the cores it holds, or held as it was switched out. -/
def State.unitsOf (s : State) (k : Nat) : List Nat :=
  let dies := (List.range 8).flatMap (fun d =>
    (List.range 32).map (fun i => unitWord d 4 i) ++ (List.range 8).map (fun i => unitWord d 5 i) ++ [unitWord d 6 (2 * d), unitWord d 6 (2 * d + 1), unitWord d 7 0])
  let cores := (dedup ((s.owner k).held ++ mkeys (s.owner k).saved)).flatMap (fun n => (List.range 4).map (fun kind => unitWord (dieOf n) kind (n % 256)))
  cores ++ dies ++ (List.range 8).map (fun p => unitWord 8 8 p) ++ [unitWord 8 9 0]

/-- A unit of a core. -/
def coreUnit (core kind : Nat) : Nat := unitWord (dieOf core) kind (core % 256)

/-- Units with the owner's work in progress in this cycle, beside those that noted a service in it: walkers, HBM controllers, engines, copy units,
mixing engines. -/
def State.unitsBusy (s : State) (k : Nat) : List Nat :=
  let now := (s.owner k).oclk
  let walks := (s.walks.filter (fun w => w.owner == k && w.ends.isSome)).map (fun w => unitWord w.die 5 w.walker)
  let hbm := (s.hbm.filter (fun x => x.owner == k && decide (x.start ≤ now ∧ now < x.start + 64))).map (fun x => unitWord (x.stack / 2) 6 x.stack)
  let cores := (s.owner k).held.flatMap (fun n =>
    let c := s.core n
    (if c.quads.any (fun q => q.2.engine.any (fun e => e.begun.isSome)) then [coreUnit n 1] else [])
      ++ (if c.quads.any (fun q => q.2.copies.any (fun x => x.started && !x.stopped)) then [coreUnit n 2] else [])
      ++ (if s.stepping n then [coreUnit n 3] else []))
  walks ++ hbm ++ cores

/-- Units at which the owner's work waits in this cycle. -/
def State.unitsWaiting (s : State) (k : Nat) : List Nat :=
  let now := (s.owner k).oclk
  let dies := (List.range 8).flatMap (fun d =>
    ((List.range 32).filter (fun i => !(s.sliceQueue k d i).isEmpty)).map (fun i => unitWord d 4 i)
      ++ (if ((s.owner k).die d).waiting.isEmpty then [] else [unitWord d 7 0]))
  let walks := (s.walks.filter (fun w => w.owner == k && w.ends.isNone)).map (fun w => unitWord w.die 5 w.walker)
  let hbm := ((List.range 16).filter (fun st => !(s.hbmQueue k st).isEmpty)).map (fun st => unitWord (st / 2) 6 st)
  let cores := (s.owner k).held.flatMap (fun n =>
    let c := s.core n
    (if !c.groups.isEmpty && !(s.owner k).served.contains (coreUnit n 0) then [coreUnit n 0] else [])
      ++ (if c.quads.any (fun q => q.2.engine.any (fun e => e.begun.isNone)) then [coreUnit n 1] else [])
      ++ (if c.quads.any (fun q => q.2.copies.any (fun x => !x.started)) then [coreUnit n 2] else []))
  let planes := (List.range 8).filter (fun p => (s.allLines k).any (fun x =>
    x.2.2.2.2.leaf.tgt == 2 && x.2.2.2.2.va / 128 % 8 == p && (match x.2.2.2.2.st with | .queued f => decide (f ≤ now) | _ => false)))
  dies ++ walks ++ hbm ++ cores ++ planes.map (fun p => unitWord 8 8 p)

/-- The counters of an owner at the end of one of its cycles: C0 cycles serving it, C1 cycles with its work waiting. -/
def State.countUnits (s : State) (k : Nat) : State :=
  let busy := dedup ((s.owner k).served ++ s.unitsBusy k)
  let wait := dedup (s.unitsWaiting k)
  let get (m : Map (Nat × Nat)) (u : Nat) : Nat × Nat := (mget m u).getD (0, 0)
  s.modOwner k (fun o =>
    let m := busy.foldl (fun m u => mset m u ((get m u).1 + 1, (get m u).2)) o.counters
    let m := wait.foldl (fun m u => mset m u ((get m u).1, (get m u).2 + 1)) m
    { o with counters := m, served := [] })

/-! ### Records -/

/-- C2 to C5 of a unit at a latch: what they held at the latch before, and a free number of events since then; none while the owner has had no cycle (R337). Which events the
manual leaves open. -/
def State.eventsOf (s : State) (k unit : Nat) : List Nat :=
  let o := s.owner k
  let (at_, was) := (mget o.picked unit).getD (0, [0, 0, 0, 0])
  if at_ = o.oclk then was else (List.range 4).map (fun i => was.getD i 0 + (Config.eventCount s.free i).toNat)

/-- A telemetry record of a unit. -/
def State.counterRecord (s : State) (k unit flags tag : Nat) : List Byte :=
  let o := s.owner k
  let c := (mget o.counters unit).getD (0, 0)
  leBytes 8 (s.cycle / 2 ^ o.record.tick) ++ leBytes 2 unit ++ leBytes 1 k ++ leBytes 1 flags ++ leBytes 2 tag ++ leBytes 2 0
    ++ leBytes 8 c.1 ++ leBytes 8 c.2 ++ (s.eventsOf k unit).flatMap (fun n => leBytes 8 n)

/-- LATCHING THE COUNTERS of an owner: a record for every unit, to be written in house turns. -/
def State.latchCounters (s : State) (k flags tag : Nat) : State :=
  (s.unitsOf k).foldl (fun s u =>
    let t := (s.ringAdd k 3 (s.counterRecord k u flags tag)).modOwner k (fun o => { o with picked := mset o.picked u (o.oclk, s.eventsOf k u) })
    { t with free := s.free + 1 }) s

/-- The tick of an owner falls in this cycle (R337). -/
def State.tickDue (s : State) (k : Nat) : Bool := (s.owner k).admitted && decide (s.cycle % 2 ^ (s.owner k).record.tick = 0)

/-- `GLOBAL_TICK` (R337). -/
def execGlobalTick (owner : Nat) (s : State) : Host.Outcome State Fault Refusal :=
  .next (if s.tickDue owner then s.latchCounters owner 0 0 else s)

/-- A snapshot of an owner is due (R338). -/
def Owner.snapDue (o : Owner) : Bool := o.resident && o.snap.any (fun x => decide (x.1 ≤ o.oclk))

/-- `SNAPSHOT_LATCH` (R338): in the cycle c + 32 of a `SNAP`. -/
def execSnapshotLatch (owner : Nat) (s : State) : Host.Outcome State Fault Refusal :=
  .next (
    let o := s.owner owner
    if !o.snapDue then s
    else
      let s := (o.snap.filter (fun x => decide (x.1 ≤ o.oclk))).foldl (fun s x => s.latchCounters owner 1 x.2.1) s
      s.modOwner owner (fun o => { o with snap := o.snap.filter (fun x => decide (o.oclk < x.1)) }))

/-- `EXTERNAL_DEBUG_TRIGGER` (R338): the counters latch at the next round boundary. -/
def execExternalDebugTrigger (s : State) : Host.Outcome State Fault Refusal := .next { s with mgmt := { s.mgmt with trigger := true } }

/-- The latch of an external trigger, with TAG 0x0100. -/
def State.latchTrigger (s : State) : State :=
  if !s.mgmt.trigger then s
  else
    let s := (s.owners.filter (fun p => p.2.admitted)).foldl (fun s p => s.latchCounters p.1 1 0x100) s
    { s with mgmt := { s.mgmt with trigger := false } }

end Sys2Proof.Machine
end

