-- ==== Sys2Proof/Machine/Turns.lean ====
section
/-! DEFINITION. Round and session boundaries (R15, R22 to R24, R29, R43, R59), the owner switch (R27, R28, R56), the thermal slowdown (R3, R353). -/

namespace Sys2Proof.Machine

/-! ### Round boundary (R29, R43, R59) -/

/-- The seats of a quadrant that hold groups. -/
def Core.occupied (c : Core) (quad : Nat) : List Nat := (c.groups.map Prod.fst).filter (fun n => quadOf n == quad)

/-- The re-balance of a core: the rotations hold the seats with groups, ascending. -/
def Core.rebalance (c : Core) : Core := (List.range 4).foldl (fun c q => c.modQuad q (fun x => { x with rotation := c.occupied q })) c

/-- Blanks that have left the rotations become free at the end of the boundary's cycle. -/
def Core.freeBlanks (c : Core) : Core :=
  { c with seats := c.seats.filter (fun p => p.2 != .blank || (c.quad (quadOf p.1)).rotation.contains p.1) }

/-- The tokens of a pool at a round boundary. -/
def Pool.refilled (p : Pool) : Pool := { p with level := min p.cap (p.level + p.refill) }

/-- The round boundary of a resident owner. -/
def State.roundOf (s : State) (k : Nat) : State :=
  let s := s.modOwner k (fun o => { o with dies := o.dies.map (fun d => (d.1, { d.2 with pool := d.2.pool.refilled })) })
  (s.owner k).held.foldl (fun s n => s.modCore n Core.rebalance) s

/-- Resident owners, ascending. -/
def State.residents (s : State) : List Nat := (s.owners.filter (fun p => p.2.resident)).map Prod.fst

/-! ### Trade records (R20, R23, R24) -/

/-- A trade-record entry. -/
def tradeRecord (kind oclk : Nat) (x : Offer) : List Byte :=
  leBytes 16 (oclk * 2 ^ 64 + kind * 2 ^ 24 + x.dest % 8 * 2 ^ 19 + x.from_ % 8 * 2 ^ 16 + x.mask.toNat)

/-- The `OCLK` of an owner at the session boundary that ends this final round: an owner switched out then resumes with the value that it holds. -/
def State.boundaryOclk (s : State) (k : Nat) : Nat := (s.owner k).oclk + (if (s.owner k).resident then 64 else 0)

/-- The entries of a trade, for the offerer and for the recipient. -/
def State.recordTrade (s : State) (give take : Nat) (x : Offer) : State :=
  (s.ringAdd x.from_ 0 (tradeRecord give (s.boundaryOclk x.from_) x)).ringAdd x.dest 0 (tradeRecord take (s.boundaryOclk x.dest) x)

/-- Accepted trades in their order, each given and received or void. -/
def State.recordTrades (s : State) : BitVec 64 → List Offer → State
  | _, [] => s
  | t, x :: xs =>
    if s.tradeFits t x then (s.recordTrade 1 2 x).recordTrades (setEntries t x.mask x.dest) xs else (s.recordTrade 4 4 x).recordTrades t xs

/-- As the final round of a session begins nothing more can be traded (R22): the entries of what the boundary will do wait for the round's house turns
(DEDUCED, row 30 of notes/assumptions). -/
def State.recordSession (s : State) : State :=
  if phase s.cycle = 65472 then s.mgmt.offers.foldl (fun s x => s.recordTrade 3 3 x) (s.recordTrades s.mgmt.nextTable s.mgmt.accepted) else s

/-- `ROUND_BOUNDARY`. -/
def execRoundBoundary (s : State) : Host.Outcome State Fault Refusal :=
  .next (if s.cycle % 64 = 0 then (s.residents.foldl (fun s k => s.roundOf k) s).latchTrigger.recordSession else s)

/-! ### Session boundary (R15, R23) -/

/-- `SESSION_BOUNDARY`: the next table takes force with the accepted trades; offers that were not accepted expire; refills are fixed. -/
def execSessionBoundary (s : State) : Host.Outcome State Fault Refusal :=
  .next (
    if phase s.cycle != 0 then s
    else
      let m := s.mgmt
      { s with
        mgmt := { m with
          table := s.applyTrades m.nextTable m.accepted, nextTable := m.lateTable.getD m.nextTable, lateTable := none, offers := [], accepted := [] },
        owners := s.owners.map (fun p => (p.1, { p.2 with
          dies := p.2.dies.map (fun d => (d.1, { d.2 with pool := { d.2.pool with refill := d.2.pool.next } })) })) })

/-! ### Thermal slowdown (R3, R353) -/

/-- `THERMAL_EMERGENCY`: the clock is slowed. -/
def execThermalEmergency (s : State) : Host.Outcome State Fault Refusal := .next { s with mgmt := { s.mgmt with slow := true, cleared := none } }

/-- `CLOCK_RESTORE`: the condition clears; at the first session boundary after it has been clear for 1 ms the clock is restored. -/
def execClockRestore (s : State) : Host.Outcome State Fault Refusal :=
  .next (if !s.mgmt.slow then s
    else
      match s.mgmt.cleared with
      | none => { s with mgmt := { s.mgmt with cleared := some s.mgmt.gtime } }
      | some t =>
        if phase s.cycle = 0 ∧ t + 1000000 ≤ s.mgmt.gtime then { s with mgmt := { s.mgmt with slow := false, cleared := none } } else s)

/-! ### Owner switch (R27, R28, R56) -/

/-- The group has arrived at a rendezvous that is not complete. -/
def State.atRendezvous (s : State) (core : Nat) (g : Group) : Bool :=
  match g.wait with
  | some (.solve _ sid clu) => match s.regionAt core sid clu with 
      | some r => r.step.isNone && !r.outs.any (fun x => x.2.1.core == core && x.2.1.uid == g.uid)
      | none => true
  | _ => false

/-- A held seat's arrivals are withdrawn, with what its allotment gave to the budget of the join, and it stands at its `REFORM` (R51, R56). -/
def State.unjoin (s : State) (core seat : Nat) (g : Group) : State :=
  match g.wait with
  | some (.join n _ pc) =>
    let s := s.modGroup core seat (fun g => { g with wait := none, pc := pc })
    let held := (s.core core).heldSeats n |>.map (fun h => h.2.1.allot)
    let deck := (((s.core core).team.map (fun t => t.deck)).getD []).filter (fun r => r.jwait && r.jn == n) |>.map (fun r => r.bud)
    s.modJoin core n (fun j => { j with a := j.a - g.lanes.length, budget := (held ++ deck).foldl max 0 })
  | _ => s

/-- PRE for the group of a seat; a group with a trap to take before it receives none (R27, R28, R56, R303, R329, R339). -/
def State.preGroup (s : State) (core seat : Nat) : State :=
  match s.group? core seat with
  | none => s
  | some g =>
    if g.handling.isSome || hpc g.trapv == 0 || g.wait == some .debug || s.atRendezvous core g || g.mmx.any (fun m => m.raised == s.now core) then s
    else if !g.fpe.isEmpty then s.endPlay core seat
    else
      let s := ((s.unjoin core seat g).rewind core seat).modGroup core seat (fun g =>
        { g with wait := match g.wait with | some (.op _) => none | w => w })
      match s.group? core seat with
      | some g => s.takeTrap core seat g.pc (.active 8 0 0 g) g.pc
      | none => s

/-- PRE is delivered at the end of cycle S, core by core, and in ascending logical id (R27). -/
def State.deliverPre (s : State) (k : Nat) : State :=
  (s.owner k).held.foldl (fun s n =>
    if (s.core n).halt.isSome then s
    else (sortBy (fun p => s.lgid n p.1) (s.core n).groups).foldl (fun s p => s.preGroup n p.1) s) s

/-- A switch's PRE is due in this cycle. -/
def State.preDue (s : State) : Option Nat :=
  match s.mgmt.switch with
  | some w => if !w.delivered && decide (w.start ≤ s.cycle) then w.out else none
  | none => none

/-- Cycle S of a switch ends. -/
def State.settlePre (s : State) : State :=
  match s.mgmt.switch with
  | none => s
  | some w =>
    if w.delivered || decide (s.cycle < w.start) then s
    else
      let s := match w.out with | some k => s.deliverPre k | none => s
      { s with mgmt := { s.mgmt with switch := some { w with delivered := true } } }

/-- A core as it is cut off: a parked group will execute its instruction again (R28, R88). -/
def State.cutCore (s : State) (core : Nat) : State :=
  if (s.core core).halt.isSome then s
  else
    let s := (s.core core).groups.foldl (fun s p => s.rewind core p.1) s
    s.modCore core (fun c => { c with quads := c.quads.map (fun q => (q.1, q.2.endPlay)) })

/-- The base of frame `j` of the sequence of a die's save frames (R345): the frames of the owner's colours from SAVB on, in the die's two stacks by turns. -/
def Owner.saveFrame (o : Owner) (die j : Nat) : Option Nat :=
  let st := 2 * die + j % 2
  let cs := (List.range 64).filter (fun c => ((o.record.banks.drop st).head?.getD 0).getLsbD c)
  let f := (((o.record.savb.drop die).head?.getD 0).toNat + 32767) / 32768
  let first := cs.filter (fun c => decide (f % 64 ≤ c))
  let rest := j / 2 - first.length
  let frame := match first[j / 2]? with
    | some c => some (64 * (f / 64) + c)
    | none => (cs[rest % cs.length]?).map (fun c => 64 * (f / 64 + 1 + rest / cs.length) + c)
  (frame.map (fun n => 32768 * n)).bind (fun a => if a < Config.stackBytes then some (st * 2 ^ 36 + a) else none)

/-- The save frames of a core of an owner: those at 42·i to 42·i + 41, for the i-th of its assigned cores on the die (R345). -/
def Owner.saveFrames (o : Owner) (core : Nat) : List Nat :=
  let i := (o.held.filter (fun n => dieOf n == dieOf core && decide (n < core))).length
  (List.range 42).filterMap (fun j => o.saveFrame (dieOf core) (42 * i + j))

/-- A core's state goes to its save frames. How it lies in them the manual does not say, so the bytes are free (DESIGN CHOICE, row 47 of notes/assumptions). -/
def State.fillFrames (s : State) (k core : Nat) : State :=
  ((s.owner k).saveFrames core).foldl (fun s a =>
    let (bs, s) := s.freeBytes 8192
    { s with mem := s.mem.writeN a bs }) s

/-- The outgoing owner is cut off, and its cores are saved: its `OCLK` stops. -/
def State.cutOwner (s : State) (k : Nat) : State :=
  let held := (s.owner k).held
  let s := held.foldl (fun s n => (s.cutCore n).fillFrames k n) s
  let mine := s.cores.filter (fun p => held.contains p.1)
  let s := s.modOwner k (fun o => { o with resident := false, held := [], saved := mine.foldl (fun m p => mset m p.1 p.2) o.saved })
  { s with cores := s.cores.filter (fun p => !held.contains p.1) }

/-- `SWITCH_CUTOFF` (R27): at S + 8,192. -/
def execSwitchCutoff (s : State) : Host.Outcome State Fault Refusal :=
  .next (match s.mgmt.switch with
    | none => s
    | some w =>
      if w.cut || decide (s.cycle < w.start + 8192) then s
      else
        let s := match w.out with | some k => s.cutOwner k | none => s
        { s with mgmt := { s.mgmt with switch := some { w with cut := true } } })

/-- A core that an owner takes for the first time. -/
def Core.assigned (k : Nat) (dumpbase : DWord) : Core := { Core.blank with owner := some k, dumpbase := dumpbase }

/-- Groups that have yielded go on behind their `YIELD`. -/
def State.unyield (s : State) (core : Nat) : State :=
  (s.core core).groups.foldl (fun s p =>
    if p.2.wait == some .yielded then (s.modGroup core p.1 (fun g => { g with wait := none })).retired core p.1 p.2.uid 1 else s) s

/-- The incoming owner takes the cores that its switch names, each as its save frames hold it: the host keeps them from being written (R345; row 47 of notes/assumptions). -/
def State.resumeOwner (s : State) (k : Nat) (cores : List Nat) : State :=
  let o := s.owner k
  let get (n : Nat) : Core := (mget o.saved n).getD (.assigned k o.record.dumpbase)
  let s : State := { s with cores := cores.foldl (fun m n => mset m n (get n)) s.cores }
  let s := s.setOwner k { o with resident := true, held := sortBy id cores, saved := o.saved.filter (fun p => !cores.contains p.1) }
  cores.foldl (fun s n => s.unyield n) s

/-- `SWITCH_RESUME` (R27): at S + W. -/
def execSwitchResume (s : State) : Host.Outcome State Fault Refusal :=
  .next (match s.mgmt.switch with
    | none => s
    | some w =>
      if !w.cut || decide (s.cycle < w.start + w.width) then s
      else
        let s := match w.inc with | some k => s.resumeOwner k w.cores | none => s
        { s with mgmt := { s.mgmt with switch := none } })

end Sys2Proof.Machine
end

