-- ==== Sys2Proof/Machine/House.lean ====
section
/-! DEFINITION. House work and the host's accesses (R20, R32, R74, R276, R277, R335, R343). -/

namespace Sys2Proof.Machine

/-- The cycle lies in a house turn (R14). -/
def State.houseTurn (s : State) : Bool := s.turnOf == 15

/-! ### The sweep (R276, R277) -/

/-- The owner whose bank set a line of device memory belongs to (R30). -/
def State.bankOwner (s : State) (pa : Nat) : Option Nat := (s.owners.find? (fun p => p.2.admitted && p.2.colourOk pa)).map Prod.fst

/-- A store of records with the free slots of its owners cleared; an unlisted record is 0. -/
def sweepStore (f : Nat → BitVec 128 → BitVec 128) (m : Map (BitVec 128)) : Map (BitVec 128) :=
  (m.map (fun p => (p.1, f p.1 p.2))).filter (fun p => p.2 != 0)

/-- A core's records swept. -/
def Core.sweep (c : Core) (o : Owner) : Core := { c with spRace := sweepStore (fun _ r => o.sweepRecord r) c.spRace }

/-- Some record names a region id of an owner. -/
def State.idNamed (s : State) (k id : Nat) : Bool :=
  s.races.any (fun p => s.bankOwner (128 * p.1) == some k && recordNames p.2 id)
    || s.cores.any (fun c => c.2.owner == some k && c.2.spRace.any (fun p => recordNames p.2 id))
    || (s.owner k).saved.any (fun c => c.2.spRace.any (fun p => recordNames p.2 id))

/-- `REGION_ID_SWEEP`: in a house turn the free slots of every record are cleared, and an id becomes free when its region is inactive and no slot
names it. -/
def execRegionIdSweep (s : State) : Host.Outcome State Fault Refusal :=
  .next (
    if !s.houseTurn then s
    else
      let s : State := { s with
        races := sweepStore (fun n r => match s.bankOwner (128 * n) with | some k => (s.owner k).sweepRecord r | none => 0) s.races,
        cores := s.cores.map (fun p => match p.2.owner with | some k => (p.1, p.2.sweep (s.owner k)) | none => p),
        owners := s.owners.map (fun p => (p.1, { p.2 with saved := p.2.saved.map (fun c => (c.1, c.2.sweep p.2)) })) }
      { s with owners := s.owners.map (fun p => (p.1, { p.2 with
          regions := p.2.regions.filter (fun r => p.2.regionActive r.1 || s.idNamed p.1 r.1) })) })

/-! ### Refresh and scrubbing (R20, R32, R335) -/

/-- The bank lies in an admitted owner's set. -/
def State.bankHeld (s : State) (stack bank : Nat) : Bool :=
  s.owners.any (fun p => p.2.admitted && ((p.2.record.banks.drop stack).head?.getD 0).getLsbD bank)

/-- No request of the owner whose cycle it is waits at a stack (R18). -/
def State.hbmUnused (s : State) (stack : Nat) : Bool := !s.owned s.turnOf || (s.hbmQueue s.turnOf stack).isEmpty

/-- House work on a bank may begin in this cycle: in a house turn, or for a bank outside every owner's set in a cycle that its owner leaves unused. -/
def State.bankOpen (s : State) (stack bank : Nat) : Bool := s.houseTurn || (!s.bankHeld stack bank && s.hbmUnused stack)

/-- `HBM_REFRESH`: a refresh segment of a bank begins. It changes no data, and the padding of R32 covers its time. -/
def execHbmRefresh (stack bank : Nat) (s : State) : Host.Outcome State Fault Refusal :=
  .next (if s.bankOpen stack bank then
      { s with mgmt := { s.mgmt with refreshed := sset 0 s.mgmt.refreshed (64 * stack + bank) (sget 0 s.mgmt.refreshed (64 * stack + bank) + 1) } }
    else s)

/-- `HBM_SCRUB`: a line is read and checked; an uncorrectable error is a context error of the owner of its bank. -/
def execHbmScrub (line : Nat) (s : State) : Host.Outcome State Fault Refusal :=
  .next (
    let a := line / 128 * 128
    if !s.bankOpen (paStack a) (paColour a) then s
    else
      let s : State := { s with mgmt := { s.mgmt with scrubbed := sset 0 s.mgmt.scrubbed a (sget 0 s.mgmt.scrubbed a + 1) } }
      match if s.errors.contains a then s.bankOwner a else none with
      | some k => s.asyncError k a
      | none => s)

/-! ### The host (R74, R343) -/

/-- The host reaches a byte of device memory: carve-outs are not exposed. -/
def exposed (pa : Nat) : Bool := decide (pa < 2 ^ 40 ∧ paOffset pa < Config.trackable)

/-- `HOST_CXL_MEM_ACCESS` (R343): served in a house turn; the data of a read leaves the device. -/
def execHostCxlMemAccess (a : HostAccess) (s : State) : Host.Outcome State Fault Refusal :=
  .next (
    if !s.houseTurn || s.mgmt.bringup == .fwfail then s
    else
      match a.write with
      | some bs => if (List.range bs.length).all (fun i => exposed (a.address + i)) then { s with mem := s.mem.writeN a.address bs } else s
      | none =>
        if (List.range a.bytes).all (fun i => exposed (a.address + i)) then
          { s with outbox := s.outbox ++ [.hostData (s.mem.readN a.address a.bytes)] }
        else s)

/-- `CXL_CACHE_SNOOP` (R74): a host line leaves its slice; what the host has written stands in host memory. -/
def execCxlCacheSnoop (sn : HostSnoop) (s : State) : Host.Outcome State Fault Refusal :=
  .next (
    let line := pasidBase sn.pasid + sn.line / 128 * 128
    let s : State := { s with l2 := s.l2.filter (fun x => !(x.host && x.line == line)) }
    match sn.data with
    | some bs => { s with host := s.host.writeN line (bs.take 128) }
    | none => s)

end Sys2Proof.Machine
end

