-- ==== Sys2Proof/Machine/Mgmt.lean ====
section
/-! DEFINITION. Management requests (R27, R33, R345, R347), the launch doorbell (R346) and resets (R351). -/

namespace Sys2Proof.Machine

/-! ### Status words (R347) -/

/-- ACCEPTED, or REFUSED with a reason: 0 stands where the manual gives none. -/
def statusWord (refused : Option Nat) : Word :=
  match refused with
  | none => 0
  | some r => BitVec.ofNat 32 (1 + 256 * r)

/-- Answers a request. -/
def State.answered (s : State) (refused : Option Nat) : State :=
  let w := statusWord refused
  { s with mgmt := { s.mgmt with status := w }, outbox := s.outbox ++ [.status w] }

/-- The first reason whose condition holds. -/
def firstReason : List (Bool × Nat) → Option Nat
  | [] => none
  | (b, r) :: t => if b then some r else firstReason t

/-- A request with its reasons in the order of its row: its effect, and the answer. -/
def State.request (s : State) (reasons : List (Bool × Nat)) (effect : State → State) : State :=
  match firstReason reasons with
  | some r => s.answered (some r)
  | none => (effect s).answered none

/-! ### ADMIT (R345) -/

/-- The fields of an admission record. -/
def AdmitRecord.of (r : AdmitRequest) : AdmitRecord :=
  let b := r.bytes
  let d (o : Nat) : DWord := BitVec.ofNat 64 (fieldLe b o 8)
  { l1table := fieldLe b 0 8, faultq := fieldLe b 8 8, errlog := fieldLe b 16 8, telem := fieldLe b 24 8, debug := fieldLe b 32 8,
    trades := fieldLe b 40 8, queues := (List.range 4).map (fun i => fieldLe b (48 + 8 * i) 8), dumpbase := d 80, pasid := fieldLe b 88 4,
    ctx := fieldLe b 92 2, lf := fieldLe b 94 1 % 16, lq := fieldLe b 94 1 / 16, tick := fieldLe b 95 1,
    banks := (List.range 16).map (fun i => d (96 + 8 * i)), savb := (List.range 8).map (fun i => d (288 + 8 * i)), grade := fieldLe b 352 1,
    lt := fieldLe b 354 1, ways := r.ways, tlbShare := r.tlbShare, replay := r.replay, counters := r.counters, raw := b }

/-- The owner number that a record requests. -/
def admitNumber (r : AdmitRequest) : Nat := fieldLe r.bytes 353 1 % 8

/-- Refills of a die over the admitted owners but one (R33): those set for the next session (DESIGN CHOICE, row 31 of notes/assumptions). -/
def State.otherRefills (s : State) (k die : Nat) : Nat :=
  ((s.owners.filter (fun p => p.1 != k && p.2.admitted)).map (fun p => (p.2.die die).pool.next)).foldl (· + ·) 0

/-- Refills that an owner may have within the bound of R33. -/
def State.refillFits (s : State) (k : Nat) (rs : List Nat) : Bool :=
  (List.range 8).all (fun d => decide (s.otherRefills k d + rs.getD d 0 ≤ 512))

/-- L2 ways of the admitted owners but one (R5, R30). -/
def State.otherWays (s : State) (k : Nat) : Nat :=
  ((s.owners.filter (fun p => p.1 != k && p.2.admitted)).map (fun p => p.2.record.ways)).foldl (· + ·) 0

/-- The fields of a record are in range and its reserved bytes are zero: the ways of all owners together are at most the 16 of a slice (R5), an initial refill is no more
than its pool holds, and the TLB share is a number of entries of the owner's partition, up to the 8,192 of R86 (DESIGN CHOICE, row 31 of notes/assumptions). -/
def State.recordOk (s : State) (r : AdmitRequest) : Bool :=
  let a := AdmitRecord.of r
  let b := r.bytes
  decide (b.length = 512) && decide (4 ≤ a.lf) && decide (4 ≤ a.lq ∧ a.lq ≤ 12) && decide (12 ≤ a.tick ∧ a.tick ≤ 24)
    && decide (1 ≤ a.grade ∧ a.grade ≤ 64) && decide (fieldLe b 353 1 < 8) && decide (8 ≤ a.lt ∧ a.lt ≤ 20) && decide (a.pasid < 2 ^ 20)
    && (b.drop 355).all (fun x => x == 0) && decide (a.dumpbase.toNat % 64 = 0 ∧ a.dumpbase.toNat < 2 ^ 51) && a.savb.all (fun x => decide (x.toNat < 2 ^ 36))
    && decide (s.otherWays (admitNumber r) + a.ways ≤ 16) && decide (1 ≤ a.tlbShare ∧ a.tlbShare ≤ Config.l2TlbEntries) && decide (r.capacity.length = 8 ∧ r.refill.length = 8 ∧ r.replay.length = 8)
    && (List.range 8).all (fun d => decide (r.capacity.getD d 0 < 65536 ∧ r.refill.getD d 0 ≤ r.capacity.getD d 0))
    && s.refillFits (admitNumber r) r.refill

/-- A record's bank sets meet those of an admitted owner. -/
def State.banksMeet (s : State) (r : AdmitRequest) : Bool :=
  s.owners.any (fun p => p.2.admitted && ((AdmitRecord.of r).banks.zip p.2.record.banks).any (fun x => x.1 &&& x.2 != 0))

/-- The owner that a record admits: no core, not resident, full pools, empty queues. -/
def Owner.admittedBy (r : AdmitRequest) : Owner :=
  { Owner.blank with
    admitted := true, record := .of r,
    dies := (List.range 8).map (fun d =>
      let cap := r.capacity.getD d 0
      let re := r.refill.getD d 0
      (d, { DiePart.blank with pool := { cap := cap, refill := re, next := re, level := cap } })),
    queues := (List.range 4).map (fun p => (p, { packets := [], written := 0, taken := 0 })) }

/-- PI and CI of the record rings of an owner are zero. -/
def State.startRings (s : State) (r : AdmitRecord) : State :=
  { s with host := (List.range 5).foldl (fun h n => h.writeN (r.ringBase n) (leBytes 16 0)) s.host }

/-- `ADMIT`. -/
def execAdmitOwner (r : AdmitRequest) (s : State) : Host.Outcome State Fault Refusal :=
  let k := admitNumber r
  .next (if s.mgmt.bringup == .fwfail then s.answered (some 0)
    else s.request [((s.owner k).admitted, 1), (!s.recordOk r, 2), (s.banksMeet r, 3)]
      (fun s => (s.setOwner k (.admittedBy r)).startRings (.of r)))

/-! ### RETIRE, TURNS, CORES, SWITCH, REFILL (R347) -/

/-- Some entry of a table names an owner. -/
def names (t : BitVec 64) (k : Nat) : Bool := (List.range 16).any (fun i => tableEntry t i == k)

/-- What an owner's partitions hold leaves the device with it. -/
def State.dropOwner (s : State) (k : Nat) : State :=
  let s := (s.fab.inbound.filter (fun p => p.2.owner == k && !p.2.silent)).foldl (fun s p =>
    s.sendOn houseOwner (p.2.req.head.plane % 8) 0 (replyTo p.2.req .noContext [])) s
  { s with
    owners := mdel s.owners k, l2 := s.l2.filter (fun x => x.owner != k), hbm := s.hbm.filter (fun x => x.owner != k),
    walks := s.walks.filter (fun w => w.owner != k),
    fab := { s.fab with
      unacked := s.fab.unacked.filter (fun p => p.1 % 8 != k), inbound := s.fab.inbound.filter (fun p => p.2.owner != k),
      ports := s.fab.ports.filter (fun m => m.owner != k), arrived := s.fab.arrived.filter (fun m => m.owner != k) } }

/-- `RETIRE`. -/
def execRetire (owner : Nat) (s : State) : Host.Outcome State Fault Refusal :=
  .next (s.request [(!(s.owner owner).admitted, 1), ((s.owner owner).resident, 5), (names s.mgmt.table owner || names (s.nextTable true) owner, 6)]
    (fun s => s.dropOwner owner))

/-- Owners that a table must name: those that are resident, and the incoming one of a switch (R15). -/
def State.leftOut (s : State) (t : BitVec 64) : Bool := (List.range 8).any (fun k => s.mustHold k && !names t k)

/-- `TURNS` (R15): a table written in the final round is that of the session after. -/
def execTurns (table : BitVec 64) (s : State) : Host.Outcome State Fault Refusal :=
  .next (s.request
    [((List.range 16).any (fun i => decide (8 ≤ tableEntry table i ∧ tableEntry table i ≤ 14)), 7), (!names table 15, 8), (s.leftOut table, 9)]
    (fun s => if 65472 ≤ phase s.cycle then { s with mgmt := { s.mgmt with lateTable := some table } }
      else { s with mgmt := { s.mgmt with nextTable := table } }))

/-- The largest number of cores on one die. -/
def coresPerDie (ns : List Nat) : Nat := ((List.range 8).map (fun d => (ns.filter (fun n => dieOf n == d)).length)).foldl max 0

/-- `CORES` (R27). -/
def execCores (owner : Nat) (list : List Nat) (s : State) : Host.Outcome State Fault Refusal :=
  let ns := sortBy id (dedup (list.filter (fun n => decide (n < Config.numCores))))
  .next (s.request
    [(!(s.owner owner).admitted, 1), ((s.owner owner).resident, 5), (decide ((s.owner owner).record.grade < (coresPerDie ns + 6) / 7), 4)]
    (fun s => s.modOwner owner (fun o => { o with assigned := ns })))

/-- W of a switch (R27). -/
def State.switchWidth (s : State) (out inc : Option Nat) : Nat :=
  let g (k : Option Nat) : Nat := match k with | some k => (s.owner k).record.grade | none => 0
  8192 + 32768 * max (g out) (g inc)

/-- S of a switch (R27): the first cycle from now on at which the incoming owner will resume at its own phase, or the next round boundary. -/
def State.switchStart (s : State) (inc : Option Nat) (w : Nat) : Nat :=
  match inc with
  | some k => s.cycle + ((s.owner k).oclk % 65536 + (65536 - (s.cycle + w) % 65536)) % 65536
  | none => (s.cycle + 63) / 64 * 64

/-- An assigned core of an owner is held by another that stays. -/
def State.coresTaken (s : State) (out : Option Nat) (inc : Nat) : Bool :=
  s.owners.any (fun p => p.2.resident && some p.1 != out && p.2.held.any (fun n => (s.owner inc).assigned.contains n))

/-- `SWITCH`. The cores that come in are those assigned as it is accepted: a `CORES` accepted later is of the owner's switch in after this one (DEDUCED, row 32 of
notes/assumptions). -/
def execSwitch (out inc : Option Nat) (s : State) : Host.Outcome State Fault Refusal :=
  let bad (k : Option Nat) (f : Nat → Bool) : Bool := match k with | some k => f k | none => false
  .next (s.request
    [((out.isNone && inc.isNone) || bad out (fun k => !(s.owner k).admitted) || bad inc (fun k => !(s.owner k).admitted), 1),
     (bad out (fun k => !(s.owner k).resident) || bad inc (fun k => (s.owner k).resident), 11),
     (bad inc (s.coresTaken out), 12),
     (bad inc (fun k => !names s.mgmt.table k || !names (s.nextTable true) k), 13),
     (s.mgmt.switch.isSome, 14)]
    (fun s =>
      let w := s.switchWidth out inc
      let x : Switch := { out := out, inc := inc, cores := (inc.map (fun k => (s.owner k).assigned)).getD [], start := s.switchStart inc w, width := w, delivered := false, cut := false }
      { s with mgmt := { s.mgmt with switch := some x } }))

/-- `REFILL` (R29, R33): from the next session on. -/
def execRefill (owner : Nat) (values : List Nat) (s : State) : Host.Outcome State Fault Refusal :=
  let o := s.owner owner
  .next (s.request
    [(!o.admitted, 1), ((List.range 8).any (fun d => decide ((o.die d).pool.cap < values.getD d 0)), 2), (!s.refillFits owner values, 15)]
    (fun s => s.modOwner owner (fun o =>
      { o with dies := o.dies.map (fun d => (d.1, { d.2 with pool := { d.2.pool with next := values.getD d.1 0 } })) })))

/-! ### The launch doorbell (R346, R349) -/

/-- A byte of a packet; none where it cannot be translated, or lies on a peer. -/
def State.packetByte (s : State) (k va : Nat) : Option Byte :=
  if 2 ^ 51 ≤ va then none
  else
    match s.peek k va with
    | .leaf l => if l.tgt = 2 || !(s.owner k).leafColourOk l va then none
        else some ((if l.tgt = 1 then s.host else s.mem).read (l.addr va))
    | _ => none

/-- The 128 bytes of a packet. -/
def State.packetBytes (s : State) (k va : Nat) : Option (List Byte) :=
  (List.range 128).foldr (fun i acc => match s.packetByte k (va + i), acc with
    | some b, some bs => some (b :: bs)
    | _, _ => none) (some [])

/-- `LDB`: a packet of the host is appended; PRIV may be set. -/
def execLdb (owner : Nat) (va : BitVec 64) (s : State) : Host.Outcome State Fault Refusal :=
  .next (if !(s.owner owner).admitted || s.mgmt.bringup == .fwfail then s
    else
      match s.packetBytes owner va.toNat with
      | none => s.modOwner owner (fun o => { o with ldbst := 3 })
      | some bs =>
        let (st, s) := s.append owner bs true
        s.modOwner owner (fun o => { o with ldbst := BitVec.ofNat 32 st }))

/-! ### Resets (R3, R351) -/

/-- Inputs from outside keep their distance from the present cycle. -/
def rebase (cycle : Nat) (xs : List (Nat × Instr)) : List (Nat × Instr) := xs.map (fun x => (x.1 - cycle, x.2))

/-- What a cold reset leaves: the device as after reset, with its fuses, device number and what lies outside it as they are. `signed` tells whether the image that
stands in flash then carries a valid signature: without one the device reports FWFAIL. -/
def State.coldReset (s : State) (signed : Bool) : State :=
  { State.reset with
    mgmt := { Mgmt.reset with
      signed := signed, device := s.mgmt.device, boots := s.mgmt.boots + 1, bringup := if signed then .ready else .fwfail },
    host := s.host, inbox := rebase s.cycle s.inbox, outbox := s.outbox, free := s.free }

/-- `COLD_RESET` with a signed image in flash. -/
def execColdReset (s : State) : Host.Outcome State Fault Refusal := .next (s.coldReset true)

/-- `COLD_RESET` with an image in flash that is not signed. -/
def execColdResetUnsigned (s : State) : Host.Outcome State Fault Refusal := .next (s.coldReset false)

/-- `HOT_RESET`: every owner ends without a dump, and bring-up goes on from step 3; the time base and the session counter run on, and what the device knows of the
fabric's planes and peers stays (R309, R313). -/
def execHotReset (s : State) : Host.Outcome State Fault Refusal :=
  .next { State.reset with
    cycle := s.cycle, sched := { s.sched with cur := none, todo := [], late := [], pair := none },
    mgmt := { Mgmt.reset with
      signed := s.mgmt.signed, device := s.mgmt.device, boots := s.mgmt.boots, bringup := s.mgmt.bringup, gtime := s.mgmt.gtime,
      slow := s.mgmt.slow, cleared := s.mgmt.cleared },
    fab := { Fabric.reset with lost := s.fab.lost, dead := s.fab.dead, gen := s.fab.gen, quiesce := s.fab.quiesce, seen := s.fab.seen, nextSeq := s.fab.nextSeq },
    host := s.host, inbox := s.inbox, outbox := s.outbox, free := s.free }

end Sys2Proof.Machine
end

