-- ==== Sys2Proof/Machine/Attest.lean ====
section
/-! DEFINITION. SPDM 1.2 over the DOE mailbox (R352), with SHA-384 for the measurements. -/

namespace Sys2Proof.Machine

/-! ### SHA-384 -/

/-- The 80 round constants. -/
def shaK : List DWord :=
  [0x428A2F98D728AE22, 0x7137449123EF65CD, 0xB5C0FBCFEC4D3B2F, 0xE9B5DBA58189DBBC, 0x3956C25BF348B538,
   0x59F111F1B605D019, 0x923F82A4AF194F9B, 0xAB1C5ED5DA6D8118, 0xD807AA98A3030242, 0x12835B0145706FBE,
   0x243185BE4EE4B28C, 0x550C7DC3D5FFB4E2, 0x72BE5D74F27B896F, 0x80DEB1FE3B1696B1, 0x9BDC06A725C71235,
   0xC19BF174CF692694, 0xE49B69C19EF14AD2, 0xEFBE4786384F25E3, 0x0FC19DC68B8CD5B5, 0x240CA1CC77AC9C65]
  ++ [0x2DE92C6F592B0275, 0x4A7484AA6EA6E483, 0x5CB0A9DCBD41FBD4, 0x76F988DA831153B5, 0x983E5152EE66DFAB,
   0xA831C66D2DB43210, 0xB00327C898FB213F, 0xBF597FC7BEEF0EE4, 0xC6E00BF33DA88FC2, 0xD5A79147930AA725,
   0x06CA6351E003826F, 0x142929670A0E6E70, 0x27B70A8546D22FFC, 0x2E1B21385C26C926, 0x4D2C6DFC5AC42AED,
   0x53380D139D95B3DF, 0x650A73548BAF63DE, 0x766A0ABB3C77B2A8, 0x81C2C92E47EDAEE6, 0x92722C851482353B]
  ++ [0xA2BFE8A14CF10364, 0xA81A664BBC423001, 0xC24B8B70D0F89791, 0xC76C51A30654BE30, 0xD192E819D6EF5218,
   0xD69906245565A910, 0xF40E35855771202A, 0x106AA07032BBD1B8, 0x19A4C116B8D2D0C8, 0x1E376C085141AB53,
   0x2748774CDF8EEB99, 0x34B0BCB5E19B48A8, 0x391C0CB3C5C95A63, 0x4ED8AA4AE3418ACB, 0x5B9CCA4F7763E373,
   0x682E6FF3D6B2B8A3, 0x748F82EE5DEFB2FC, 0x78A5636F43172F60, 0x84C87814A1F0AB72, 0x8CC702081A6439EC]
  ++ [0x90BEFFFA23631E28, 0xA4506CEBDE82BDE9, 0xBEF9A3F7B2C67915, 0xC67178F2E372532B, 0xCA273ECEEA26619C,
   0xD186B8C721C0C207, 0xEADA7DD6CDE0EB1E, 0xF57D4F7FEE6ED178, 0x06F067AA72176FBA, 0x0A637DC5A2C898A6,
   0x113F9804BEF90DAE, 0x1B710B35131C471B, 0x28DB77F523047D84, 0x32CAAB7B40C72493, 0x3C9EBE0A15C9BEBC,
   0x431D67C49C100D4C, 0x4CC5D4BECB3E42B6, 0x597F299CFC657E2A, 0x5FCB6FAB3AD6FAEC, 0x6C44198C4A475817]

/-- The initial hash value. -/
def shaH : List DWord :=
  [0xCBBB9D5DC1059ED8, 0x629A292A367CD507, 0x9159015A3070DD17, 0x152FECD8F70E5939,
   0x67332667FFC00B31, 0x8EB44A8768581511, 0xDB0C2E0D64F98FA7, 0x47B5481DBEFA4FA4]

/-- One round on the eight working words. -/
def shaRound (v : List DWord) (kw : DWord) : List DWord :=
  match v with
  | [a, b, c, d, e, f, g, h] =>
    let t1 := h + (e.rotateRight 14 ^^^ e.rotateRight 18 ^^^ e.rotateRight 41) + ((e &&& f) ^^^ (~~~e &&& g)) + kw
    let t2 := (a.rotateRight 28 ^^^ a.rotateRight 34 ^^^ a.rotateRight 39) + ((a &&& b) ^^^ (a &&& c) ^^^ (b &&& c))
    [t1 + t2, a, b, c, d + t1, e, f, g]
  | v => v

/-- The message schedule: the next word from the last sixteen, newest first. -/
def shaNext (w : List DWord) : DWord :=
  let s0 (x : DWord) : DWord := x.rotateRight 1 ^^^ x.rotateRight 8 ^^^ (x >>> 7)
  let s1 (x : DWord) : DWord := x.rotateRight 19 ^^^ x.rotateRight 61 ^^^ (x >>> 6)
  s1 (w.getD 1 0) + w.getD 6 0 + s0 (w.getD 14 0) + w.getD 15 0

/-- One block: 16 words. -/
def shaBlock (h : List DWord) (ws : List DWord) : List DWord :=
  let sched := ((List.range 64).foldl (fun w _ => shaNext w :: w) ws.reverse).reverse
  let v := (shaK.zip sched).foldl (fun v p => shaRound v (p.1 + p.2)) h
  (h.zip v).map (fun p => p.1 + p.2)

/-- The value of bytes, the first the most significant. -/
def natBe (bs : List Byte) : Nat := bs.foldl (fun a b => 256 * a + b.toNat) 0

def bytesBe (n v : Nat) : List Byte := (leBytes n v).reverse

/-- The blocks of a padded message. -/
def shaBlocks : Nat → List Byte → List (List DWord)
  | 0, _ => []
  | n + 1, bs => (List.range 16).map (fun i => BitVec.ofNat 64 (natBe ((bs.drop (8 * i)).take 8))) :: shaBlocks n (bs.drop 128)

/-- SHA-384 of a message, 48 bytes. -/
def sha384 (m : List Byte) : List Byte :=
  let n := (m.length + 17 + 127) / 128
  let msg := m ++ [0x80] ++ List.replicate (128 * n - m.length - 17) 0 ++ bytesBe 16 (8 * m.length)
  (((shaBlocks n msg).foldl shaBlock shaH).take 6).flatMap (fun w => bytesBe 8 w.toNat)

/-! ### Messages -/

/-- A response: version 1.2, code, two parameters. -/
def spdmHead (code p1 p2 : Nat) : List Byte := [0x12, BitVec.ofNat 8 code, BitVec.ofNat 8 p1, BitVec.ofNat 8 p2]

def State.modSpdm (s : State) (f : Spdm → Spdm) : State := { s with mgmt := { s.mgmt with spdm := f s.mgmt.spdm } }

/-- Sends a response. -/
def State.spdmSend (s : State) (bs : List Byte) : State :=
  (s.emit (.spdm bs)).modSpdm (fun x => { x with transcript := x.transcript ++ bs })

/-- A request joins the transcript, as far as its event carries it (row 9 of notes/assumptions). -/
def State.spdmAsk (s : State) (bs : List Byte) : State := s.modSpdm (fun x => { x with transcript := x.transcript ++ bs })

/-- An ERROR response: 0x01 InvalidRequest, 0x04 UnexpectedRequest, 0x07 UnsupportedRequest. -/
def State.spdmError (s : State) (code data : Nat) : State := s.spdmSend (spdmHead 0x7F code data)

/-- A request that the connection is ready for. -/
def State.spdmWhen (s : State) (ready : Bool) (f : State → State) : State := if ready then f s else s.spdmError 0x04 0

/-- Algorithms have been agreed. -/
def Spdm.agreed (x : Spdm) : Bool := x.version && x.capabilities && x.algorithms

/-- 32 bytes that the device draws. -/
def State.nonce (s : State) : List Byte × State :=
  ((List.range 8).flatMap (fun i => wordBytes (Config.freeWord (s.free + i))), { s with free := s.free + 8 })

/-- The certificate chain. -/
def chain : List Byte := (List.range Config.certificateBytes).map Config.certificate

/-- `GET_VERSION`: it begins a connection. -/
def execGetVersion (s : State) : Host.Outcome State Fault Refusal :=
  .next ((s.modSpdm (fun _ => { version := true, capabilities := false, algorithms := false, transcript := [0x10, 0x84, 0, 0] })).spdmSend [0x10, 0x04, 0, 0, 0, 1, 0x00, 0x12])

/-- `GET_CAPABILITIES`: certificates, challenge, signed measurements. -/
def execGetCapabilities (s : State) : Host.Outcome State Fault Refusal :=
  .next ((s.spdmAsk (spdmHead 0xE1 0 0)).spdmWhen s.mgmt.spdm.version (fun s =>
    (s.modSpdm (fun x => { x with capabilities := true })).spdmSend
      (spdmHead 0x61 0 0 ++ [0, (Config.spdmLimit 0).extractLsb' 0 8, 0, 0] ++ leBytes 4 0x16 ++ wordBytes (Config.spdmLimit 1)
        ++ wordBytes (Config.spdmLimit 2))))

/-- `NEGOTIATE_ALGORITHMS`: ECDSA P-384, bit 7 of the requester's mask, and SHA-384, bit 1, only. -/
def execNegotiateAlgorithms (asym hash : Nat) (s : State) : Host.Outcome State Fault Refusal :=
  .next ((s.spdmAsk (spdmHead 0xE3 0 0 ++ leBytes 4 asym ++ leBytes 4 hash)).spdmWhen (s.mgmt.spdm.version && s.mgmt.spdm.capabilities) (fun s =>
    let a := if asym.testBit 7 then 0x80 else 0
    let h := if hash.testBit 1 then 2 else 0
    (s.modSpdm (fun x => { x with algorithms := decide (a ≠ 0 ∧ h ≠ 0) })).spdmSend
      (spdmHead 0x63 0 0 ++ leBytes 2 36 ++ [1, 0] ++ leBytes 4 4 ++ leBytes 4 a ++ leBytes 4 h ++ leBytes 16 0)))

/-- `GET_DIGESTS`: of the chain in slot 0. -/
def execGetDigests (s : State) : Host.Outcome State Fault Refusal :=
  .next ((s.spdmAsk (spdmHead 0x81 0 0)).spdmWhen s.mgmt.spdm.agreed (fun s => s.spdmSend (spdmHead 0x01 0 1 ++ sha384 chain)))

/-- `GET_CERTIFICATE`: a portion of the chain. -/
def execGetCertificate (offset length : Nat) (s : State) : Host.Outcome State Fault Refusal :=
  .next ((s.spdmAsk (spdmHead 0x82 0 0 ++ leBytes 2 offset ++ leBytes 2 length)).spdmWhen s.mgmt.spdm.agreed (fun s =>
    if Config.certificateBytes ≤ offset then s.spdmError 0x01 0
    else
      let part := (chain.drop offset).take length
      s.spdmSend (spdmHead 0x02 0 0 ++ leBytes 2 part.length ++ leBytes 2 (Config.certificateBytes - offset - part.length) ++ part)))

/-- `CHALLENGE`: the device signs the transcript with the requester's nonce and its own. -/
def execChallenge (nonce : BitVec 256) (s : State) : Host.Outcome State Fault Refusal :=
  .next ((s.spdmAsk (spdmHead 0x83 0 0 ++ leBytes 32 nonce.toNat)).spdmWhen s.mgmt.spdm.agreed (fun s =>
    let (own, s) := s.nonce
    let msg := spdmHead 0x03 0 1 ++ sha384 chain ++ own ++ leBytes 2 0
    let sig := Config.signature s.mgmt.boots (s.mgmt.spdm.transcript ++ msg)
    s.spdmSend (msg ++ leBytes 96 sig.toNat)))

/-- A measurement's value (R352). -/
def State.measurement (s : State) (i : Nat) : List Byte :=
  if i = 1 then leBytes 48 (Config.firmwareDigest s.mgmt.boots).toNat
  else if i = 2 then leBytes 48 (Config.fuseConfig 0).toNat
  else
    let o := s.owner (i - 3)
    if o.admitted then sha384 o.record.raw else List.replicate 48 0

/-- A measurement block. -/
def State.measurementBlock (s : State) (i : Nat) : List Byte :=
  [BitVec.ofNat 8 i, 1] ++ leBytes 2 51 ++ [if i = 1 then 1 else if i = 2 then 2 else 3] ++ leBytes 2 48 ++ s.measurement i

/-- `GET_MEASUREMENTS`: of an index from 1 to 10, of all at 255; at 0 their number. With a nonce of the requester the device signs the transcript. -/
def execGetMeasurements (m : MeasureAsk) (s : State) : Host.Outcome State Fault Refusal :=
  let ask := spdmHead 0xE0 (if m.nonce.isSome then 1 else 0) m.index ++ (match m.nonce with | some n => leBytes 32 n.toNat | none => [])
  .next ((s.spdmAsk ask).spdmWhen s.mgmt.spdm.agreed (fun s =>
    let send (n : Nat) (is : List Nat) (s : State) : State :=
      let (own, s) := s.nonce
      let bs := is.flatMap s.measurementBlock
      let msg := spdmHead 0x60 n 0 ++ [BitVec.ofNat 8 is.length] ++ leBytes 3 bs.length ++ bs ++ own ++ leBytes 2 0
      s.spdmSend (msg ++ (if m.nonce.isSome then leBytes 96 (Config.signature s.mgmt.boots (s.mgmt.spdm.transcript ++ msg)).toNat else []))
    if m.index = 0 then send 10 [] s
    else if m.index = 255 then send 0 ((List.range 10).map (· + 1)) s
    else if m.index ≤ 10 then send 0 [m.index] s
    else s.spdmError 0x01 0))

/-- `UNSUPPORTED_REQUEST`: any other request. -/
def execUnsupportedRequest (code : Nat) (s : State) : Host.Outcome State Fault Refusal := .next (s.spdmError 0x07 code)

end Sys2Proof.Machine
end

