-- ==== Sys2Proof/Machine/Sync.lean ====
section
/-! DEFINITION. Barriers (R173 to R175), fences (R181 to R185) and the commit token's instructions (R186). -/

namespace Sys2Proof.Machine

/-! ### Barriers -/

/-- The barrier that SMOD names: cluster scope, and number (R173). -/
def barClu (f : FmtS) : Bool := f.smod.getLsbD 4
def barNum (f : FmtS) : Nat := (f.smod.extractLsb' 0 4).toNat

/-- Arrivals of a cycle at a barrier: counted at its end (R175). The widest scope at which one orders is kept for the completion (R75). -/
def State.arrive (s : State) (core : Nat) (f : FmtS) (cnt : Nat) : State :=
  let b := s.barrier core (barClu f) (barNum f)
  s.setBarrier core (barClu f) (barNum f) { b with newA := b.newA + cnt, ord := max b.ord ((barScope f.smod).getD 0) }

/-- An ordered arrival ends its group's region (R262, R275). -/
def State.barRegion (s : State) (c : Ctx) (f : FmtS) : State := if (barScope f.smod).isSome then s.newRegion c.core c.seat else s

/-- `BARR` (R174): returns G as it stands before this cycle's completion. -/
def execBarr (f : FmtS) (s : State) : Host.Outcome State Fault Refusal :=
  issue (.barr f) (fun c s =>
    let g := (s.barrier c.core (barClu f) (barNum f)).g
    let s := s.writeScalar c f.dst 1 (c.now + 1) (g.zeroExtend 64)
    .ok ((s.arrive c.core f (c.effLanes f.hdr.guard).length).barRegion c f)) s

/-- `BARW` (R174): arrives and waits; the holder passes the token first (R283). -/
def execBarw (f : FmtS) (s : State) : Host.Outcome State Fault Refusal :=
  issue (.barw f) (fun c s =>
    let g := (s.barrier c.core (barClu f) (barNum f)).g
    let s := s.tokenPass c.core c.seat
    let s := (s.arrive c.core f (c.effLanes f.hdr.guard).length).barRegion c f
    let s := s.modGroup c.core c.seat (fun x => { x with wait := some (.barrier (barClu f) (barNum f) g.toNat (barScope f.smod)) })
    .ok (s.endPlay c.core c.seat)) s

/-- `BARA` (R174): arrives for opA[15:0] threads. -/
def execBara (f : FmtS) (s : State) : Host.Outcome State Fault Refusal :=
  issue (.bara f) (fun c s =>
    let g := (s.barrier c.core (barClu f) (barNum f)).g
    let s := s.writeScalar c f.dst 1 (c.now + 1) (g.zeroExtend 64)
    .ok ((s.arrive c.core f ((c.sval32 f.a).extractLsb' 0 16).toNat).barRegion c f)) s

/-- `BARM` (R174): sets the count at the end of the cycle, before its arrivals (R175). -/
def execBarm (f : FmtS) (s : State) : Host.Outcome State Fault Refusal :=
  issue (.barm f) (fun c s =>
    let n := ((c.sval32 f.a).extractLsb' 0 16).toNat
    if n < 1 ∨ 12288 < n then .error c.fatalIllegal
    else
      let b := s.barrier c.core (barClu f) (barNum f)
      .ok (s.setBarrier c.core (barClu f) (barNum f) { b with newC := some n })) s

/-- `BARQ` (R174). -/
def execBarq (f : FmtS) (s : State) : Host.Outcome State Fault Refusal :=
  issue (.barq f) (fun c s =>
    .ok (s.writeScalar c f.dst 1 (c.now + 1) ((barqWord (s.barrier c.core (barClu f) (barNum f))).zeroExtend 64))) s

/-- `BARV` (R174): waits until G differs from opA[15:0], then acquires at the scope of the barrier's default ordering (R262). -/
def execBarv (f : FmtS) (s : State) : Host.Outcome State Fault Refusal :=
  issue (.barv f) (fun c s =>
    let g := (s.barrier c.core (barClu f) (barNum f)).g
    let old := (c.sval32 f.a).extractLsb' 0 16
    let sc := if barClu f then 2 else 1
    let s := (s.tokenPass c.core c.seat).newRegion c.core c.seat
    if g != old then .ok ((s.modCore c.core (fun co => co.acquire sc)).retired c.core c.seat c.g.uid 1)
    else
      let s := s.modGroup c.core c.seat (fun x => { x with wait := some (.barrier (barClu f) (barNum f) old.toNat (some sc)) })
      .ok (s.endPlay c.core c.seat)) s

/-! ### Fences -/

/-- The status of a fence (R181), written at the end of this cycle, or of the next one when it waited for nothing (`late` 1, R354). -/
def State.fenceReport (s : State) (core seat scope : Nat) (dst : Option Nat) (late : Nat) : State :=
  match dst with
  | none => s
  | some d => s.modGroup core seat (fun g =>
      { (g.setSreg d (fenceStatus (if 4 ≤ scope then g.remote else none))).markRegs (.s (BitVec.ofNat 6 d)) 1 (s.now core + late) with
        remote := if 4 ≤ scope then none else g.remote })

/-- A fence completes (R75, R181, R182): the acquire, the status, and the group goes on. It has retired once its status is written (R287). -/
def State.fenceEnd (s : State) (core seat scope acq : Nat) (dst : Option Nat) (late : Nat) : State :=
  match s.group? core seat with
  | none => s
  | some g =>
    let now := s.now core
    let s := (s.modCore core (fun c => c.acquire acq)).fenceReport core seat scope dst late
    let s := s.modGroup core seat (fun g => { g with wait := none, wake := now + 1, remote := if 4 ≤ scope then none else g.remote })
    s.retiredAt core seat g.uid (if dst.isSome then now + late else now)

/-- A fence of the issuing group (R182), whose drains have started: the group waits until its earlier accesses are performed at the scope, and without a
release part its earlier atomics, through which an acquire fence synchronises (R263). Its status does not wait for reads, nor for anything without a release
part (R354). -/
def Ctx.fence (c : Ctx) (s : State) (rel : Bool) (scope acq : Nat) (dst limit : Option Nat) : State :=
  let s := s.newRegion c.core c.seat
  let upTo := (s.core c.core).nextOp
  if (s.core c.core).unacked c.g rel upTo scope c.now then
    let owed := (s.core c.core).unreported c.g rel upTo scope c.now
    let s := if owed then s else s.fenceReport c.core c.seat scope dst 1
    (s.modGroup c.core c.seat (fun g => { g with wait := some (.fence rel upTo scope acq (if owed then dst else none) limit) })).endPlay c.core c.seat
  else s.fenceEnd c.core c.seat scope acq dst 1

/-- `FENCE` (R75, R182). -/
def execFence (f : FmtS) (s : State) : Host.Outcome State Fault Refusal :=
  issue (.fence f) (fun c s =>
    let scope := (f.smod.extractLsb' 0 3).toNat
    .ok (c.fence s ((f.smod.extractLsb' 3 2).toNat != 1) scope scope (if f.smod.getLsbD 5 then some (regNum f.dst) else none) none)) s

/-- `AFENCE` (R184): the L1 loses its lines whatever the scope. -/
def execAfence (f : FmtS) (s : State) : Host.Outcome State Fault Refusal :=
  issue (.afence f) (fun c s =>
    let scope := (f.smod.extractLsb' 0 3).toNat
    .ok (c.fence s true scope (max 2 scope) none none)) s

/-- `SYSF` (R185): a fence at system scope that gives up waiting after 2 ms. -/
def execSysf (f : FmtS) (s : State) : Host.Outcome State Fault Refusal :=
  issue (.sysf f) (fun c s => .ok (c.fence s true 4 4 (some (regNum f.dst)) (some (s.fabricTime + sysfLimit)))) s

/-- An operation of a path that the group's threads issued before number `upTo` has not completed (R183, R197, R259): a collective has, once its STATUS is
written. -/
def State.pathBusy (s : State) (core : Nat) (g : Group) (path upTo : Nat) : Bool :=
  let c := s.core core
  let ls (k : OpKind) : Bool := match k with
    | .load .. => true
    | .store => true
    | .atomic _ => true
    | .atf .. => true
    | .tld .. => true
    | .tst .. => true
    | .systemStore => true
    | .packet => true
    | _ => false
  let cl (k : OpKind) : Bool := match k with
    | .tqpop => true
    | .tqsteal => true
    | .tqdone => true
    | _ => false
  let ops (p : OpKind → Bool) : Bool := c.ops.any (fun o => decide (o.1 < upTo) && p o.2.kind && meets o.2.tids g.tids)
  match path with
  | 0 => ops ls
  | 1 => c.quads.any (fun q => q.2.copies.any (fun x => meets x.tids g.tids))
  | 2 => c.quads.any (fun q => q.2.engine.any (fun x => meets x.tids g.tids))
  | 3 => false
  | _ => ops cl || ((s.owner (s.ownerOf core)).dies.any (fun d => d.2.colls.any (fun k => k.2.core == core && meets k.2.tids g.tids)))

/-- `XFENCE` (R183). The writes of a copy and of a collective have left no line of theirs in the core's L1 (R268). -/
def execXfence (f : FmtS) (s : State) : Host.Outcome State Fault Refusal :=
  issue (.xfence f) (fun c s =>
    let path := (f.smod.extractLsb' 0 3).toNat
    let s := s.newRegion c.core c.seat
    let upTo := (s.core c.core).nextOp
    if s.pathBusy c.core c.g path upTo then
      .ok ((s.modGroup c.core c.seat (fun g => { g with wait := some (.xfence path upTo) })).endPlay c.core c.seat)
    else .ok (s.retired c.core c.seat c.g.uid 1)) s

/-- A waiting fence that has nothing left to wait for completes. -/
def State.settleFence (s : State) (core seat : Nat) : State :=
  match s.group? core seat with
  | none => s
  | some g =>
    match g.wait with
    | some (.fence rel upTo scope acq dst limit) =>
      let waits := match limit with | some t => decide (s.fabricTime < t) | none => true
      if waits && (s.core core).unacked g rel upTo scope (s.now core) then
        if dst.isNone || (s.core core).unreported g rel upTo scope (s.now core) then s
        else (s.fenceReport core seat scope dst 0).modGroup core seat (fun g => { g with wait := some (.fence rel upTo scope acq none limit) })
      else s.fenceEnd core seat scope acq dst 0
    | some (.xfence path upTo) =>
      if s.pathBusy core g path upTo then s
      else (s.modGroup core seat (fun g => { g with wait := none, wake := s.now core + 1 })).retired core seat g.uid 1
    | _ => s

/-! ### The commit token (R186, R285) -/

/-- `TOKW`: a `NOP` outside DET; under DET it issues once the group holds the token, and ends its region. -/
def execTokw (f : FmtS) (s : State) : Host.Outcome State Fault Refusal :=
  issue (.tokw f) (fun c s => .ok (if s.det c.core then s.newRegion c.core c.seat else s)) s

/-- `TOKP`: a `NOP` outside DET; under DET the holder passes the token. -/
def execTokp (f : FmtS) (s : State) : Host.Outcome State Fault Refusal :=
  issue (.tokp f) (fun c s =>
    .ok (if s.det c.core && s.holdsToken c.core c.g then (s.tokenPass c.core c.seat).newRegion c.core c.seat else s)) s

end Sys2Proof.Machine
end

