-- ==== Sys2Proof/Machine/Sched.lean ====
section
/-! DEFINITION. What the machine does next (MODEL; DESIGN CHOICE, row 1 of notes/assumptions): the stages of a device cycle, the inputs that are taken, what a quadrant issues
(R43, R44, R117 to R123, R130, R246), and the events of a cycle in their order. -/

namespace Sys2Proof.Machine

/-! ### Cores that run -/

/-- Cores of resident owners, ascending. -/
def State.activeCores (s : State) : List Nat := sortBy id (s.residents.flatMap (fun k => (s.owner k).held))

/-- The owner whose cycle this is (R16). -/
def State.turnOwner (s : State) : Option Nat := if s.owned s.turnOf then some s.turnOf else none

def State.overCores (s : State) (f : State → Nat → State) : State := s.activeCores.foldl f s
def State.overQuads (s : State) (f : State → Nat → Nat → State) : State := s.overCores (fun s n => (List.range 4).foldl (fun s q => f s n q) s)
def State.listCores (s : State) (f : Nat → List Instr) : List Instr := s.activeCores.flatMap f
def State.listQuads (s : State) (f : Nat → Nat → List Instr) : List Instr := s.listCores (fun n => (List.range 4).flatMap (f n))
def iff (b : Bool) (i : Instr) : List Instr := if b then [i] else []

/-! ### The boundary (R13) -/

/-- Events that a cycle begins with. -/
def State.boundaryList (s : State) : List Instr :=
  let w := s.mgmt.switch
  iff (phase s.cycle == 0) .sessionBoundary ++ iff (phase s.cycle == 0 && s.mgmt.slow && s.mgmt.cleared.isSome) .clockRestore
    ++ iff (match w with | some x => !x.cut && decide (x.start + 8192 ≤ s.cycle) | none => false) .switchCutoff
    ++ iff (match w with | some x => decide (x.start + x.width ≤ s.cycle) | none => false) .switchResume
    ++ iff (s.cycle % 64 == 0) .roundBoundary

/-! ### Inputs -/

/-- Events that come from outside the part. -/
def isInput : Instr → Bool
  | .responseArrival _ => true
  | .externalDebugTrigger => true
  | .hbmRefresh _ _ => true
  | .hbmScrub _ => true
  | .remoteRequestArrival _ => true
  | .keepWaitingNotice _ => true
  | .peerLost _ => true
  | .peerReadmit _ => true
  | .planeDead _ => true
  | .linkReplay _ _ => true
  | .linkAck _ _ _ => true
  | .chunkContributionArrival _ => true
  | .failureNotice _ => true
  | .scorecardStamp _ => true
  | .thermalEmergency => true
  | .clockRestore => true
  | .coldReset => true
  | .coldResetUnsigned => true
  | .hotReset => true
  | .hostCxlMemAccess _ => true
  | .ldb _ _ => true
  | .fansResume _ _ => true
  | .fansNomap _ _ => true
  | .fansFrameUnavailable _ _ => true
  | .crel _ _ => true
  | .dres _ _ _ => true
  | .admitOwner _ => true
  | .retire _ => true
  | .turns _ => true
  | .cores _ _ => true
  | .switch _ _ => true
  | .refill _ _ => true
  | .getVersion => true
  | .getCapabilities => true
  | .negotiateAlgorithms _ _ => true
  | .getDigests => true
  | .getCertificate _ _ => true
  | .challenge _ => true
  | .getMeasurements _ => true
  | .unsupportedRequest _ => true
  | .cxlCacheSnoop _ => true
  | _ => false

/-- An input that has come at device cycle `t` can be taken: a completion of the host when the CXL port serves it, in a cycle of its owner; house work waits for its turn
(R18 to R20, R32). What comes in at a plane port is taken up at once, and waits there. -/
def State.inputReady (s : State) (t : Nat) : Instr → Bool
  | .responseArrival r =>
    r.head.isSome || !(s.owner r.owner).admitted || (s.owned r.owner && s.cxlFree r.owner ((s.owner r.owner).oclk - (s.cycle - t)) 0)
  | .linkReplay _ k => s.owned k
  | .hostCxlMemAccess _ => s.houseTurn
  | .hbmRefresh st b => s.bankOpen st b
  | .hbmScrub l => s.bankOpen (paStack l) (paColour l)
  | _ => true

/-- The first input that can be taken, and those that remain. -/
def takeFirst (p : Nat × Instr → Bool) : List (Nat × Instr) → Option (Instr × List (Nat × Instr))
  | [] => none
  | x :: xs => if p x then some (x.2, xs) else (takeFirst p xs).map (fun r => (r.1, x :: r.2))

def State.nextInput (s : State) : Option (Instr × State) :=
  (takeFirst (fun x => decide (x.1 ≤ s.cycle) && isInput x.2 && s.inputReady x.1 x.2) s.inbox).map (fun r => (r.1, { s with inbox := r.2 }))

/-! ### Slots (R43, R243) -/

/-- The seat whose slot comes next. -/
def Quad.nextSeat (q : Quad) : Option Nat :=
  match q.holder with
  | none => q.rotation.head?
  | some (x, _) => (q.rotation.find? (fun n => decide (x < n))).or q.rotation.head?

/-- A slot begins every 4 cycles. -/
def State.beginSlot (s : State) (core quad : Nat) : State :=
  if s.cycle % 4 != 0 then s
  else s.modQuad core quad (fun q => { q with holder := q.nextSeat.map (fun n => (n, s.now core)), ended := false, latches := [] })

/-- A play that has not ended ends with its slot. -/
def State.closeSlot (s : State) (core quad : Nat) : State :=
  let q := (s.core core).quad quad
  match q.holder with
  | some (seat, _) => if q.ended then s else s.endPlay core seat
  | none => s

/-! ### Checks before decoding (R117, R118, R120, R122) -/

/-- Registers and handles that an instruction writes: kind, first, count. -/
def writesOf (i : Instr) : Option (Nat × Nat × Nat) :=
  match row? i with
  | none => none
  | some r =>
    if r.hdr.nwb then none
    else
      let n : Nat := match r.dk with | .reg n => n | .lat n => n | .v n => n | .s n => n | _ => 1
      match r.dk, r.dst with
      | .zero, _ => none
      | _, .v x => some (0, x.toNat, n)
      | _, .s x => some (1, x.toNat, n)
      | _, .h x => some (2, x.toNat, 1)
      | _, .b _ => none

/-- The two instructions of a pair clash: one register or handle, or the multiply-add unit (R122, R245). -/
def pairClash (a b : Instr) : Bool :=
  let both := match writesOf a, writesOf b with
    | some (k, x, n), some (l, y, m) => k == l && decide (x < y + m ∧ y < x + n)
    | _, _ => false
  let fma (i : Instr) : Bool := match row? i with | some r => decide (0 < r.fma) | none => false
  both || (fma a && fma b)

/-- The pair classes of two words allow a pair (R122). -/
def classesPair (w1 w2 : IWord) : Bool :=
  match pairClass w1.opc, pairClass w2.opc with
  | .p, .p => true
  | .p, .m => true
  | .m, .p => true
  | _, _ => false

/-- The checks of a line that a group comes to issue from. -/
inductive LineCheck where
  | ok
  | refetch
  | fatal (cause : Nat) (addr : Nat)
deriving DecidableEq, Repr

/-- The first slot of the first pair of a line that its line word does not allow (R118, R326). -/
def badPairSlot (line : List Byte) : Nat := ((List.range 4).find? (fun i => linePair line i && (linePair line (i + 1) || lineTmask line (i + 1)))).getD 0

/-- Parity, the line word on the first issue from it, and the target of a checked transfer (R117, R118, R120). -/
def Group.checkLine (g : Group) (l : CodeLine) : LineCheck :=
  if !lineParityOk l.bytes then (if l.again then .fatal 0x26 l.line else .refetch)
  else if !l.checked && lineReserved l.bytes then .fatal 0x23 g.pc
  else if !l.checked && lineBadPair l.bytes then .fatal 0x25 (l.line + 12 * badPairSlot l.bytes)
  else if g.tcheck && (!pcOk g.pc || !lineTmask l.bytes (slotOf g.pc)) then .fatal 0x24 g.pc
  else .ok

/-- What issues at a group's PC: a slot, a pair with the lower slot's trouble found first, or a fault of decoding. -/
inductive Upcoming where
  | one (i : Instr)
  | two (i j : Instr)
  | fatal (cause : Nat) (addr : Nat)
  /-- The lower slot decodes and the higher does not. -/
  | half (i : Instr) (addr : Nat)
deriving DecidableEq, Repr

/-- Decodes what a line holds at a group's PC (R122, R130). -/
def Group.decodeAt (g : Group) (line : List Byte) : Upcoming :=
  let w1 := slotWord line (slotOf g.pc)
  if (g.issuePcs line).length = 1 then
    match decode w1 with
    | .ok i => .one i
    | .error _ => .fatal 0x23 g.pc
  else
    let w2 := slotWord line (slotOf (nextPc g.pc))
    if !classesPair w1 w2 then .fatal 0x25 g.pc
    else
      match decode w1, decode w2 with
      | .ok i, .ok j => if pairClash i j then .fatal 0x25 g.pc else .two i j
      | .ok i, .error _ => .half i (nextPc g.pc)
      | .error _, _ => .fatal 0x23 g.pc

/-! ### Issue (R44, R123, R130) -/

def State.issuing (s : State) (u : Issuing) (i : Instr) : Option Instr × State := (some i, { s with sched := { s.sched with cur := some u } })

/-- The instruction passes its checks and is ready. -/
def State.goes (s : State) (i : Instr) (c : Ctx) : Bool := (precheck i c).isNone && (s.solveCheck i c).isNone && s.ready i c

/-- One instruction comes to issue: an `EVWAIT` after the cycle's other issue, when every addition of the cycle has been made (R188). -/
def State.issueOne (s : State) (core quad seat : Nat) (i : Instr) (late : Bool) : Option Instr × State :=
  let u : Issuing := { core := core, quad := quad, seat := seat, snap := none }
  match s.ctx? u with
  | none => (none, s)
  | some c =>
    let waits := match i with | .evwait _ => !late && (precheck i c).isNone | _ => false
    if waits then (none, { s with sched := { s.sched with late := s.sched.late ++ [(core, quad)] } })
    else (if s.goes i c then s.serves c.owner (coreUnit core 0) else s).issuing u i

/-- A pair comes to issue: both instructions, or none. -/
def State.issueTwo (s : State) (core quad seat : Nat) (i j : Instr) : Option Instr × State :=
  let u : Issuing := { core := core, quad := quad, seat := seat, snap := none }
  let snap := (s.core core, s.owner (s.ownerOf core))
  let v : Issuing := { u with snap := some snap }
  match s.ctx? u, s.ctx? v with
  | some c, some d =>
    match precheck i c, precheck j d with
    | some t, _ => (none, s.raise u t)
    | none, some t => (none, s.raise v t)
    | none, none =>
      let a := s.ready i c
      let b := s.ready j d
      if a && b then
        let s := s.serves c.owner (coreUnit core 0)
        ({ s with sched := { s.sched with pair := some (j, snap) } }).issuing u i
      else
        let s := if a then s else s.unready i c
        let s := if b then s else s.unready j d
        (none, s.endPlay core seat)
  | _, _ => (none, s)

/-- A group comes to issue from a line that it holds. -/
def State.issueFrom (s : State) (core quad seat : Nat) (g : Group) (l : CodeLine) (late : Bool) : Option Instr × State :=
  match g.checkLine l with
  | .fatal cause addr => (none, s.groupFatal core seat cause 0 (BitVec.ofNat 64 addr))
  | .refetch => (none, (s.refetch core seat l.line).endPlay core seat)
  | .ok =>
    let s := if l.checked then s else s.modGroup core seat (fun g =>
      { g with lines := g.lines.map (fun x => if x.line == l.line then { x with checked := true } else x) })
    match g.decodeAt l.bytes with
    | .fatal cause addr => (none, s.groupFatal core seat cause 0 (BitVec.ofNat 64 addr))
    | .one i => s.issueOne core quad seat i late
    | .two i j => s.issueTwo core quad seat i j
    | .half i addr =>
      let u : Issuing := { core := core, quad := quad, seat := seat, snap := none }
      match (s.ctx? u).bind (fun c => precheck i c) with
      | some t => (none, s.raise u t)
      | none => (none, s.groupFatalAt core seat addr 0x23 0 (BitVec.ofNat 64 addr))

/-- An access of the group to a SHARED page waits for the token (R284). -/
def State.tokenWaits (s : State) (core seat : Nat) (g : Group) : Bool :=
  s.det core && (s.core core).ops.any (fun p => p.2.seat == seat && p.2.uid == g.uid && s.tokenHeld core p.2)

/-- The code line that a group can issue from in cycle `now`. -/
def Group.heldLine (g : Group) (now : Nat) : Option CodeLine :=
  g.lines.find? (fun l => l.line == g.pc / 64 * 64 && (match l.ready with | some t => decide (t ≤ now) | none => false))

/-- What a seated group does in a cycle of its play. One whose region has found no free id waits for it (R276). -/
def State.playGroup (s : State) (core quad seat : Nat) (g : Group) (late : Bool) : Option Instr × State :=
  let now := s.now core
  if !((s.core core).parkedOps seat g.uid).isEmpty || decide (now < g.wake) || s.tokenWaits core seat g || (s.core core).kept seat g.uid then (none, s.endPlay core seat)
  else if g.mmxDue then (some (.mmx core seat), s)
  else if g.wait.isSome then (none, s.endPlay core seat)
  else if g.region.isNone && !s.regionFree core then (none, s.endPlay core seat)
  else
    let s := if g.region.isNone then s.newRegion core seat else s
    match g.heldLine now with
    | some l => s.issueFrom core quad seat g l late
    | none => (none, (s.modCore core (fun c => c.requestLine seat (g.pc / 64 * 64) now true)).endPlay core seat)

/-- A quadrant's cycle. -/
def State.playQuad (s : State) (core quad : Nat) (late : Bool) : Option Instr × State :=
  let q := (s.core core).quad quad
  match q.holder with
  | none => (none, s)
  | some (seat, _) =>
    match if q.ended then none else s.group? core seat with
    | none => (none, s)
    | some g => s.playGroup core quad seat g late

/-- The group has taken no trap and no fault since. -/
def untroubled (c0 c : Core) (g0 g : Group) : Bool := g.uid == g0.uid && g.handling == g0.handling && c.faults.length == c0.faults.length

/-- The group waits for a read that comes before the effect of its instruction. -/
def State.probing (s : State) (core : Nat) (g : Group) : Bool :=
  match g.wait with
  | some (.op id) => ((s.op? core id).map (fun o => o.kind.isProbe)).getD false
  | _ => false

/-- The play ends as an `ATF` has issued, with what its instructions have raised (R180, R328). -/
def State.endAttempt (s : State) (u : Issuing) : State :=
  match (s.group? u.core u.seat).bind (fun g => g.wait) with
  | some (.op id) => if ((s.op? u.core id).map (fun o => match o.kind with | .atf .. => true | _ => false)).getD false then s.endPlay u.core u.seat else s
  | _ => s

/-- A fatal fault that the access of a pair's higher slot has met stops the group before the pair takes effect (R123). -/
def State.stopPair (s : State) (u : Issuing) (g : Group) : State :=
  ((s.undoPair u).modCore u.core (fun c => { c with faults := (s.core u.core).faults }.endPlayOf u.seat)).modGroup u.core u.seat
    (fun x => { x with faultWord := g.faultWord })

/-- After an issue: an instruction of a pair that waits for its read issues again alone; the first of a pair that has now issued alone leads on behind the
pair (R44, R88, R180). A fault of the higher slot's access undoes the lower slot too, and an `ATF` ends the play. -/
def State.settleIssued (s : State) (u : Issuing) : State :=
  match s.group? u.core u.seat with
  | none => s
  | some g =>
    let waits := match g.wait with | some (.op _) => !s.probing u.core g | _ => false
    match u.snap with
    | some (c0, _) =>
      match c0.group? u.seat with
      | none => s
      | some g0 =>
        if (s.core u.core).faults.length != c0.faults.length then s.stopPair u g
        else if !(waits && untroubled c0 (s.core u.core) g0 g) then s
        else
          let higher := match (g0.heldLine (s.now u.core)).map (fun l => g0.decodeAt l.bytes) with
            | some (.two _ j) => isAtf j
            | _ => false
          (s.modGroup u.core u.seat (fun g => if higher then { g with pc := nextPc g0.pc, half := none } else { g with pc := g0.pc, half := some g0.pc })).endAttempt u
    | none =>
      match g.half with
      | some h => if !waits && g.pc == nextPc h then s.modGroup u.core u.seat (fun g => { g with pc := nextPc (nextPc h), half := none }) else s.endAttempt u
      | none => s.endAttempt u

/-- The lower slot of a pair has issued without trouble: the higher one issues. -/
def State.issueHigher (s : State) (u : Issuing) (j : Instr) (snap : Core × Owner) : Option Instr × State :=
  let s : State := { s with sched := { s.sched with pair := none, cur := none } }
  match snap.1.group? u.seat, s.group? u.core u.seat with
  | some g0, some g => if untroubled snap.1 (s.core u.core) g0 g && !s.probing u.core g then s.issuing { u with snap := some snap } j else (none, s)
  | _, _ => (none, s)

/-- Quadrants of cores that are not halted, in the order of issue. -/
def State.issueOrder (s : State) : List (Nat × Nat) :=
  (s.activeCores.filter (fun n => (s.core n).halt.isNone)).flatMap (fun n => (List.range 4).map (fun q => (n, q)))

/-- The next quadrant of the cycle. -/
def State.nextQuad (s : State) : Option (Nat × Nat) := s.issueOrder.find? (fun p => decide (4 * s.sched.core + s.sched.quad ≤ 4 * p.1 + p.2))

/-! ### Events -/

/-- A line of an operation whose data is at hand in this cycle, or whose peer is lost. -/
def lineDue (now : Nat) (r : LineReq) : Option Answer :=
  match r.st with
  | .back t => if t ≤ now then some .ok else none
  | .outside _ p => if p = 16 then some .peerLost else none
  | _ => none

/-- Answers that reach a core (R247). -/
def State.arrivals (s : State) (k core : Nat) : List Instr :=
  let now := s.now core
  (s.core core).ops.flatMap (fun p =>
    let due := ((List.range p.2.lines.length).zip p.2.lines).filterMap (fun q => (lineDue now q.2).map (fun a => (q.1, a)))
    match p.2.kind with
    | .fetch _ => iff (!due.isEmpty || p.2.answered now) (.lineFetchArrival core p.1)
    | _ => due.map (fun q => .responseArrival { owner := k, core := core, op := p.1, line := q.1, answer := q.2, data := [], head := none }))

/-- Operations whose last answer has come and whose result is still to be written: packets last, by their quadrants (R349). -/
def State.completions (s : State) (k core : Nat) : List Instr :=
  let now := s.now core
  let packet (p : Nat × MemOp) : Bool := match p.2.kind with | .packet => true | _ => false
  let ops := (s.core core).ops
  (ops.filter (fun p => !packet p) ++ sortBy (fun p => p.2.quad) (ops.filter packet)).flatMap (fun p =>
    if !p.2.answered now then []
    else
      match p.2.kind with
      | .store => []
      | .tst .. => []
      | .systemStore => []
      | .fetch _ => []
      | .pref _ => iff (!p.2.lines.isEmpty) (.responseArrival { owner := k, core := core, op := p.1, line := p.2.lines.length, answer := .ok, data := [], head := none })
      | .atf .. => [.atfAttemptAnswer core p.1]
      | .probe _ => iff (((s.groupOf core p.2.seat p.2.uid).bind (fun g => g.wait)) == some (.op p.1))
          (.responseArrival { owner := k, core := core, op := p.1, line := p.2.lines.length, answer := .ok, data := [], head := none })
      | _ => [.responseArrival { owner := k, core := core, op := p.1, line := p.2.lines.length, answer := .ok, data := [], head := none }])

/-- Lines that reach their slice from HBM in this cycle (R248, R250). -/
def State.fillList (s : State) : List Instr :=
  let at_ (k : Nat) (st : LineState) : Bool := match st with | .filling t => decide (t ≤ (s.owner k).oclk) | _ => false
  s.residents.flatMap (fun k =>
    ((s.allLines k).filter (fun x => at_ k x.2.2.2.2.st)).map (fun x => .hbmLineFill (lineReqId x.1 x.2.1 x.2.2.2.1))
      ++ (s.fab.inbound.filter (fun p => p.2.owner == k && at_ k p.2.st)).map (fun p => .hbmLineFill (inReqId p.1))
      ++ (((List.range s.walks.length).zip s.walks).filter (fun p => p.2.owner == k && p.2.ends == some ((s.owner k).oclk + 23))).map
          (fun p => .hbmLineFill (walkReqId p.1)))

/-- Solve steps that end (R300). They are the first events of a cycle, so that what they see of the read marks is what a `SOLQ` of the cycle has seen (R304). -/
def State.stepList (s : State) : List Instr :=
  let due (n sid : Nat) (clu : Bool) : Bool := match s.regionAt n sid clu with | some r => s.stepDue n r | none => false
  s.listCores (fun n => (((s.core n).team.map (fun t => t.regions)).getD []).flatMap (fun r =>
      iff (due n r.1 false) (.solveStepCompletion { owner := s.ownerOf n, cluster := none, core := n, sid := r.1 })))
    ++ s.residents.flatMap (fun k => (s.owner k).clusters.flatMap (fun c => c.2.regions.flatMap (fun r =>
      let a : SolveRef := { owner := k, cluster := some c.1, core := 0, sid := r.1 }
      iff (due (s.solvePlace a).1 r.1 true) (.solveStepCompletion a))))

/-- Barriers, rendezvous and fences at the end of a cycle (R175, R182, R235). -/
def State.settleWaits (s : State) : State :=
  let s := s.overCores (fun s n => s.settleTeam n)
  let s := s.residents.foldl (fun s k => (s.owner k).clusters.foldl (fun s c =>
    let s := s.settleCluster k c.1
    match c.2.cores.find? (fun n => n < Config.numCores) with
    | some n => c.2.regions.foldl (fun s r => s.settleRegion n r.1 true) s
    | none => s) s) s
  s.overCores (fun s n =>
    let s := (((s.core n).team.map (fun t => t.regions)).getD []).foldl (fun s r => s.settleRegion n r.1 false) s
    (s.core n).groups.foldl (fun s g => s.settleFence n g.1) s)

/-- Collective commands of an owner. -/
def Owner.collIds (o : Owner) : List (Nat × Coll) := o.dies.flatMap (fun d => d.2.colls)

/-- Records that may leave in this cycle: fault records in their owner's turns, the others in house turns (R20, R87, R348). -/
def State.ringList (s : State) : List Instr :=
  s.owners.flatMap (fun p =>
    let room (n : Nat) : Bool := s.ringRoom p.1 n
    if s.owned p.1 then iff (room 1 && (match p.2.faultsWaiting.head? with | some x => s.cxlFree p.1 x.2.2.2 2 | none => false)) (.ringHasRoom p.1 .fault)
    else if s.houseTurn then
      iff (!(p.2.ring 0).waiting.isEmpty) (.ringHasRoom p.1 .trade) ++ iff (!(p.2.ring 2).waiting.isEmpty) (.ringHasRoom p.1 .error)
        ++ iff (!(p.2.ring 3).waiting.isEmpty) (.ringHasRoom p.1 .telemetry) ++ iff (room 4 && !(p.2.ring 4).waiting.isEmpty) (.ringHasRoom p.1 .debug)
    else [])

/-- A response or a keep-waiting notice for a request has reached its port and waits for its owner's turn: the request is no longer without one (R313). -/
def State.answeredOut (s : State) (req : Nat) : Bool :=
  s.fab.arrived.any (fun m => match m.what with
    | .message (.responseArrival r) => outReqId r.owner r.core r.op r.line == req
    | .message (.keepWaitingNotice n) => n.req == req
    | _ => false)

/-- Requests to peers, of owners in place and switched out, whose link timeout has expired (R313). -/
def State.timedOut (s : State) : List Nat :=
  s.owners.flatMap (fun p =>
    (State.outsideLines { s with cores := if p.2.resident then s.cores.filter (fun c => c.2.owner == some p.1) else p.2.saved }).filterMap (fun x =>
      let req := outReqId p.1 x.1 x.2.1 x.2.2.2.1
      match x.2.2.2.2.st with
      | .outside since _ => if x.2.2.2.2.leaf.tgt == 2 && decide (since + 2000000 ≤ s.fabricTime) && !s.answeredOut req then some req else none
      | _ => none))

/-- Phases of the events of a cycle: what happens first in each, of itself. -/
def State.phaseWork (s : State) (n : Nat) : State :=
  match n with
  | 0 => if s.cycle % 4 = 3 then s.overQuads (fun s c q => s.closeSlot c q) else s
  | 5 =>
    let s := s.sweepWalks
    (match s.turnOwner with | some k => s.beginSteps k | none => s)
  | 6 => s.overCores (fun s c => (s.core c).ops.foldl (fun s p => s.advanceOp c p.1 (s.now c)) s)
  | 8 =>
    let s : State := match s.turnOwner with | some k => s.injectAll k | none => s
    let s := s.residents.foldl (fun s k => s.portCycle k) s
    if s.houseTurn then (List.range 8).foldl (fun s p => s.portSend houseOwner p 8) s else s
  | 10 => s.overQuads (fun s c q => s.beginCommand c q)
  | 12 => s.overCores (fun s c => (List.range 4).foldl (fun s q => s.readOn c q) (s.modCore c (fun x => x.startCopies (s.now c))))
  | 13 =>
    let s := s.settleWaits
    (match s.turnOwner with | some k => (s.owner k).collIds.foldl (fun s x => s.collSend k x.1) s | none => s)
  | 18 => (s.overCores (fun s c => s.settleHalt c)).settlePre.overCores (fun s c => s.settleDrain c)
  | _ => s

/-- The events of a phase. -/
def State.phaseList (s : State) (n : Nat) : List Instr :=
  match n with
  | 0 => s.stepList ++ s.fillList
  | 1 => (match s.turnOwner with
    | some k => (List.range 8).flatMap (fun d => (List.range 32).flatMap (fun x => iff (!(s.sliceQueue k d x).isEmpty) (.l2SliceService d x k)))
    | none => [])
  | 2 => (match s.turnOwner with
    | some k => (List.range 16).flatMap (fun st => ((s.hbmQueue k st).filter (fun x => s.hbmFree k x.2.2)).map (fun x => .hbmAccessBegin st k x.2.1))
    | none => [])
  | 3 => (match s.turnOwner with
    | some k => (List.range 8).flatMap (fun d => iff ((s.allPages k d).any (fun x => match x.2.2.2.2.st with
        | .atTlb arr => decide (arr ≤ (s.owner k).oclk)
        | _ => false)) (.l2TlbLookup d k))
    | none => [])
  | 4 => ((List.range s.walks.length).zip s.walks).flatMap (fun p =>
      iff ((s.owner p.2.owner).resident && (match p.2.ends with | some e => decide (e ≤ (s.owner p.2.owner).oclk) | none => false)) (.walkStep p.1))
  | 5 => (match s.turnOwner with
    | some k => (List.range 8).flatMap (fun d => iff (!(s.mergeQueue k d).isEmpty) (.mergeTableInsert d k))
    | none => [])
  | 6 => s.residents.flatMap (fun k => (s.owner k).held.flatMap (fun c => s.arrivals k c))
  | 7 => s.residents.flatMap (fun k => (s.owner k).held.flatMap (fun c => s.completions k c))
  | 8 => s.listQuads (fun c q => iff ((s.core c).readDue q (s.now c)) (.engineReadMarkClear c q))
  | 9 => s.listQuads (fun c q => iff ((s.core c).commandDue q (s.now c)) (.engineCommandCompletion c q))
  | 10 => s.listQuads (fun c q => iff ((s.core c).copyWriteDue q (s.now c)).isSome (.copyLineWrite c q))
  | 11 => s.listQuads (fun c q => iff ((s.core c).copyDue q (s.now c)) (.copyCompletion c q))
  | 13 => s.residents.flatMap (fun k => (s.owner k).collIds.flatMap (fun x =>
      iff ((s.collLate k x.2).isSome && x.2.code.isNone) (.collLateTimeout k x.1)))
  | 14 => s.listCores (fun c =>
      let now := s.now c
      ((s.core c).wc.filter (fun e => decide (e.born + 64 ≤ now))).map (fun e => .wcAgeDrain c e.line)
        ++ ((s.core c).rwc.filter (fun e => decide (e.born + 2048 ≤ now))).map (fun e => .remoteWcAgeDrain c e.dev e.line))
  | 15 => (s.fab.inbound.filter (fun p => p.2.answer.isNone && (match p.2.noticed with | some t => decide (t + 32768 ≤ s.fabricTime) | none => false))).map
        (fun p => .keepWaitingSend p.1)
      ++ s.timedOut.map .linkTimeout
  | 16 => s.ringList ++ iff (s.houseTurn && s.cycle % 4 == 0) .regionIdSweep
  | 17 => s.listCores (fun c => iff (match (s.core c).haltDue with | some t => decide (t ≤ s.now c) | none => false) (.clusterHalt c))
  | 18 => s.listCores (fun c => iff (s.dumpDue c) (.dump c))
  | 19 => s.owners.flatMap (fun p => iff p.2.snapDue (.snapshotLatch p.1) ++ iff (s.tickDue p.1) (.globalTick p.1))
  | _ => []

/-- Phases of a cycle. -/
def numPhases : Nat := 20

/-! ### The dealer and grants (R42, R50, R67) -/

def State.slotGrantDue (s : State) (core : Nat) : Bool :=
  let c := s.core core
  (c.grantSlots (c.waiting (fun d => decide (0 < d.slots)))).demands != c.demands

def State.allotGrantDue (s : State) (core : Nat) : Bool :=
  let c := s.core core
  (c.grantAllotments (c.waiting (fun d => d.slots == 0))).demands != c.demands
    || c.groups.any (fun p => p.2.rising && (match c.demand? p.1 with | some d => d.granted | none => false))

/-- What a core grants or deals next. -/
def State.dealStep (s : State) (core : Nat) : Option Instr :=
  if s.slotGrantDue core then some (.hallocGrant core)
  else if s.allotGrantDue core then some (.allotmentGrant core)
  else if s.dealDue core then some (.deal core)
  else none

/-! ### The end of a cycle -/

/-- The next cycle begins. -/
def State.tick (s : State) : State :=
  let ks := s.residents
  let s := s.overCores (fun s c => s.modCore c (fun x => { x with before := none }))
  let s := if s.cycle % 64 = 0 then s.overCores (fun s c => s.modCore c Core.freeBlanks) else s
  let s := ks.foldl (fun s k => (s.countUnits k).modOwner k (fun o => { o with oclk := o.oclk + 1 })) s
  let ns := 1 + (if s.mgmt.slow then Config.slowExtraNs s.cycle else 0)
  let s : State := { s with
    cycle := s.cycle + 1, mgmt := { s.mgmt with gtime := s.mgmt.gtime + ns },
    hbm := s.hbm.filter (fun x => decide ((s.owner x.owner).oclk < x.start + 64)), fab := { s.fab with sent := [], came := [] } }
  { s with sched := { stage := .boundary, core := 0, quad := 0, cur := none, todo := s.boundaryList, late := [], pair := none } }

/-! ### The scheduler -/

/-- The stage `st` begins. -/
def State.toStage (s : State) (st : Stage) (todo : List Instr) : State :=
  { s with sched := { stage := st, core := 0, quad := 0, cur := none, todo := todo, late := [], pair := none } }

/-- Phase `n` of the events begins. -/
def State.toPhase (s : State) (n : Nat) : State :=
  let s := (s.phaseWork n)
  let s := s.toStage .events (s.phaseList n)
  { s with sched := { s.sched with core := n } }

/-- Teams that have ended give up their cores, and grids whose teams have all ended complete; so do collectives, whose record takes effect in the whole cycle (R318). -/
def State.toFinish (s : State) : State :=
  let s := s.residents.foldl (fun s k => s.settleTeams k) s
  s.toStage .finish (s.residents.flatMap (fun k => (s.owner k).finished.map (fun g => .gridCompletion k g)
    ++ (s.owner k).collIds.flatMap (fun x => iff (s.owned k && (s.owner k).collReady x.2) (.collCompletion k x.1))))

/-- Ready packets leave their queues. -/
def State.toAdmission (s : State) : State := (s.residents.foldl (fun s k => s.modOwner k Owner.dequeueAll) s).toStage .admission []

/-- The quadrant that comes next, or an `EVWAIT` that is tested once more. -/
def State.pickQuad (s : State) : Option Instr × State :=
  match s.nextQuad with
  | some (c, q) => ({ s with sched := { s.sched with core := c, quad := q + 1 } }.beginSlot c q).playQuad c q false
  | none =>
    match s.sched.late with
    | (c, q) :: rest => { s with sched := { s.sched with core := Config.numCores, late := rest } }.playQuad c q true
    | [] => (none, s.toPhase 0)

/-- The issue stage. -/
def State.pickIssue (s : State) : Option Instr × State :=
  match s.sched.cur, s.sched.pair with
  | some u, some (j, snap) => s.issueHigher u j snap
  | some u, none => (none, { s.settleIssued u with sched := { s.sched with cur := none } })
  | none, _ => s.pickQuad

/-- WHAT COMES NEXT: an instruction or an event with the state that it acts on, or a step of the scheduler alone. -/
def State.pick (s : State) : Option Instr × State :=
  match s.sched.stage, s.sched.todo with
  | .issue, _ => s.pickIssue
  | .inputs, _ =>
    match s.nextInput with
    | some (i, s) => if (portHead i).isSome then (none, s.queueIn i) else (some i, s)
    | none =>
      match s.nextArrived with
      | (some i, s) => (some i, s)
      | (none, s) => (none, s.toFinish)
  | .admission, _ =>
    match s.residents.find? (fun k => (s.nextAdmission k).isSome) with
    | some k => (some (.teamAdmission k), s)
    | none => (none, s.toStage .issue [])
  | .deal, _ =>
    match s.activeCores.find? (fun n => (s.dealStep n).isSome) with
    | some n => (s.dealStep n, s)
    | none => (none, s.toStage .tick [])
  | .tick, _ => (none, s.tick)
  | .boundary, i :: rest => (some i, { s with sched := { s.sched with todo := rest } })
  | .boundary, [] => (none, s.toStage .inputs [])
  | .finish, i :: rest => (some i, { s with sched := { s.sched with todo := rest } })
  | .finish, [] => (none, s.toAdmission)
  | .events, i :: rest => (some i, { s with sched := { s.sched with todo := rest } })
  | .events, [] => (none, if s.sched.core + 1 < numPhases then s.toPhase (s.sched.core + 1) else s.toStage .deal [])

end Sys2Proof.Machine
end

