-- ==== Sys2Proof/Machine/Dispatch.lean ====
section
/-! DEFINITION. One arm for each instruction and event. -/

namespace Sys2Proof.Machine

/-- The meaning of an instruction or event. -/
def exec (i : Instr) (s : State) : Host.Outcome State Fault Refusal :=
  match i with
  | .nop f => Sys2Proof.Machine.execNop f s
  | .iadd f => Sys2Proof.Machine.execIadd f s
  | .iaddImm f => Sys2Proof.Machine.execIaddImm f s
  | .isub f => Sys2Proof.Machine.execIsub f s
  | .isubImm f => Sys2Proof.Machine.execIsubImm f s
  | .imul f => Sys2Proof.Machine.execImul f s
  | .imulImm f => Sys2Proof.Machine.execImulImm f s
  | .imulh f => Sys2Proof.Machine.execImulh f s
  | .imulhImm f => Sys2Proof.Machine.execImulhImm f s
  | .imad f => Sys2Proof.Machine.execImad f s
  | .imadImm f => Sys2Proof.Machine.execImadImm f s
  | .imin f => Sys2Proof.Machine.execImin f s
  | .iminImm f => Sys2Proof.Machine.execIminImm f s
  | .imax f => Sys2Proof.Machine.execImax f s
  | .imaxImm f => Sys2Proof.Machine.execImaxImm f s
  | .iabs f => Sys2Proof.Machine.execIabs f s
  | .ineg f => Sys2Proof.Machine.execIneg f s
  | .iset f => Sys2Proof.Machine.execIset f s
  | .isetImm f => Sys2Proof.Machine.execIsetImm f s
  | .aadd f => Sys2Proof.Machine.execAadd f s
  | .aaddImm f => Sys2Proof.Machine.execAaddImm f s
  | .amad f => Sys2Proof.Machine.execAmad f s
  | .amadImm f => Sys2Proof.Machine.execAmadImm f s
  | .and f => Sys2Proof.Machine.execAnd f s
  | .andImm f => Sys2Proof.Machine.execAndImm f s
  | .or f => Sys2Proof.Machine.execOr f s
  | .orImm f => Sys2Proof.Machine.execOrImm f s
  | .xor f => Sys2Proof.Machine.execXor f s
  | .xorImm f => Sys2Proof.Machine.execXorImm f s
  | .andn f => Sys2Proof.Machine.execAndn f s
  | .andnImm f => Sys2Proof.Machine.execAndnImm f s
  | .not f => Sys2Proof.Machine.execNot f s
  | .bits f => Sys2Proof.Machine.execBits f s
  | .shl f => Sys2Proof.Machine.execShl f s
  | .shlImm f => Sys2Proof.Machine.execShlImm f s
  | .shr f => Sys2Proof.Machine.execShr f s
  | .shrImm f => Sys2Proof.Machine.execShrImm f s
  | .sar f => Sys2Proof.Machine.execSar f s
  | .sarImm f => Sys2Proof.Machine.execSarImm f s
  | .rot f => Sys2Proof.Machine.execRot f s
  | .rotImm f => Sys2Proof.Machine.execRotImm f s
  | .popc f => Sys2Proof.Machine.execPopc f s
  | .clz f => Sys2Proof.Machine.execClz f s
  | .brev f => Sys2Proof.Machine.execBrev f s
  | .bfx f => Sys2Proof.Machine.execBfx f s
  | .bfxImm f => Sys2Proof.Machine.execBfxImm f s
  | .bfi f => Sys2Proof.Machine.execBfi f s
  | .mov f => Sys2Proof.Machine.execMov f s
  | .movImm f => Sys2Proof.Machine.execMovImm f s
  | .movi f => Sys2Proof.Machine.execMovi f s
  | .movh f => Sys2Proof.Machine.execMovh f s
  | .movhImm f => Sys2Proof.Machine.execMovhImm f s
  | .sel f => Sys2Proof.Machine.execSel f s
  | .fadd f => Sys2Proof.Machine.execFadd f s
  | .faddImm f => Sys2Proof.Machine.execFaddImm f s
  | .fsub f => Sys2Proof.Machine.execFsub f s
  | .fsubImm f => Sys2Proof.Machine.execFsubImm f s
  | .fmul f => Sys2Proof.Machine.execFmul f s
  | .fmulImm f => Sys2Proof.Machine.execFmulImm f s
  | .ffma f => Sys2Proof.Machine.execFfma f s
  | .ffmaImm f => Sys2Proof.Machine.execFfmaImm f s
  | .fsqrt f => Sys2Proof.Machine.execFsqrt f s
  | .fscale f => Sys2Proof.Machine.execFscale f s
  | .fscaleImm f => Sys2Proof.Machine.execFscaleImm f s
  | .fmin f => Sys2Proof.Machine.execFmin f s
  | .fminImm f => Sys2Proof.Machine.execFminImm f s
  | .fmax f => Sys2Proof.Machine.execFmax f s
  | .fmaxImm f => Sys2Proof.Machine.execFmaxImm f s
  | .fabs f => Sys2Proof.Machine.execFabs f s
  | .fneg f => Sys2Proof.Machine.execFneg f s
  | .fclass f => Sys2Proof.Machine.execFclass f s
  | .fset f => Sys2Proof.Machine.execFset f s
  | .fsetImm f => Sys2Proof.Machine.execFsetImm f s
  | .frcp f => Sys2Proof.Machine.execFrcp f s
  | .frsq f => Sys2Proof.Machine.execFrsq f s
  | .fexp2 f => Sys2Proof.Machine.execFexp2 f s
  | .flog2 f => Sys2Proof.Machine.execFlog2 f s
  | .fsin f => Sys2Proof.Machine.execFsin f s
  | .fcos f => Sys2Proof.Machine.execFcos f s
  | .cvt f => Sys2Proof.Machine.execCvt f s
  | .cvts f => Sys2Proof.Machine.execCvts f s
  | .cvtu f => Sys2Proof.Machine.execCvtu f s
  | .cvtb f => Sys2Proof.Machine.execCvtb f s
  | .bscl f => Sys2Proof.Machine.execBscl f s
  | .shfl f => Sys2Proof.Machine.execShfl f s
  | .vote f => Sys2Proof.Machine.execVote f s
  | .gred f => Sys2Proof.Machine.execGred f s
  | .gscan f => Sys2Proof.Machine.execGscan f s
  | .bra f => Sys2Proof.Machine.execBra f s
  | .brd f => Sys2Proof.Machine.execBrd f s
  | .jmp f => Sys2Proof.Machine.execJmp f s
  | .call f => Sys2Proof.Machine.execCall f s
  | .calli f => Sys2Proof.Machine.execCalli f s
  | .ret f => Sys2Proof.Machine.execRet f s
  | .dmark f => Sys2Proof.Machine.execDmark f s
  | .reform f => Sys2Proof.Machine.execReform f s
  | .exit f => Sys2Proof.Machine.execExit f s
  | .yield f => Sys2Proof.Machine.execYield f s
  | .yieldDone f => Sys2Proof.Machine.execYieldDone f s
  | .barr f => Sys2Proof.Machine.execBarr f s
  | .barw f => Sys2Proof.Machine.execBarw f s
  | .bara f => Sys2Proof.Machine.execBara f s
  | .barm f => Sys2Proof.Machine.execBarm f s
  | .barq f => Sys2Proof.Machine.execBarq f s
  | .barv f => Sys2Proof.Machine.execBarv f s
  | .fence f => Sys2Proof.Machine.execFence f s
  | .xfence f => Sys2Proof.Machine.execXfence f s
  | .afence f => Sys2Proof.Machine.execAfence f s
  | .sysf f => Sys2Proof.Machine.execSysf f s
  | .tokw f => Sys2Proof.Machine.execTokw f s
  | .tokp f => Sys2Proof.Machine.execTokp f s
  | .atomAdd f => Sys2Proof.Machine.execAtomAdd f s
  | .atomMinSigned f => Sys2Proof.Machine.execAtomMinSigned f s
  | .atomMinUnsigned f => Sys2Proof.Machine.execAtomMinUnsigned f s
  | .atomMaxSigned f => Sys2Proof.Machine.execAtomMaxSigned f s
  | .atomMaxUnsigned f => Sys2Proof.Machine.execAtomMaxUnsigned f s
  | .atomAnd f => Sys2Proof.Machine.execAtomAnd f s
  | .atomOr f => Sys2Proof.Machine.execAtomOr f s
  | .atomXor f => Sys2Proof.Machine.execAtomXor f s
  | .atomExch f => Sys2Proof.Machine.execAtomExch f s
  | .atomFadd f => Sys2Proof.Machine.execAtomFadd f s
  | .atomFmin f => Sys2Proof.Machine.execAtomFmin f s
  | .atomFmax f => Sys2Proof.Machine.execAtomFmax f s
  | .atcas f => Sys2Proof.Machine.execAtcas f s
  | .atf f => Sys2Proof.Machine.execAtf f s
  | .atfAttemptAnswer core op => Sys2Proof.Machine.execAtfAttemptAnswer core op s
  | .ld f => Sys2Proof.Machine.execLd f s
  | .st f => Sys2Proof.Machine.execSt f s
  | .ldg f => Sys2Proof.Machine.execLdg f s
  | .stg f => Sys2Proof.Machine.execStg f s
  | .ldi f => Sys2Proof.Machine.execLdi f s
  | .pref f => Sys2Proof.Machine.execPref f s
  | .spset f => Sys2Proof.Machine.execSpset f s
  | .spclr f => Sys2Proof.Machine.execSpclr f s
  | .sptst f => Sys2Proof.Machine.execSptst f s
  | .wcfl f => Sys2Proof.Machine.execWcfl f s
  | .cpy f => Sys2Proof.Machine.execCpy f s
  | .cptLd f => Sys2Proof.Machine.execCptLd f s
  | .cptSt f => Sys2Proof.Machine.execCptSt f s
  | .cpx f => Sys2Proof.Machine.execCpx f s
  | .cpw f => Sys2Proof.Machine.execCpw f s
  | .cpq f => Sys2Proof.Machine.execCpq f s
  | .copyLineWrite core quad => Sys2Proof.Machine.execCopyLineWrite core quad s
  | .copyCompletion core quad => Sys2Proof.Machine.execCopyCompletion core quad s
  | .halloc f => Sys2Proof.Machine.execHalloc f s
  | .hallocGrant core => Sys2Proof.Machine.execHallocGrant core s
  | .hfree f => Sys2Proof.Machine.execHfree f s
  | .hput f => Sys2Proof.Machine.execHput f s
  | .htake f => Sys2Proof.Machine.execHtake f s
  | .hqry f => Sys2Proof.Machine.execHqry f s
  | .tld f => Sys2Proof.Machine.execTld f s
  | .tst f => Sys2Proof.Machine.execTst f s
  | .trd f => Sys2Proof.Machine.execTrd f s
  | .twr f => Sys2Proof.Machine.execTwr f s
  | .tfill f => Sys2Proof.Machine.execTfill f s
  | .tqpop f => Sys2Proof.Machine.execTqpop f s
  | .tqsteal f => Sys2Proof.Machine.execTqsteal f s
  | .tqdone f => Sys2Proof.Machine.execTqdone f s
  | .strg f => Sys2Proof.Machine.execStrg f s
  | .strgT f => Sys2Proof.Machine.execStrgT f s
  | .coll f => Sys2Proof.Machine.execColl f s
  | .mma f => Sys2Proof.Machine.execMma f s
  | .mmas f => Sys2Proof.Machine.execMmas f s
  | .mmab f => Sys2Proof.Machine.execMmab f s
  | .mma64 f => Sys2Proof.Machine.execMma64 f s
  | .mmai f => Sys2Proof.Machine.execMmai f s
  | .acz f => Sys2Proof.Machine.execAcz f s
  | .acst f => Sys2Proof.Machine.execAcst f s
  | .acth f => Sys2Proof.Machine.execActh f s
  | .acrd f => Sys2Proof.Machine.execAcrd f s
  | .acwr f => Sys2Proof.Machine.execAcwr f s
  | .engineCommandCompletion core quad => Sys2Proof.Machine.execEngineCommandCompletion core quad s
  | .solb f => Sys2Proof.Machine.execSolb f s
  | .sole f => Sys2Proof.Machine.execSole f s
  | .solveStepCompletion at_ => Sys2Proof.Machine.execSolveStepCompletion at_ s
  | .solq f => Sys2Proof.Machine.execSolq f s
  | .solx f => Sys2Proof.Machine.execSolx f s
  | .solh f => Sys2Proof.Machine.execSolh f s
  | .mfs f => Sys2Proof.Machine.execMfs f s
  | .mts f => Sys2Proof.Machine.execMts f s
  | .mtsp f => Sys2Proof.Machine.execMtsp f s
  | .acq f => Sys2Proof.Machine.execAcq f s
  | .allotmentGrant core => Sys2Proof.Machine.execAllotmentGrant core s
  | .rela f => Sys2Proof.Machine.execRela f s
  | .rdoc f => Sys2Proof.Machine.execRdoc f s
  | .trap f => Sys2Proof.Machine.execTrap f s
  | .rft f => Sys2Proof.Machine.execRft f s
  | .halt f => Sys2Proof.Machine.execHalt f s
  | .snap f => Sys2Proof.Machine.execSnap f s
  | .dbg f => Sys2Proof.Machine.execDbg f s
  | .trade f => Sys2Proof.Machine.execTrade f s
  | .tradea f => Sys2Proof.Machine.execTradea f s
  | .launch f => Sys2Proof.Machine.execLaunch f s
  | .signal f => Sys2Proof.Machine.execSignal f s
  | .evwait f => Sys2Proof.Machine.execEvwait f s
  | .teamAdmission owner => Sys2Proof.Machine.execTeamAdmission owner s
  | .gridCompletion owner grid => Sys2Proof.Machine.execGridCompletion owner grid s
  | .deal core => Sys2Proof.Machine.execDeal core s
  | .roundBoundary => Sys2Proof.Machine.execRoundBoundary s
  | .sessionBoundary => Sys2Proof.Machine.execSessionBoundary s
  | .switchCutoff => Sys2Proof.Machine.execSwitchCutoff s
  | .switchResume => Sys2Proof.Machine.execSwitchResume s
  | .lineFetchArrival core op => Sys2Proof.Machine.execLineFetchArrival core op s
  | .l2SliceService die slice owner => Sys2Proof.Machine.execL2SliceService die slice owner s
  | .responseArrival r => Sys2Proof.Machine.execResponseArrival r s
  | .hbmAccessBegin stack owner req => Sys2Proof.Machine.execHbmAccessBegin stack owner req s
  | .hbmLineFill req => Sys2Proof.Machine.execHbmLineFill req s
  | .l2TlbLookup die owner => Sys2Proof.Machine.execL2TlbLookup die owner s
  | .walkStep walk => Sys2Proof.Machine.execWalkStep walk s
  | .mergeTableInsert die owner => Sys2Proof.Machine.execMergeTableInsert die owner s
  | .wcAgeDrain core line => Sys2Proof.Machine.execWcAgeDrain core line s
  | .remoteWcAgeDrain core device line => Sys2Proof.Machine.execRemoteWcAgeDrain core device line s
  | .mmx core seat => Sys2Proof.Machine.execMmx core seat s
  | .regionIdSweep => Sys2Proof.Machine.execRegionIdSweep s
  | .hbmRefresh stack bank => Sys2Proof.Machine.execHbmRefresh stack bank s
  | .hbmScrub line => Sys2Proof.Machine.execHbmScrub line s
  | .dump core => Sys2Proof.Machine.execDump core s
  | .globalTick owner => Sys2Proof.Machine.execGlobalTick owner s
  | .snapshotLatch owner => Sys2Proof.Machine.execSnapshotLatch owner s
  | .externalDebugTrigger => Sys2Proof.Machine.execExternalDebugTrigger s
  | .remoteRequestArrival r => Sys2Proof.Machine.execRemoteRequestArrival r s
  | .keepWaitingSend req => Sys2Proof.Machine.execKeepWaitingSend req s
  | .keepWaitingNotice n => Sys2Proof.Machine.execKeepWaitingNotice n s
  | .linkTimeout req => Sys2Proof.Machine.execLinkTimeout req s
  | .peerLost device => Sys2Proof.Machine.execPeerLost device s
  | .peerReadmit device => Sys2Proof.Machine.execPeerReadmit device s
  | .planeDead plane => Sys2Proof.Machine.execPlaneDead plane s
  | .linkReplay plane owner => Sys2Proof.Machine.execLinkReplay plane owner s
  | .linkAck plane owner flits => Sys2Proof.Machine.execLinkAck plane owner flits s
  | .chunkContributionArrival c => Sys2Proof.Machine.execChunkContributionArrival c s
  | .collLateTimeout owner coll => Sys2Proof.Machine.execCollLateTimeout owner coll s
  | .failureNotice n => Sys2Proof.Machine.execFailureNotice n s
  | .collCompletion owner coll => Sys2Proof.Machine.execCollCompletion owner coll s
  | .scorecardStamp st => Sys2Proof.Machine.execScorecardStamp st s
  | .thermalEmergency => Sys2Proof.Machine.execThermalEmergency s
  | .clockRestore => Sys2Proof.Machine.execClockRestore s
  | .coldReset => Sys2Proof.Machine.execColdReset s
  | .coldResetUnsigned => Sys2Proof.Machine.execColdResetUnsigned s
  | .hotReset => Sys2Proof.Machine.execHotReset s
  | .hostCxlMemAccess a => Sys2Proof.Machine.execHostCxlMemAccess a s
  | .ldb owner va => Sys2Proof.Machine.execLdb owner va s
  | .fansResume owner vpn => Sys2Proof.Machine.execFansResume owner vpn s
  | .fansNomap owner vpn => Sys2Proof.Machine.execFansNomap owner vpn s
  | .fansFrameUnavailable owner vpn => Sys2Proof.Machine.execFansFrameUnavailable owner vpn s
  | .crel owner core => Sys2Proof.Machine.execCrel owner core s
  | .dres owner core seat => Sys2Proof.Machine.execDres owner core seat s
  | .admitOwner rec => Sys2Proof.Machine.execAdmitOwner rec s
  | .retire owner => Sys2Proof.Machine.execRetire owner s
  | .turns table => Sys2Proof.Machine.execTurns table s
  | .cores owner list => Sys2Proof.Machine.execCores owner list s
  | .switch out inc => Sys2Proof.Machine.execSwitch out inc s
  | .refill owner values => Sys2Proof.Machine.execRefill owner values s
  | .getVersion => Sys2Proof.Machine.execGetVersion s
  | .getCapabilities => Sys2Proof.Machine.execGetCapabilities s
  | .negotiateAlgorithms asym hash => Sys2Proof.Machine.execNegotiateAlgorithms asym hash s
  | .getDigests => Sys2Proof.Machine.execGetDigests s
  | .getCertificate offset length => Sys2Proof.Machine.execGetCertificate offset length s
  | .challenge nonce => Sys2Proof.Machine.execChallenge nonce s
  | .getMeasurements m => Sys2Proof.Machine.execGetMeasurements m s
  | .unsupportedRequest code => Sys2Proof.Machine.execUnsupportedRequest code s
  | .ringHasRoom owner ring => Sys2Proof.Machine.execRingHasRoom owner ring s
  | .engineReadMarkClear core quad => Sys2Proof.Machine.execEngineReadMarkClear core quad s
  | .clusterHalt core => Sys2Proof.Machine.execClusterHalt core s
  | .cxlCacheSnoop sn => Sys2Proof.Machine.execCxlCacheSnoop sn s

end Sys2Proof.Machine
end

