-- ==== Sys2Proof/Machine/Place.lean ====
section
/-! DEFINITION. A state in which a given instruction issues next: the group that issues it, seated and holding its line. It stands for what a host does
to run a program (DESIGN CHOICE, safe; notes/assumptions/14.md: how a program comes to run). -/

namespace Sys2Proof.Machine

/-- The code line that holds an instruction in slot 0, a legal target, and `NOP` in the other slots. -/
def placeLine (w : Nat) : List Byte := lineOf [BitVec.ofNat 96 w, 0, 0, 0, 0] 1 0

/-- A launch packet of one team of one group. -/
def placePacket : Packet := { Packet.of (List.replicate 128 0) with groups := 1, teams := 1, seggl := 51 }

/-- Group 0 of the packet, at PC 0, with the line in its hands. -/
def placeGroup (w : Nat) : Group :=
  { Group.admitted placePacket 0 [] with
    tcheck := false,
    lines := [{ line := 0, ready := some 0, op := none, bytes := placeLine w, again := false, checked := false, next := false }] }

/-- Core 0 of owner 0 with that group in seat 0, whose slot it is. -/
def placeCore (w now : Nat) : Core :=
  { (Core.assigned 0 0).takeTeam (.new 0 (.new 0 placePacket) 0 now none) 1 with
    seats := [(0, .group (placeGroup w))],
    quads := [(0, { Quad.blank with rotation := [0], holder := some (0, now), ended := false })] }

/-- The state with that core, about to issue from it. -/
def State.placeWord (s : State) (w : Nat) : State :=
  let s := s.modOwner 0 (fun o =>
    { o with admitted := true, resident := true, assigned := [0], held := [0], grids := [{ Grid.new 0 placePacket with nextTeam := 1 }], nextGrid := 1 })
  -- The quadrant stands where an `EVWAIT` is tested (R188): any instruction issues there at once.
  { s.setCore 0 (placeCore w (s.owner 0).oclk) with
    sched := { stage := .issue, core := Config.numCores, quad := 0, cur := none, todo := [], late := [(0, 0)], pair := none } }

end Sys2Proof.Machine
end

