-- ==== Sys2Proof/Machine/Step.lean ====
section
/-! DEFINITION. The step: what the scheduler picks is executed. -/

namespace Sys2Proof.Machine

/-- ONE STEP: an instruction of a group, an event, or a step of the scheduler alone. -/
def step (s : State) : Host.Outcome State Fault Refusal :=
  match s.pick with
  | (some i, t) => exec i t
  | (none, t) => .next t

/-- The instruction with these bits is the next that issues (notes/assumptions). -/
def State.withFetchWord (s : State) (nbits w : Nat) : State := s.placeWord (w % 2 ^ nbits)

end Sys2Proof.Machine
end

