-- ==== Sys2Proof/Safety.lean ====
section
/-! DEFINITION. The terms in which claims are stated: an instruction that issues, what a register holds, what a step leaves as it was, and a run that
stops nowhere. -/

namespace Sys2Proof.Machine

/-! ### Issuing -/

/-- Instruction `i` issues in state `s` for the issuer `u`: `c` is its context, `r` its row, `g` its group as it stands. It is well-formed, it has passed the checks of R130, those of
a solve instruction against its region among them, it is ready (R44), and its guard is true in some active lane (R47). -/
structure Issues (s : State) (i : Instr) (u : Issuing) (c : Ctx) (r : Row) (g : Group) : Prop where
  cur : s.sched.cur = some u
  ctx : s.ctx? u = some c
  seated : s.group? u.core u.seat = some g
  wf : i.wf = true
  row : row? i = some r
  passes : precheck i c = none
  solves : s.solveCheck i c = none
  ready : s.ready i c = true
  effect : c.takesEffect i r = true

/-- The same as a computation, for witnesses. -/
def issuesNow (s : State) (i : Instr) : Bool :=
  match s.sched.cur with
  | none => false
  | some u =>
    match s.ctx? u, s.group? u.core u.seat, row? i with
    | some c, some _, some r => i.wf && (precheck i c).isNone && (s.solveCheck i c).isNone && s.ready i c && c.takesEffect i r
    | _, _, _ => false

/-! ### Registers -/

/-- What the `n` registers (1 or 2) that an operand names hold in a lane. -/
def Group.holds (g : Group) (o : Opd) (n l : Nat) : DWord :=
  match o with
  | .v r => g.readReg true n r.toNat l
  | .s r => g.readReg false n r.toNat l
  | _ => 0

/-- A value as `n` registers hold it. -/
def cutTo (n : Nat) (d : DWord) : DWord := if n = 1 then (lo32 d).zeroExtend 64 else d

/-- The `n` registers of an operand take in register `k` of a class: `v` or, with false, `s`. -/
def covers (o : Opd) (n : Nat) (v : Bool) (k : Nat) : Prop :=
  match o with
  | .v r => v = true ∧ r.toNat ≤ k ∧ k < r.toNat + n
  | .s r => v = false ∧ r.toNat ≤ k ∧ k < r.toNat + n
  | _ => False

/-- Group `g'` has the registers of `g`, but for the `n` registers of operand `o` in the lanes `ls`. -/
def RegsKept (o : Opd) (n : Nat) (ls : List Nat) (g g' : Group) : Prop :=
  (∀ k l, k < 256 → ¬(covers o n true k ∧ l ∈ ls) → g'.vreg k l = g.vreg k l) ∧ ∀ k, ¬covers o n false k → g'.sreg k = g.sreg k

/-- Group `g'` has all its registers as `g` has them. -/
def AllRegsKept (g g' : Group) : Prop := g'.vregs = g.vregs ∧ g'.sregs = g.sregs

/-- Everything of a group that is not a lane or scalar register, its PC, its scoreboard marks, its code lines, its count of retired instructions or the
exceptions collected in its play, or what an `ATF` has read: trap and segment registers, allotment, handles, threads, token, region, waits; no register becomes unreadable. -/
structure GroupKept (g g' : Group) : Prop where
  threads : g'.threads = g.threads
  allot : g'.allot = g.allot
  hperm : g'.hperm = g.hperm
  origins : g'.origins = g.origins
  handles : g'.handles = g.handles
  trapv : g'.trapv = g.trapv
  trapc : g'.trapc = g.trapc
  trapa : g'.trapa = g.trapa
  trapm : g'.trapm = g.trapm
  handling : g'.handling = g.handling
  mmx : g'.mmx = g.mmx
  segsp : g'.segsp = g.segsp
  segst : g'.segst = g.segst
  seggl : g'.seggl = g.seggl
  pass : g'.pass = g.pass
  csn : g'.csn = g.csn
  region : g'.region = g.region
  wait : g'.wait = g.wait
  wake : g'.wake = g.wake
  faultWord : g'.faultWord = g.faultWord
  uid : g'.uid = g.uid
  half : g'.half = g.half
  acqDue : g'.acqDue = g.acqDue
  remote : g'.remote = g.remote
  bad : ∀ b, b ∈ g'.bad → b ∈ g.bad

/-! ### The rest of the machine -/

/-- State `t` has everything outside the cores as `s` has it: every byte of device and host memory, race records, owners, management controller, fabric. -/
structure OutsideKept (s t : State) : Prop where
  mem : ∀ a, t.mem.read a = s.mem.read a
  host : ∀ a, t.host.read a = s.host.read a
  races : t.races = s.races
  owners : ∀ k, t.owner k = s.owner k
  mgmt : t.mgmt = s.mgmt
  cycle : t.cycle = s.cycle
  fab : t.fab = s.fab
  l2 : t.l2 = s.l2
  hbm : t.hbm = s.hbm
  walks : t.walks = s.walks
  errors : t.errors = s.errors
  inbox : t.inbox = s.inbox
  outbox : t.outbox = s.outbox

/-- Quadrant `q'` has as `q` has them its rotation and slot, engine queue, origins, copy queue and command count: all but its latches, the use of its
multiply-add unit and the end of its play. -/
structure QuadKept (q q' : Quad) : Prop where
  rotation : q'.rotation = q.rotation
  holder : q'.holder = q.holder
  engine : q'.engine = q.engine
  origins : q'.origins = q.origins
  copies : q'.copies = q.copies
  done : q'.done = q.done
  enqueued : q'.enqueued = q.enqueued
  completed : q'.completed = q.completed
  seq : q'.seq = q.seq

/-- Core `c'` has all but the latches of quadrant `quad`, one seat and perhaps new operations in flight (the fetch of a code line, R246) as core `c` has
it: every byte of the scratchpad, the tile slots, the team with its barriers, joins and deck, the L1, the write-combining buffers, and every other
seat. -/
structure CoreKept (seat quad : Nat) (c c' : Core) : Prop where
  owner : c'.owner = c.owner
  team : c'.team = c.team
  sp : ∀ a, c'.sp.read a = c.sp.read a
  spEmpty : c'.spEmpty = c.spEmpty
  before : c'.before = c.before
  spRace : c'.spRace = c.spRace
  spBad : c'.spBad = c.spBad
  spRaceBad : c'.spRaceBad = c.spRaceBad
  slots : c'.slots = c.slots
  l1 : c'.l1 = c.l1
  wc : c'.wc = c.wc
  rwc : c'.rwc = c.rwc
  demands : c'.demands = c.demands
  mailWaits : c'.mailWaits = c.mailWaits
  halt : c'.halt = c.halt
  faults : c'.faults = c.faults
  dumpbase : c'.dumpbase = c.dumpbase
  groups : ∀ x, x ≠ seat → c'.group? x = c.group? x
  quads : ∀ q, q ≠ quad → c'.quad q = c.quad q
  quadKept : QuadKept (c.quad quad) (c'.quad quad)
  ops : ∀ k, k < c.nextOp → mget c'.ops k = mget c.ops k
  nextOp : c.nextOp ≤ c'.nextOp

/-- Nothing changes outside core `n`, and in core `n` only what `CoreKept` lets change. -/
structure ElseKept (s t : State) (n seat quad : Nat) : Prop where
  outside : OutsideKept s t
  cores : ∀ m, m ≠ n → t.core m = s.core m
  core : CoreKept seat quad (s.core n) (t.core n)

/-! ### Results in registers -/

/-- Latch `b` of a quadrant in a lane (R45). -/
def Quad.latch (q : Quad) (b l : Nat) : Option DWord := (mget q.latches b).bind (fun m => mget m l)

/-- After a register instruction: state `t` holds `val l` in the destination of each lane `l` of `ls` (nothing is written with NWB), every other register
and everything else as state `s` has it, the PC behind the instruction (R119), and, for a latching instruction, the results in the latch of the
cycle (R45, R129), which in the lanes that took no part holds the destination as it stands, or zero with NWB. -/
structure RegisterResult (s t : State) (u : Issuing) (c : Ctx) (r : Row) (g : Group) (ls : List Nat) (val : Nat → DWord) (g' : Group) : Prop where
  seated : t.group? u.core u.seat = some g'
  pc : g'.pc = nextPc c.pc
  written : r.hdr.nwb = false → ∀ l ∈ ls, g'.holds r.dst r.dk.words l = cutTo r.dk.words (val l)
  regs : RegsKept r.dst (if r.hdr.nwb then 0 else r.dk.words) ls g g'
  kept : GroupKept g g'
  others : ElseKept s t u.core u.seat u.quad
  latched : r.latch = true → ∀ l ∈ g.lanes, ((t.core u.core).quad u.quad).latch (c.now % 4) l =
    some (if isS r.dst then val c.lane0 else if l ∈ ls then val l else if r.hdr.nwb then 0 else g'.holds r.dst r.dk.words l)
  latches : ∀ b, (r.latch = true → b ≠ c.now % 4) → ∀ l, ((t.core u.core).quad u.quad).latch b l = ((s.core u.core).quad u.quad).latch b l

/-! ### Steps about one seat -/

/-- Every byte reads in state `t` as in state `s`: device memory, host memory, every scratchpad. -/
structure BytesKept (s t : State) : Prop where
  mem : ∀ a, t.mem.read a = s.mem.read a
  host : ∀ a, t.host.read a = s.host.read a
  sp : ∀ n a, (t.core n).sp.read a = (s.core n).sp.read a

/-- Group `g'` has the special, trap and handle registers, the allotment and the origins of group `g`. -/
structure SpecialKept (g g' : Group) : Prop where
  allot : g'.allot = g.allot
  hperm : g'.hperm = g.hperm
  origins : g'.origins = g.origins
  handles : g'.handles = g.handles
  trapv : g'.trapv = g.trapv
  trapc : g'.trapc = g.trapc
  trapa : g'.trapa = g.trapa
  trapm : g'.trapm = g.trapm
  handling : g'.handling = g.handling
  mmx : g'.mmx = g.mmx
  segsp : g'.segsp = g.segsp
  segst : g'.segst = g.segst
  seggl : g'.seggl = g.seggl
  csn : g'.csn = g.csn
  faultWord : g'.faultWord = g.faultWord
  uid : g'.uid = g.uid

/-- The groups of all other seats stand in state `t` as in state `s`, with all they hold. -/
def SeatsKept (s t : State) (n seat : Nat) : Prop := ∀ m x, ¬(m = n ∧ x = seat) → t.group? m x = s.group? m x

/-- A group but for the acquire that it owes for a token that has come to it (R285). -/
def Group.noDue (g : Group) : Group := { g with acqDue := false }

/-- The groups of all other seats stand in state `t` as in state `s`, but for the acquire of a token that has passed to one of them. -/
def SeatsButDue (s t : State) (n seat : Nat) : Prop := ∀ m x, ¬(m = n ∧ x = seat) → (t.group? m x).map Group.noDue = (s.group? m x).map Group.noDue

/-- From state `s` to state `t` no byte of memory changes and no other group; group `g` of the issuer's seat becomes `g'`, with its special registers as they
were. -/
structure SeatStep (s t : State) (u : Issuing) (g g' : Group) : Prop where
  seated : t.group? u.core u.seat = some g'
  special : SpecialKept g g'
  bytes : BytesKept s t
  seats : SeatsKept s t u.core u.seat

/-- As `SeatStep`, when the token may pass from the group to another (R283, R285). -/
structure PassStep (s t : State) (u : Issuing) (g g' : Group) : Prop where
  seated : t.group? u.core u.seat = some g'
  special : SpecialKept g g'
  bytes : BytesKept s t
  seats : SeatsButDue s t u.core u.seat

/-! ### Runs -/

/-- The machine runs `n` steps from a state without a fault or a refusal. -/
def runs : Nat → State → Prop
  | 0, _ => True
  | n + 1, s => ∃ t, step s = .next t ∧ runs n t

end Sys2Proof.Machine
end

