-- ==== Sys2Proof/Certificates/Slice0/Obligations.lean ====
section
/-! DEFINITION. The statements for the provers. Each family of register instructions is stated through `RegisterResult` (Safety.lean): the result by lane,
and everything that stays. The values are written here from the rules, over exact integers and bits. -/

namespace Sys2Proof.Claims

open Sys2Proof.Machine

/-- What a family of register instructions writes: for an instruction of the family, the relation between its context, a lane and the value. -/
abbrev Family := Instr → Option (Ctx → Nat → DWord → Prop)

/-- The instructions of a family complete: one that issues answers the next state that has the value of its rule in the destination of each lane in which it
computes, and everything else as it was. -/
def Completes (fam : Family) : Prop :=
  ∀ (s : State) (i : Instr) (u : Issuing) (c : Ctx) (r : Row) (g : Group) (R : Ctx → Nat → DWord → Prop),
    Issues s i u c r g → fam i = some R →
      ∃ t g' v, exec i s = .next t ∧ RegisterResult s t u c r g (c.aluLanes r) v g' ∧ ∀ l ∈ c.aluLanes r, R c l (v l)

/-! ### Integers (R140 to R143) -/

/-- Bits of an operand type (R91). -/
def width : Ty → Nat
  | .s64 => 64
  | .f64 => 64
  | _ => 32

/-- An operand of a type in a lane: a register, or a pair for a 64-bit type. -/
def opd (c : Ctx) (t : Ty) (o : Opd) (l : Nat) : DWord := c.read (width t / 32) o l

/-- The integer that bits stand for under a type (R141). -/
def intOfBits (t : Ty) (x : Nat) : Int := if t ≠ .u32 ∧ 2 ^ (width t - 1) ≤ x then (x : Int) - 2 ^ width t else x

/-- An integer operand. -/
def int (c : Ctx) (t : Ty) (o : Opd) (l : Nat) : Int := intOfBits t (opd c t o l).toNat

/-- The immediate under an integer type (R127): as it is, or sign-extended for S64. -/
def imm (t : Ty) (w : BitVec 32) : Int := if t == .u32 then w.toNat else w.toInt

/-- The least and the greatest integer of a type. -/
def least (t : Ty) : Int := if t == .u32 then 0 else -2 ^ (width t - 1)
def greatest (t : Ty) : Int := if t == .u32 then 2 ^ 32 - 1 else 2 ^ (width t - 1) - 1

/-- The value `d` is an exact result modulo 2^n, or the nearest number of the type with `.sat` (R141). -/
def Put (t : Ty) (sat : Bool) (x : Int) (d : DWord) : Prop :=
  let y := if sat && decide (x < least t) then least t else if sat && decide (greatest t < x) then greatest t else x
  (d.toNat : Int) = y % 2 ^ width t

/-- R141. -/
def intArith : Family
  | .iadd f => some (fun c l => Put f.ty f.sat (int c f.ty f.a l + int c f.ty f.b l))
  | .iaddImm f => some (fun c l => Put f.ty (immSat f) (int c f.ty f.a l + imm f.ty f.imm))
  | .isub f => some (fun c l => Put f.ty f.sat (int c f.ty f.a l - int c f.ty f.b l))
  | .isubImm f => some (fun c l => Put f.ty (immSat f) (int c f.ty f.a l - imm f.ty f.imm))
  | .imul f => some (fun c l => Put f.ty f.sat (int c f.ty f.a l * int c f.ty f.b l))
  | .imulImm f => some (fun c l => Put f.ty (immSat f) (int c f.ty f.a l * imm f.ty f.imm))
  | .imulh f => some (fun c l => Put f.ty false (int c f.ty f.a l * int c f.ty f.b l / 2 ^ width f.ty))
  | .imulhImm f => some (fun c l => Put f.ty false (int c f.ty f.a l * imm f.ty f.imm / 2 ^ width f.ty))
  | .imad f => some (fun c l => Put f.ty f.sat (int c f.ty f.a l * int c f.ty f.b l + int c f.ty f.c l))
  | .imadImm f => some (fun c l => Put f.ty (immSat f) (int c f.ty f.a l * int c f.ty f.b l + imm f.ty f.imm))
  | .imin f => some (fun c l => Put f.ty false (min (int c f.ty f.a l) (int c f.ty f.b l)))
  | .iminImm f => some (fun c l => Put f.ty false (min (int c f.ty f.a l) (imm f.ty f.imm)))
  | .imax f => some (fun c l => Put f.ty false (max (int c f.ty f.a l) (int c f.ty f.b l)))
  | .imaxImm f => some (fun c l => Put f.ty false (max (int c f.ty f.a l) (imm f.ty f.imm)))
  | .iabs f => some (fun c l => Put f.ty f.sat (int c f.ty f.a l).natAbs)
  | .ineg f => some (fun c l => Put f.ty f.sat (-int c f.ty f.a l))
  | _ => none

/-- A condition of R140 on integers. -/
def intCc (cc : Nat) (x y : Int) : Prop :=
  (cc = 0 ∧ x = y) ∨ (cc = 1 ∧ x ≠ y) ∨ (cc = 2 ∧ x < y) ∨ (cc = 3 ∧ x ≤ y) ∨ (cc = 4 ∧ y < x) ∨ (cc = 5 ∧ y ≤ x)

/-- The value is 1 when a statement holds and 0 otherwise. -/
def Flag (p : Prop) (d : DWord) : Prop := (p ∧ d = 1) ∨ (¬p ∧ d = 0)

/-- A 32-bit operand of an address, sign-extended under S32 and zero-extended under U32 (R142). -/
def ext (t : Ty) (w : BitVec 32) : Int := if t == .s32 then w.toInt else w.toNat

/-- R142 and R143. -/
def addressCompare : Family
  | .aadd f => some (fun c l d => (d.toNat : Int) = ((c.read 2 f.a l).toNat + ext f.ty (c.read32 f.b l)) % 2 ^ 64)
  | .aaddImm f => some (fun c l d => (d.toNat : Int) = ((c.read 2 f.a l).toNat + ext f.ty f.imm) % 2 ^ 64)
  | .amad f => some (fun c l d => (d.toNat : Int) = ((c.read 2 f.a l).toNat + ext f.ty (c.read32 f.b l) * ext f.ty (c.read32 f.c l)) % 2 ^ 64)
  | .amadImm f => some (fun c l d => (d.toNat : Int) = ((c.read 2 f.a l).toNat + ext f.ty (c.read32 f.b l) * ext f.ty f.imm) % 2 ^ 64)
  | .iset f => some (fun c l => Flag (intCc f.opt.toNat (int c f.ty f.a l) (int c f.ty f.b l)))
  | .isetImm f => some (fun c l => Flag (intCc (immCc f) (int c f.ty f.a l) (imm f.ty f.imm)))
  | .sel f => some (fun c l d => d = if (c.read32 f.c l).getLsbD (f.opt.toNat % 32) then opd c f.ty f.a l else opd c f.ty f.b l)
  | _ => none

/-! ### Logic, shifts, bit fields (R144 to R147) -/

/-- The low `n` bits of `d` are those of `p`, and the others are 0. -/
def Bits (n : Nat) (p : Nat → Bool) (d : DWord) : Prop := ∀ i, d.getLsbD i = (decide (i < n) && p i)

/-- Bit `i` of the immediate under an integer type (R127). -/
def immBit (t : Ty) (w : BitVec 32) (i : Nat) : Bool := if i < 32 then w.getLsbD i else t == .s64 && w.msb

/-- R144. -/
def logic : Family
  | .and f => some (fun c l => Bits (width f.ty) (fun i => (opd c f.ty f.a l).getLsbD i && (opd c f.ty f.b l).getLsbD i))
  | .andImm f => some (fun c l => Bits (width f.ty) (fun i => (opd c f.ty f.a l).getLsbD i && immBit f.ty f.imm i))
  | .or f => some (fun c l => Bits (width f.ty) (fun i => (opd c f.ty f.a l).getLsbD i || (opd c f.ty f.b l).getLsbD i))
  | .orImm f => some (fun c l => Bits (width f.ty) (fun i => (opd c f.ty f.a l).getLsbD i || immBit f.ty f.imm i))
  | .xor f => some (fun c l => Bits (width f.ty) (fun i => (opd c f.ty f.a l).getLsbD i != (opd c f.ty f.b l).getLsbD i))
  | .xorImm f => some (fun c l => Bits (width f.ty) (fun i => (opd c f.ty f.a l).getLsbD i != immBit f.ty f.imm i))
  | .andn f => some (fun c l => Bits (width f.ty) (fun i => (opd c f.ty f.a l).getLsbD i && !(opd c f.ty f.b l).getLsbD i))
  | .andnImm f => some (fun c l => Bits (width f.ty) (fun i => (opd c f.ty f.a l).getLsbD i && !immBit f.ty f.imm i))
  | .not f => some (fun c l => Bits (width f.ty) (fun i => !(opd c f.ty f.a l).getLsbD i))
  | .bits f => some (fun c l => Bits (width f.ty) (fun i => f.opt.getLsbD
      (4 * ((opd c f.ty f.a l).getLsbD i).toNat + 2 * ((opd c f.ty f.b l).getLsbD i).toNat + ((opd c f.ty f.c l).getLsbD i).toNat)))
  | _ => none

/-- The operations of R145 on `n` bits of `x` by a count `k`. -/
def Shl (n : Nat) (x : DWord) (k : Nat) (d : DWord) : Prop := d.toNat = if k < n then x.toNat * 2 ^ k % 2 ^ n else 0
def Shr (n : Nat) (x : DWord) (k : Nat) (d : DWord) : Prop := Bits n (fun i => decide (i + k < n) && x.getLsbD (i + k)) d
def Sar (n : Nat) (x : DWord) (k : Nat) (d : DWord) : Prop := Bits n (fun i => x.getLsbD (if i + k < n then i + k else n - 1)) d
def Rot (n : Nat) (x : DWord) (k : Nat) (d : DWord) : Prop := Bits n (fun i => x.getLsbD ((i + (n - k % n)) % n)) d

/-- R145. -/
def shifts : Family
  | .shl f => some (fun c l => Shl (width f.ty) (opd c f.ty f.a l) (c.read32 f.b l).toNat)
  | .shlImm f => some (fun c l => Shl (width f.ty) (opd c f.ty f.a l) f.imm.toNat)
  | .shr f => some (fun c l => Shr (width f.ty) (opd c f.ty f.a l) (c.read32 f.b l).toNat)
  | .shrImm f => some (fun c l => Shr (width f.ty) (opd c f.ty f.a l) f.imm.toNat)
  | .sar f => some (fun c l => Sar (width f.ty) (opd c f.ty f.a l) (c.read32 f.b l).toNat)
  | .sarImm f => some (fun c l => Sar (width f.ty) (opd c f.ty f.a l) f.imm.toNat)
  | .rot f => some (fun c l => Rot (width f.ty) (opd c f.ty f.a l) (c.read32 f.b l).toNat)
  | .rotImm f => some (fun c l => Rot (width f.ty) (opd c f.ty f.a l) f.imm.toNat)
  | _ => none

/-- The part of a field of `w` bits at bit `p` that lies inside `n` bits: E of R147. -/
def inside (n p w : Nat) : Nat := min w (n - min p n)

/-- `BFX` (R147): the field at bit P = b[7:0] of width W = b[15:8], sign-extended for the signed types. -/
def Bfx (t : Ty) (x : DWord) (b : Nat) (d : DWord) : Prop :=
  let p := b % 256
  let e := inside (width t) p (b / 256 % 256)
  Bits (width t) (fun i => if i < e then x.getLsbD (p + i) else (t != .u32) && decide (0 < e) && x.getLsbD (p + e - 1)) d

/-- `BFI` (R147). -/
def Bfi (t : Ty) (x : DWord) (b : Nat) (z d : DWord) : Prop :=
  let p := b % 256
  let e := inside (width t) p (b / 256 % 256)
  Bits (width t) (fun i => if p ≤ i ∧ i < p + e then x.getLsbD (i - p) else z.getLsbD i) d

/-- R146 and R147. -/
def bitFields : Family
  | .popc f => some (fun c l d => d.toNat = ((List.range (width f.ty)).filter (fun i => (opd c f.ty f.a l).getLsbD i)).length)
  | .clz f => some (fun c l d => d.toNat ≤ width f.ty ∧ (∀ i, width f.ty - d.toNat ≤ i → i < width f.ty → (opd c f.ty f.a l).getLsbD i = false)
      ∧ (d.toNat < width f.ty → (opd c f.ty f.a l).getLsbD (width f.ty - 1 - d.toNat) = true))
  | .brev f => some (fun c l => Bits (width f.ty) (fun i => (opd c f.ty f.a l).getLsbD (width f.ty - 1 - i)))
  | .bfx f => some (fun c l => Bfx f.ty (opd c f.ty f.a l) (c.read32 f.b l).toNat)
  | .bfxImm f => some (fun c l => Bfx f.ty (opd c f.ty f.a l) f.imm.toNat)
  | .bfi f => some (fun c l => Bfi f.ty (opd c f.ty f.a l) (c.read32 f.b l).toNat (opd c f.ty f.c l))
  | _ => none

/-! ### Moves (R148, R149) -/

/-- R148. An immediate under F64 is the FP32 pattern widened (R127). -/
def moves : Family
  | .mov f => some (fun c l d => d = opd c f.ty f.a l)
  | .movImm f => some (fun _ _ d => match f.ty with
      | .s64 => Bits 64 (immBit .s64 f.imm) d
      | .f64 => d = immValue .f64 f.imm
      | _ => Bits 32 (fun i => f.imm.getLsbD i) d)
  | .movh f => some (fun c l d => d = c.read32 f.a l ++ (c.read32 f.dst l))
  | .movhImm f => some (fun c l d => d = f.imm ++ (c.read32 f.dst l))
  | _ => none

/-- The number of the register that a `MOVI` reads in a lane (R149): q + j. -/
def moviReg (f : FmtA) (c : Ctx) (l : Nat) : Nat := (match f.a with | .v q => q.toNat | .s q => q.toNat | _ => 0) + (c.read32 f.b l).toNat % 256

/-- The register that a `MOVI` reads in a lane is one that R149 allows. -/
def moviFine (f : FmtA) (c : Ctx) (l : Nat) : Prop :=
  (width f.ty = 64 → moviReg f c l % 2 = 0) ∧ (if isS f.a then moviReg f c l + width f.ty / 32 ≤ 64 else moviReg f c l + width f.ty / 32 ≤ c.g.allot)

/-! ### Floating point (R150 to R154) -/

/-- R150: the exact value rounded once. -/
def floats : Family
  | .fadd f => some (fun c l d => d = (fpMap f.ty [opd c f.ty f.a l, opd c f.ty f.b l] (fp2 (fun p => p.addV (modeOf f.rm 0)))).1)
  | .faddImm f => some (fun c l d => d = (fpMap f.ty [opd c f.ty f.a l, immValue f.ty f.imm] (fp2 (fun p => p.addV (modeOf (immRm f) 0)))).1)
  | .fsub f => some (fun c l d => d = (fpMap f.ty [opd c f.ty f.a l, opd c f.ty f.b l] (fp2 (fun p a b => p.addV (modeOf f.rm 0) a b.neg))).1)
  | .fsubImm f => some (fun c l d => d = (fpMap f.ty [opd c f.ty f.a l, immValue f.ty f.imm] (fp2 (fun p a b => p.addV (modeOf (immRm f) 0) a b.neg))).1)
  | .fmul f => some (fun c l d => d = (fpMap f.ty [opd c f.ty f.a l, opd c f.ty f.b l] (fp2 (fun p => p.mulV (modeOf f.rm 0)))).1)
  | .fmulImm f => some (fun c l d => d = (fpMap f.ty [opd c f.ty f.a l, immValue f.ty f.imm] (fp2 (fun p => p.mulV (modeOf (immRm f) 0)))).1)
  | .ffma f => some (fun c l d =>
      d = (fpMap f.ty [opd c f.ty f.a l, opd c f.ty f.b l, opd c f.ty f.c l] (fp3 (fun p => p.fmaV (modeOf f.rm 0)))).1)
  | .ffmaImm f => some (fun c l d =>
      d = (fpMap f.ty [opd c f.ty f.a l, opd c f.ty f.b l, immValue f.ty f.imm] (fp3 (fun p => p.fmaV (modeOf (immRm f) 0)))).1)
  | .fsqrt f => some (fun c l d => d = (fpMap f.ty [opd c f.ty f.a l] (fp1 (fun p => p.sqrtV (modeOf f.rm 0)))).1)
  | .fscale f => some (fun c l d => d = (scaleMap f.ty (modeOf f.rm 0) (opd c f.ty f.a l) (c.read32 f.b l)).1)
  | .fscaleImm f => some (fun c l d => d = (scaleMap f.ty (modeOf (immRm f) 0) (opd c f.ty f.a l) f.imm).1)
  | _ => none

/-- The sign bits of the elements of a type. -/
def isSign (t : Ty) (i : Nat) : Bool :=
  match t with
  | .f64 => i == 63
  | .f32 => i == 31
  | _ => i == 15 || i == 31

/-- R151 to R153. -/
def floatCompare : Family
  | .fmin f => some (fun c l d => d = (fpMap f.ty [opd c f.ty f.a l, opd c f.ty f.b l] (fun p xs => p.minmax false (xs.headD 0) ((xs.drop 1).headD 0))).1)
  | .fminImm f => some (fun c l d => d = (fpMap f.ty [opd c f.ty f.a l, immValue f.ty f.imm] (fun p xs => p.minmax false (xs.headD 0) ((xs.drop 1).headD 0))).1)
  | .fmax f => some (fun c l d => d = (fpMap f.ty [opd c f.ty f.a l, opd c f.ty f.b l] (fun p xs => p.minmax true (xs.headD 0) ((xs.drop 1).headD 0))).1)
  | .fmaxImm f => some (fun c l d => d = (fpMap f.ty [opd c f.ty f.a l, immValue f.ty f.imm] (fun p xs => p.minmax true (xs.headD 0) ((xs.drop 1).headD 0))).1)
  | .fabs f => some (fun c l => Bits (width f.ty) (fun i => !isSign f.ty i && (opd c f.ty f.a l).getLsbD i))
  | .fneg f => some (fun c l => Bits (width f.ty) (fun i => isSign f.ty i != (opd c f.ty f.a l).getLsbD i))
  | .fclass f => some (fun c l d => d = classMap f.ty (opd c f.ty f.a l))
  | .fset f => some (fun c l d => d = (setMap f.ty (f.opt.toNat % 8) (opd c f.ty f.a l) (opd c f.ty f.b l)).1)
  | .fsetImm f => some (fun c l d => d = (setMap f.ty (immCc f) (opd c f.ty f.a l) (immValue f.ty f.imm)).1)
  | _ => none

/-- R154. -/
def functionUnit : Family
  | .frcp f => some (fun c l d => d = (fpMap f.ty [opd c f.ty f.a l] (fp1 Fp.rcpV)).1)
  | .frsq f => some (fun c l d => d = (fpMap f.ty [opd c f.ty f.a l] (fp1 Fp.rsqV)).1)
  | .fexp2 f => some (fun c l d => d.toNat = (exp2V (Fp.f32.unpack (opd c .f32 f.a l).toNat)).1 % 2 ^ 64)
  | .flog2 f => some (fun c l d => d.toNat = (log2V (Fp.f32.unpack (opd c .f32 f.a l).toNat)).1 % 2 ^ 64)
  | .fsin f => some (fun c l d => d.toNat = (trigV false (Fp.f32.unpack (opd c .f32 f.a l).toNat)).1 % 2 ^ 64)
  | .fcos f => some (fun c l d => d.toNat = (trigV true (Fp.f32.unpack (opd c .f32 f.a l).toNat)).1 % 2 ^ 64)
  | _ => none

/-! ### Conversions (R155 to R158) -/

/-- The row of the stochastic hash (R104, R156): 1,024·`TEAMID` + `TID`, or the group's `GID` in scalar form. -/
def hashRow (s : State) (c : Ctx) (dst : Opd) (l : Nat) : Nat :=
  1024 * ((s.core c.core).team.map (fun t => t.teamId)).getD 0 + (if isS dst then c.g.lowTid else c.g.tid l)

/-- The salted hash of R104 for a register conversion. -/
def hash (s : State) (c : Ctx) (dst : Opd) (l column salt : Nat) : Nat := srHash (((s.core c.core).team.map (fun t => t.srseed.toNat)).getD 0) (hashRow s c dst l) column salt

/-- R156 to R158, in state `s` (whose team gives the row and the seed). -/
def conversions (s : State) : Family
  | .cvt f => some (fun c l d => d = (cvtValue (cvtSty f) (cvtDty f) (modeOf f.rm (hash s c f.dst l 0 (c.read32 f.b l).toNat)) f.sat
      (c.read (if cvtSty f = 2 ∨ cvtSty f = 4 then 2 else 1) f.a l).toNat).1)
  | .cvts f => some (fun c l d => ∃ g, cvtFp? (cvtDty f) = some g ∧ d = BitVec.ofNat 64
      ((fpConvert .f32 g (.sr (hash s c f.dst l 0 (c.read32 f.c l).toNat)) f.sat (Fp.f32.unpack (c.read32 f.a l).toNat)).1
        + (fpConvert .f32 g (.sr (hash s c f.dst l 1 (c.read32 f.c l).toNat)) f.sat (Fp.f32.unpack (c.read32 f.b l).toNat)).1 * 2 ^ (g.width + 1)))
  | .cvtu f => some (fun c l d =>
      let w := (c.read32 f.a l).toNat
      let i := (c.read32 f.b l).toNat
      let e := if cvtDty f = 11 then w / 2 ^ (4 * (i % 8)) % 16 else w / 2 ^ (8 * (i % 4)) % 256
      (cvtDty f = 12 → d = ((BitVec.ofNat 8 e).signExtend 32).zeroExtend 64) ∧ (cvtDty f = 13 → d = BitVec.ofNat 64 e)
        ∧ ∀ g, cvtFp? (cvtDty f) = some g →
          d = BitVec.ofNat 64 (decodeElem (if f.opt.getLsbD 0 then e8m0 ((c.read32 f.c l).toNat % 256) else some (1, 0)) (g.unpack e)))
  | _ => none

/-! ### Lane operations (R162 to R166) -/

/-- Lane `l` takes part (R162): it is active and its guard is true. -/
def takesPart (c : Ctx) (gd : Option Grd) (l : Nat) : Prop := l ∈ c.effLanes gd

/-- The source lane of `SHFL` (R163). -/
def shuffled (mode l s : Nat) : Int :=
  match mode with
  | 0 => s
  | 1 => (l : Int) - s
  | 2 => l + s
  | _ => Nat.xor l s

/-- What a lane of `SHFL` receives. -/
def Shuffle (f : FmtA) (c : Ctx) (l : Nat) (d : DWord) : Prop :=
  let j := shuffled (f.opt.toNat % 4) l ((c.read32 f.b l).toNat % 32)
  d = if 0 ≤ j ∧ j ≤ 31 ∧ j.toNat ∈ c.g.lanes then opd c f.ty f.a j.toNat else opd c f.ty f.a l

/-- The result of `VOTE` (R164). -/
def Vote (f : FmtA) (c : Ctx) (d : DWord) : Prop :=
  let p (l : Nat) : Bool := (c.read32 f.a l).getLsbD (f.opt.toNat / 4 % 32)
  match f.opt.toNat % 4 with
  | 0 => Flag (∀ l, takesPart c f.hdr.guard l → p l = true) d
  | 1 => Flag (∃ l, takesPart c f.hdr.guard l ∧ p l = true) d
  | 2 => d = (maskOf ((c.effLanes f.hdr.guard).filter p)).zeroExtend 64
  | _ => Flag (∀ l m, takesPart c f.hdr.guard l → takesPart c f.hdr.guard m → c.read32 f.a l = c.read32 f.a m) d

/-- R163 and R164. -/
def exchanges : Family
  | .shfl f => some (Shuffle f)
  | .vote f => some (fun c _ => Vote f c)
  | _ => none

/-- The participants of a lane operation, in ascending `TID`. -/
def InTidOrder (c : Ctx) (gd : Option Grd) (ps : List Nat) : Prop :=
  ps.Perm (c.effLanes gd) ∧ ps.Pairwise (fun a b => c.g.tid a ≤ c.g.tid b)

/-- The reduction of a non-empty list of values in `TID` order (R165). -/
def Reduced (t : Ty) (op : Nat) (rm : Rm) (sat : Bool) (xs : List DWord) (d : DWord) : Prop :=
  let ys := xs.map (fun x => intOfBits t x.toNat)
  match t, op with
  | .f32, 0 => d = BitVec.ofNat 64 (fpSum .f32 (modeOf rm 0) (xs.map (fun x => Fp.f32.unpack x.toNat))).1
  | .f64, 0 => d = BitVec.ofNat 64 (fpSum .f64 (modeOf rm 0) (xs.map (fun x => Fp.f64.unpack x.toNat))).1
  | .f32, m => d = BitVec.ofNat 64 (fpExtreme .f32 (m == 2) (xs.map BitVec.toNat)).1
  | .f64, m => d = BitVec.ofNat 64 (fpExtreme .f64 (m == 2) (xs.map BitVec.toNat)).1
  | t, 0 => Put t sat ys.sum d
  | t, 1 => ∃ y ∈ ys, (∀ z ∈ ys, y ≤ z) ∧ Put t false y d
  | t, 2 => ∃ y ∈ ys, (∀ z ∈ ys, z ≤ y) ∧ Put t false y d
  | _, 3 => ∀ i, d.getLsbD i = xs.all (fun x => x.getLsbD i)
  | _, 4 => ∀ i, d.getLsbD i = xs.any (fun x => x.getLsbD i)
  | _, _ => ∀ i, d.getLsbD i = ((xs.filter (fun x => x.getLsbD i)).length % 2 == 1)

/-- The identity of an operation (R166). -/
def Identity (t : Ty) (op : Nat) (d : DWord) : Prop :=
  match t, op with
  | .f32, 1 => d = 0x7F800000
  | .f32, 2 => d = 0xFF800000
  | .f64, 1 => d = 0x7FF0000000000000
  | .f64, 2 => d = 0xFFF0000000000000
  | t, 1 => Put t false (greatest t) d
  | t, 2 => Put t false (least t) d
  | t, 3 => Bits (width t) (fun _ => true) d
  | _, _ => d = 0

/-! ### Rounding, read off the encodings (R92, R93, R99 to R103) -/

/-- Exponent bits, mantissa bits and the encoding of the largest finite value of a format. -/
def layout : Fp → Nat × Nat × Nat
  | .f64 => (11, 52, 0x7FEFFFFFFFFFFFFF)
  | .f32 => (8, 23, 0x7F7FFFFF)
  | .f16 => (5, 10, 0x7BFF)
  | .bf16 => (8, 7, 0x7F7F)
  | .e4m3 => (4, 3, 0x7E)
  | .e5m2 => (5, 2, 0x7B)
  | .e3m2 => (3, 2, 0x1F)
  | .e2m3 => (2, 3, 0x1F)
  | .e2m1 => (2, 1, 0x7)

/-- The place of the sign, the sign of some bits, and the bits below it. -/
def signPlace (f : Fp) : Nat := 2 ^ ((layout f).1 + (layout f).2.1)
def signOf (f : Fp) (b : Nat) : Nat := b / signPlace f
def below (f : Fp) (b : Nat) : Nat := b % signPlace f

/-- Bits of a finite value. -/
def FiniteBits (f : Fp) (b : Nat) : Prop := b < 2 * signPlace f ∧ below f b ≤ (layout f).2.2

/-- A magnitude in units of 2^(-1074), the least value of FP64: every format counts in whole units. -/
def magnitude (f : Fp) (b : Nat) : Nat :=
  let (w, p, _) := layout f
  let e := below f b / 2 ^ p
  let m := below f b % 2 ^ p
  (if e = 0 then m else (2 ^ p + m) * 2 ^ (e - 1)) * 2 ^ (1076 - 2 ^ (w - 1) - p)

/-- A finite value in those units. -/
def units (f : Fp) (b : Nat) : Int := if signOf f b = 1 then -(magnitude f b : Int) else magnitude f b

/-- A format has infinities; the bits of one. -/
def hasInf : Fp → Bool
  | .f64 | .f32 | .f16 | .bf16 | .e5m2 => true
  | _ => false
def IsInf (f : Fp) (b : Nat) : Prop := hasInf f = true ∧ b < 2 * signPlace f ∧ below f b = (layout f).2.2 + 1

/-- The bits of a NaN of a format with infinities. -/
def IsNan (f : Fp) (b : Nat) : Prop := hasInf f = true ∧ b < 2 * signPlace f ∧ (layout f).2.2 + 1 < below f b

/-- What stands for a value beyond range (R103): the infinity, or with `sat` and in a format without one the largest finite value. -/
def beyond (f : Fp) (sat : Bool) : Nat := if hasInf f && !sat then (layout f).2.2 + 1 else (layout f).2.2

/-- `r` is the exact value `x`, not zero and in units of 2^(-2148), rounded once (R99, R103): to the nearest value, of two that are equally near the even one; or to the
nearest that is no larger in magnitude, no greater, or no less; with the sign of `x`. What lies half a step or more above the largest value, or in the directed modes
anything above it on the side to which the mode rounds, is beyond range. -/
def Rounded (f : Fp) (mode : Mode) (sat : Bool) (x : Int) (r : Nat) : Prop :=
  let value (b : Nat) : Int := units f b * 2 ^ 1074
  let top : Int := magnitude f (layout f).2.2 * 2 ^ 1074
  let step : Int := top - value ((layout f).2.2 - 1)
  r < 2 * signPlace f ∧ (signOf f r = 1 ↔ x < 0)
    ∧ match mode with
      | .rn => (2 * x.natAbs < 2 * top + step → FiniteBits f r ∧ ∀ b, FiniteBits f b → (x - value r).natAbs ≤ (x - value b).natAbs
            ∧ ((x - value r).natAbs = (x - value b).natAbs → value b = value r ∨ r % 2 = 0))
          ∧ (2 * top + step ≤ 2 * x.natAbs → below f r = beyond f sat)
      | .rz => FiniteBits f r ∧ (value r).natAbs ≤ x.natAbs ∧ ∀ b, FiniteBits f b → (value b).natAbs ≤ x.natAbs → (value b).natAbs ≤ (value r).natAbs
      | .rd => (x < -top → below f r = beyond f sat) ∧ (-top ≤ x → FiniteBits f r ∧ value r ≤ x ∧ ∀ b, FiniteBits f b → value b ≤ x → value b ≤ value r)
      | .ru => (top < x → below f r = beyond f sat) ∧ (x ≤ top → FiniteBits f r ∧ x ≤ value r ∧ ∀ b, FiniteBits f b → x ≤ value b → value r ≤ value b)
      | .sr _ => True

/-- A generated NaN of a register format (R100). -/
def generated (f : Fp) (cause : Nat) : Nat :=
  match f with
  | .f64 => 0x7FF8000000000000 + cause
  | .f32 => 0x7FC00000 + cause
  | .f16 => 0x7E00
  | _ => 0x7FC0

/-- A NaN made quiet (R101). -/
def quieted (f : Fp) (b : Nat) : Nat := b ||| 2 ^ ((layout f).2.1 - 1)

/-- R99 to R102: sums, products and fused products of finite values are the exact ones rounded once; the sign of an exact zero; infinities; NaNs. -/
def FloatRounding : Prop :=
  ∀ (f : Fp) (m : Mode) (a b c : Nat), f ∈ [Fp.f64, .f32, .f16, .bf16] → m ∈ [Mode.rn, .rz, .rd, .ru] →
    let add := (f.addV m (f.unpack a) (f.unpack b)).1
    let sub := (f.subV m (f.unpack a) (f.unpack b)).1
    let mul := (f.mulV m (f.unpack a) (f.unpack b)).1
    let fma := (f.fmaV m (f.unpack a) (f.unpack b) (f.unpack c)).1
    let zero (s : Prop) [Decidable s] : Nat := if s then signPlace f else 0
    (FiniteBits f a → FiniteBits f b →
      (units f a + units f b ≠ 0 → Rounded f m false ((units f a + units f b) * 2 ^ 1074) add)
      ∧ (units f a + units f b = 0 → add = if signOf f a = signOf f b then zero (signOf f a = 1) else zero (m = .rd))
      ∧ (units f a - units f b ≠ 0 → Rounded f m false ((units f a - units f b) * 2 ^ 1074) sub)
      ∧ (units f a * units f b ≠ 0 → Rounded f m false (units f a * units f b) mul)
      ∧ (units f a * units f b = 0 → mul = zero (signOf f a ≠ signOf f b))
      ∧ (FiniteBits f c → let x := units f a * units f b + units f c * 2 ^ 1074
        (x ≠ 0 → Rounded f m false x fma)))
    ∧ (IsInf f a → (FiniteBits f b → add = a ∧ (units f b ≠ 0 → mul = zero (signOf f a ≠ signOf f b) + (layout f).2.2 + 1) ∧ (units f b = 0 → mul = generated f 4))
      ∧ (IsInf f b → add = if a = b then a else generated f 3))
    ∧ (IsNan f a → b < 2 * signPlace f → c < 2 * signPlace f → add = quieted f a ∧ sub = quieted f a ∧ mul = quieted f a ∧ fma = quieted f a)
    ∧ (¬IsNan f a → a < 2 * signPlace f → IsNan f b → c < 2 * signPlace f → add = quieted f b ∧ mul = quieted f b ∧ fma = quieted f b)

/-- R103: a finite value converted to a format is rounded once; a zero keeps its sign; an infinity stays one or becomes the largest finite value; what a NaN becomes in the formats
that carry no payload. -/
def ConversionRounding : Prop :=
  ∀ (f g : Fp) (m : Mode) (sat : Bool) (a : Nat), m ∈ [Mode.rn, .rz, .rd, .ru] →
    let r := (fpConvert f g m sat (f.unpack a)).1
    let signed (b : Nat) : Nat := signOf f a * signPlace g + b
    (FiniteBits f a → (units f a ≠ 0 → Rounded g m sat (units f a * 2 ^ 1074) r) ∧ (units f a = 0 → r = signed 0))
    ∧ (IsInf f a → r = signed (beyond g sat))
    ∧ (IsNan f a → (g = .f16 → r = signed 0x7E00) ∧ (g = .bf16 → r = signed 0x7FC0) ∧ (g = .e5m2 → r = signed 0x7E) ∧ (g = .e4m3 → r = signed 0x7F)
      ∧ (g ∈ [Fp.e3m2, .e2m3, .e2m1] → r = 0))

end Sys2Proof.Claims

open Sys2Proof Sys2Proof.Machine Sys2Proof.Claims

/-! ## Register instructions -/

/-- R141 to R144: integer arithmetic, address arithmetic and compares, logic. -/
def Obligations.Integers : Prop := Completes intArith ∧ Completes addressCompare ∧ Completes logic

/-- R145 to R147: shifts and bit fields. -/
def Obligations.ShiftsAndFields : Prop := Completes shifts ∧ Completes bitFields

/-- R148. -/
def Sys2Proof.Claims.DirectMoves : Prop := Completes moves

/-- R149: `MOVI` reads the register q + j of the class of its base; where R149 forbids that register in a participating lane it takes a fatal
fault instead. -/
def Sys2Proof.Claims.IndexedMoves : Prop :=
  ∀ (s : State) (f : FmtA) (u : Issuing) (c : Ctx) (r : Row) (g : Group), Issues s (.movi f) u c r g →
    ((∀ l ∈ c.aluLanes r, moviFine f c l) →
      ∃ t g' v, exec (.movi f) s = .next t ∧ RegisterResult s t u c r g (c.aluLanes r) v g' ∧
        ∀ l ∈ c.aluLanes r, v l = c.g.readReg (!isS f.a) (width f.ty / 32) (moviReg f c l) l)
    ∧ (∀ l ∈ c.aluLanes r, ¬moviFine f c l → ∃ cause sub addr, exec (.movi f) s = .next (s.raise u (.fatal cause sub addr)) ∧ (cause = 0x21 ∨ cause = 0x23))

/-- R132: `NOP` changes nothing but the PC. -/
def Sys2Proof.Claims.NoOperation : Prop :=
  ∀ (s : State) (f : FmtA) (u : Issuing) (c : Ctx) (r : Row) (g : Group), Issues s (.nop f) u c r g →
    ∃ t g', exec (.nop f) s = .next t ∧ t.group? u.core u.seat = some g' ∧ g'.pc = nextPc c.pc ∧ AllRegsKept g g' ∧ GroupKept g g' ∧ ElseKept s t u.core u.seat u.quad

/-- R132, R148 and R149: `MOV`, `MOVH` and `MOVI`; `NOP`. -/
def Obligations.Moves : Prop := DirectMoves ∧ IndexedMoves ∧ NoOperation


/-- R99 to R102 and R150 to R154: floating-point arithmetic, minimum, maximum, sign, class and compare, and the function unit; what a sum, a product and a fused product are, read off
the encodings. -/
def Obligations.FloatingPoint : Prop := Completes floats ∧ Completes floatCompare ∧ Completes functionUnit ∧ FloatRounding

/-- R103 and R156 to R158: a conversion leaves the value of its rule; what a value converted to a format is, read off the encodings. -/
def Obligations.Conversions : Prop := ConversionRounding ∧ ∀ s0 : State, ∀ (s : State) (i : Instr) (u : Issuing) (c : Ctx) (r : Row) (g : Group) (R : Ctx → Nat → DWord → Prop),
    s0 = s → Issues s i u c r g → conversions s0 i = some R →
      ∃ t g' v, exec i s = .next t ∧ RegisterResult s t u c r g (c.aluLanes r) v g' ∧ ∀ l ∈ c.aluLanes r, R c l (v l)

/-- R163 and R164. -/
def Sys2Proof.Claims.Exchanges : Prop := Completes exchanges

/-- R165 and R166: `GRED` and `GSCAN` over the participants in ascending `TID`. -/
def Sys2Proof.Claims.Reductions : Prop :=
  ∀ (s : State) (f : FmtA) (u : Issuing) (c : Ctx) (r : Row) (g : Group),
    (Issues s (.gred f) u c r g → ∃ t g' v ps, exec (.gred f) s = .next t ∧ RegisterResult s t u c r g (c.aluLanes r) v g' ∧ InTidOrder c f.hdr.guard ps
      ∧ ∀ l ∈ c.aluLanes r, Reduced f.ty (f.opt.toNat % 8) f.rm f.sat (ps.map (fun k => opd c f.ty f.a k)) (v l))
    ∧ (Issues s (.gscan f) u c r g → ∃ t g' v ps, exec (.gscan f) s = .next t ∧ RegisterResult s t u c r g (c.aluLanes r) v g' ∧ InTidOrder c f.hdr.guard ps
      ∧ ∀ k l, ps[k]? = some l → ps.count l = 1 →
        let xs := (ps.take (if f.opt.getLsbD 3 then k else k + 1)).map (fun k => opd c f.ty f.a k)
        (xs = [] → Identity f.ty (f.opt.toNat % 8) (v l)) ∧ (xs ≠ [] → Reduced f.ty (f.opt.toNat % 8) f.rm f.sat xs (v l)))

/-- R162 to R166: lane operations. -/
def Obligations.LaneOperations : Prop := Exchanges ∧ Reductions

namespace Sys2Proof.Claims

/-! ### Guards, branches, joins -/

/-- Instruction `i` issues in state `s`, with a guard that is false in every active lane (R47). -/
structure IssuesOff (s : State) (i : Instr) (u : Issuing) (c : Ctx) (r : Row) (g : Group) : Prop where
  cur : s.sched.cur = some u
  ctx : s.ctx? u = some c
  seated : s.group? u.core u.seat = some g
  wf : i.wf = true
  row : row? i = some r
  passes : precheck i c = none
  solves : s.solveCheck i c = none
  ready : s.ready i c = true
  off : ∀ l ∈ c.g.lanes, c.guard r.hdr.guard l = false
  novote : ∀ f, i ≠ .vote f

/-- Every active lane has a true guard. -/
def Agree (c : Ctx) (gd : Option Grd) : Prop := ∀ l ∈ c.g.lanes, c.guard gd l = true

/-- `p` is the PC of the slot OFF slots from the one at `pc` (R119, R128): slots are counted through the five of each line. -/
def Slotted (pc : Nat) (off : Int) (p : Nat) : Prop :=
  p < 2 ^ 48 ∧ p % 64 ∈ [0, 12, 24, 36, 48] ∧ (5 * (p / 64) + p % 64 / 12 : Int) = 5 * (pc / 64 : Nat) + (pc % 64 / 12 : Nat) + off

/-- Where a branch goes when its lanes agree (R168, R169). -/
def goesTo (i : Instr) (c : Ctx) (p : Nat) : Prop :=
  match i with
  | .bra f => Agree c f.hdr.guard ∧ Slotted c.pc f.off.toInt p
  | .call f => Agree c f.hdr.guard ∧ Slotted c.pc f.off.toInt p
  | .brd f => Agree c f.hdr.guard ∧ Slotted c.pc f.off.toInt p
  | .jmp f => Agree c f.hdr.guard ∧ (c.sval 2 f.a).toNat = p ∧ p < 2 ^ 48 ∧ p % 64 ∈ [0, 12, 24, 36, 48]
  | .ret f => Agree c f.hdr.guard ∧ (∀ l ∈ c.g.lanes, (c.read 2 f.a l).toNat = p) ∧ p < 2 ^ 48 ∧ p % 64 ∈ [0, 12, 24, 36, 48]
  | _ => False

/-- Where the lanes of a branch do not agree it is an illegal instruction: the guard of `BRA`, `JMP`, `CALL` or `RET` differs, or the addresses of `RET` (R48, R168). -/
def disagrees (i : Instr) (c : Ctx) : Prop :=
  match i with
  | .bra f => ¬Agree c f.hdr.guard
  | .call f => ¬Agree c f.hdr.guard
  | .jmp f => ¬Agree c f.hdr.guard
  | .ret f => ¬Agree c f.hdr.guard ∨ ∃ l ∈ c.g.lanes, ∃ m ∈ c.g.lanes, c.read 2 f.a l ≠ c.read 2 f.a m
  | _ => False

/-- Records `rs` stand for the threads in lanes `ls` of group `g` (R49), in ascending `TID`. -/
def Spawned (g : Group) (ls : List Nat) (pc bud live : Nat) (jn : Option Nat) (tchk : Bool) (rs : List DeckRec) : Prop :=
  ∃ ks : List Nat, ks.Perm ls ∧ ks.Pairwise (fun a b => g.tid a ≤ g.tid b) ∧ rs.length = ks.length ∧
    ∀ (k l : Nat) (x : DeckRec), ks[k]? = some l → rs[k]? = some x →
      x.pc = pc ∧ x.tid = g.tid l ∧ x.l = live ∧ x.bud = bud ∧ x.jwait = jn.isSome ∧ (∀ n, jn = some n → x.jn = n) ∧ x.tcheck = tchk
        ∧ x.jmask = ((mget g.threads l).map (fun t => t.jmask)).getD 0 ∧ x.regs = (List.range live).map (fun j => g.vreg j l)

/-- The deck of a core's team. -/
def deckOf (s : State) (core : Nat) : List DeckRec := ((s.core core).team.map (fun t => t.deck)).getD []

/-- The threads of group `g` in lanes `ls` stay. -/
def Stay (g g' : Group) (ls : List Nat) : Prop := g'.threads = g.threads.filter (fun p => ls.contains p.1)

/-- A join counter of a core's team (R51). -/
def joinOf (s : State) (core n : Nat) : Join := ((s.core core).team.map (fun t => t.join n)).getD { e := 0, a := 0, budget := 0 }

/-- Lanes whose threads are counted in a join counter. -/
def counted (g : Group) (n : Nat) : List Nat := (g.threads.filter (fun p => p.2.jmask.getLsbD n)).map Prod.fst

/-- What a spawn record says of its thread (R49): `TID`, PC, JMASK, live count and registers. -/
def threadOf (r : DeckRec) : Nat × Nat × BitVec 8 × Nat × List Word := (r.tid, r.pc, r.jmask, r.l, r.regs)

/-- The threads of the records `rs` that have arrived at join `n`, re-dealt into the groups `gs` (R51): by PC, each set in ascending `TID` into full groups with a partial last one,
the sets in ascending order of their lowest `TID`, with bit `n` of JMASK clear. -/
def Redealt (n : Nat) (rs : List DeckRec) (gs : List (List DeckRec)) : Prop :=
  (gs.flatten.map threadOf).Perm (rs.map (fun r => threadOf { r with jmask := r.jmask &&& ~~~((1 : BitVec 8) <<< n) }))
    ∧ (∀ x ∈ gs, x ≠ [] ∧ x.length ≤ 32 ∧ x.Pairwise (fun a b => a.tid ≤ b.tid) ∧ ∀ a ∈ x, ∀ b ∈ x, a.pc = b.pc)
    ∧ ∀ (i j : Nat) (x y : List DeckRec), i < j → gs[i]? = some x → gs[j]? = some y → ∀ a ∈ x, ∀ b ∈ y,
        (a.pc = b.pc → x.length = 32 ∧ a.tid ≤ b.tid) ∧ (a.pc ≠ b.pc → ∃ m ∈ gs.flatten, m.pc = a.pc ∧ ∀ k ∈ gs.flatten, k.pc = b.pc → m.tid ≤ k.tid)

/-- The re-dealt groups `gs` wait in the deck as records `ds`, each to be seated when its budget is granted (R50, R51). -/
def InDeck (budget : Nat) (gs : List (List DeckRec)) (ds : List DeckRec) : Prop :=
  ds.map threadOf = gs.flatten.map threadOf ∧ (∀ d ∈ ds, d.jwait = false ∧ d.bud = budget)
    ∧ ds.map (fun d => d.bundle) = gs.flatMap (fun x => x.map (fun _ => (x.head?.map (fun a => a.tid)).getD 0 |> some))

/-- Group `g'` is the re-dealt group `x` in the seat that group `g` held (R50, R51): the threads in lanes 0, 1, 2 and onward with their registers, scalar registers zero, the
handles and origins of the seat, at the PC of its threads, with the budget or waiting for the rise to it. -/
def TakesOver (budget : Nat) (x : List DeckRec) (g g' : Group) : Prop :=
  g'.threads = ((List.range x.length).zip x).map (fun p => (p.1, { tid := p.2.tid, jmask := p.2.jmask }))
    ∧ (∀ a ∈ x, g'.pc = a.pc) ∧ g'.sregs = [] ∧ g'.handles = g.handles ∧ g'.origins = g.origins ∧ (g'.allot = budget ∨ g'.wait = some (.rise budget))
    ∧ ∀ (i k : Nat) (a : DeckRec) (w : Word), x[i]? = some a → k < a.l → k < 256 → k < budget → a.regs[k]? = some w → g'.vreg k i = w

/-- The group holds a live handle or an origin. -/
def Holds (g : Group) : Prop := (∃ h ∈ g.handles, h.2.live = true) ∨ g.origins ≠ []

end Sys2Proof.Claims

/-! ## Guards, branches, joins -/

/-- R47: an instruction whose guard is false in every active lane issues and has no effect. `VOTE` has a result without a participant too (R164). -/
def Sys2Proof.Claims.GuardFalse : Prop :=
  ∀ (s : State) (i : Instr) (u : Issuing) (c : Ctx) (r : Row) (g : Group), IssuesOff s i u c r g →
    ∃ t g', exec i s = .next t ∧ t.group? u.core u.seat = some g' ∧ g'.pc = nextPc c.pc ∧ AllRegsKept g g' ∧ GroupKept g g' ∧ ElseKept s t u.core u.seat u.quad

/-- R126: the lanes in which an instruction takes effect: every active lane without a guard; with one, those in which bit GBIT of GREG, read in the lane for a
v register or once for an s register, differs from GNEG. -/
def Sys2Proof.Claims.GuardLanes : Prop :=
  ∀ (c : Ctx) (l : Nat),
    (l ∈ c.effLanes none ↔ l ∈ c.g.lanes)
    ∧ (∀ n bit neg, l ∈ c.effLanes (some { reg := .v n, bit := bit, neg := neg }) ↔ l ∈ c.g.lanes ∧ (c.g.vreg n.toNat l).getLsbD bit.toNat ≠ neg)
    ∧ (∀ n bit neg, l ∈ c.effLanes (some { reg := .s n, bit := bit, neg := neg }) ↔ l ∈ c.g.lanes ∧ (c.g.sreg n.toNat).getLsbD bit.toNat ≠ neg)

/-- R126: the guard's fields of a word that decodes. With GEN = 0 they are zero; with GEN = 1 GREG names a v or s register. -/
def Sys2Proof.Claims.GuardFields : Prop :=
  ∀ (w : IWord) (i : Instr) (r : Row), decode w = .ok i → row? i = some r →
    let code := w.toNat / 2 ^ 71 % 2 ^ 9
    let bit := w.toNat / 2 ^ 66 % 2 ^ 5
    (w.getLsbD 64 = false → r.hdr.guard = none ∧ code = 0 ∧ bit = 0 ∧ w.getLsbD 65 = false)
    ∧ (w.getLsbD 64 = true → ∃ x, r.hdr.guard = some x ∧ x.bit.toNat = bit ∧ x.neg = w.getLsbD 65
        ∧ ((code < 256 ∧ x.reg = .v (BitVec.ofNat 8 code)) ∨ (256 ≤ code ∧ code < 320 ∧ x.reg = .s (BitVec.ofNat 6 (code - 256)))))

/-- R54: a matrix, accumulator or solve instruction (major opcodes 0xB0 to 0xC7) or a `COLL` of a group with fewer than 32 active lanes, whose fields are legal and
whose registers and origins are permitted (R41, R232, which R130 checks first), takes the precise trap PARTIAL-MASK and does nothing else: no token is taken, nothing is marked, no command is
started; in a handler it is NESTED-TRAP, without one UNHANDLED (R327). The guard has no part in this. -/
def Sys2Proof.Claims.PartialMask : Prop :=
  ∀ (s : State) (i : Instr) (u : Issuing) (c : Ctx) (r : Row) (g : Group), s.sched.cur = some u → u.snap = none → s.ctx? u = some c →
    s.group? u.core u.seat = some g → i.wf = true → row? i = some r → (let op := (encode i).toNat / 2 ^ 88; (0xB0 ≤ op ∧ op ≤ 0xC7) ∨ op = 0xA4) →
    acstIllegal g i = false → permitted i r g = true → g.lanes.length < 32 → g.fpe = [] →
    (hpc g.trapv ≠ 0 → g.handling = none →
      ∃ t g' h, exec i s = .next t ∧ t.group? u.core u.seat = some g' ∧ BytesKept s t ∧ SeatsKept s t u.core u.seat ∧ AllRegsKept g g' ∧ g'.threads = g.threads
        ∧ g'.pc = hpc g.trapv ∧ g'.handling = some h ∧ h.resume = g.pc ∧ g'.marks = g.marks
        ∧ SpecialKept { g with handling := some h, trapc := BitVec.ofNat 32 (5 + 2 ^ 16 * lowestBit g.mask), trapa := BitVec.ofNat 64 g.pc, trapm := g.mask } g'
        ∧ (∀ k, t.owner k = s.owner k) ∧ (t.core u.core).team = (s.core u.core).team ∧ (t.core u.core).slots = (s.core u.core).slots
        ∧ ∀ q, ((t.core u.core).quad q).engine = ((s.core u.core).quad q).engine ∧ ((t.core u.core).quad q).origins = ((s.core u.core).quad q).origins)
    ∧ (g.handling.isSome = true → exec i s = .next (s.groupFatal u.core u.seat 0x2A 5 (BitVec.ofNat 64 g.pc)))
    ∧ (g.handling = none → hpc g.trapv = 0 → exec i s = .next (s.groupFatal u.core u.seat 0x31 5 (BitVec.ofNat 64 g.pc)))

/-- R47, R54 and R126: guards, and the full mask of the uniform instructions. -/
def Obligations.Guards : Prop := GuardFalse ∧ GuardLanes ∧ GuardFields ∧ PartialMask

/-- R48, R168 and R169: `BRA`, `JMP`, `CALL`, `RET`, and `BRD` when its lanes agree. The PC becomes the target, whose TMASK bit is checked at the first issue there
(R120); `CALL` writes the PC of the next slot first. Lanes that do not agree are an illegal instruction. -/
def Obligations.Branches : Prop :=
  ∀ (s : State) (i : Instr) (u : Issuing) (c : Ctx) (r : Row) (g : Group), Issues s i u c r g →
    (∀ p, goesTo i c p → ∃ t g', exec i s = .next t ∧ SeatStep s t u g g' ∧ g'.threads = g.threads ∧ g'.pc = p ∧ g'.tcheck = true
      ∧ (match i with
        | .call f => (∀ l ∈ (if isS f.dst then [c.lane0] else c.g.lanes), g'.holds f.dst 2 l = BitVec.ofNat 64 (nextPc c.pc))
            ∧ RegsKept f.dst 2 c.g.lanes g g'
        | _ => AllRegsKept g g'))
    ∧ (disagrees i c → exec i s = .next (s.raise u (.fatal 0x23 0 (BitVec.ofNat 64 c.pc))))

/-- R48 and R169: `BRD` whose lanes do not agree. The larger side stays in the seat, the taken side on a tie, and each thread of the other side goes to the deck
as one record: the PC of its side, the group's allotment as budget, L registers, and TCHK when it is the taken side. No fault is noted of the group unless a
record goes to the overflow area. -/
def Obligations.DivergentBranch : Prop :=
  ∀ (s : State) (f : FmtB) (u : Issuing) (c : Ctx) (r : Row) (g : Group) (p : Nat), Issues s (.brd f) u c r g → ¬Agree c f.hdr.guard →
    Slotted c.pc f.off.toInt p → (s.core u.core).team.isSome = true → c.g.handling = none →
      ∃ t g' rs, exec (.brd f) s = .next t ∧ SeatStep s t u { g with faultWord := g'.faultWord } g' ∧ AllRegsKept g g'
        ∧ ((∀ x ∈ rs, x.overflow = false) → g'.faultWord = g.faultWord) ∧ deckOf t u.core = deckOf s u.core ++ rs
        ∧ (let taken := c.effLanes f.hdr.guard
           let rest := c.g.lanes.filter (fun l => !taken.contains l)
           if rest.length ≤ taken.length then
             Stay g g' taken ∧ g'.pc = p ∧ Spawned g rest (nextPc c.pc) c.g.allot f.live.toNat none false rs
           else Stay g g' rest ∧ g'.pc = nextPc c.pc ∧ Spawned g taken p c.g.allot f.live.toNat none true rs)

namespace Sys2Proof.Claims

/-- A code pointer that `CALLI` takes if the TMASK bit of its target is set (R53, R170). -/
def Pointer (live : Nat) (p : DWord) : Prop :=
  p.toNat < 2 ^ 54 ∧ 2 ≤ p.toNat / 2 ^ 48 ∧ p.toNat / 2 ^ 48 ≤ 32 ∧ live ≤ 8 * (p.toNat / 2 ^ 48) ∧ p.toNat % 64 ∈ [0, 12, 24, 36, 48]

/-- The line of a code pointer's target, and where it stands in the global window. -/
def targetLine (p : DWord) : Nat := p.toNat % 2 ^ 48 / 64 * 64
def targetVa (c : Ctx) (p : DWord) : Option Nat := c.g.fetchVa (targetLine p)

/-- A target's line is at hand, with bytes `bs`: the L1 TLB holds its page, which is executable, not beyond the package and of the owner's colour; the bytes are
those of the L1's code line, or of memory. -/
def AtHand (s : State) (c : Ctx) (p : DWord) (bs : List Byte) : Prop :=
  ∃ va l, targetVa c p = some va ∧ tlbFind (s.core c.core).tlb (va / Config.pageBytes) = some l ∧ l.tgt ≠ 2 ∧ l.x = true
    ∧ (s.owner c.owner).leafColourOk l va = true
    ∧ bs = (match (s.core c.core).l1Find (l.addr va / 128 * 128) (l.tgt == 1) true with
        | some x => accBytes x.bytes (l.addr va) 64
        | none => s.readAt (l.tgt == 1) (l.addr va) 64)

/-- The TMASK bit of a target in its line (R119, R120). -/
def tmaskOf (bs : List Byte) (p : DWord) : Bool := lineTmask bs (p.toNat % 64 / 12)

/-- The pointer whose threads stay (R53): most threads, then the lowest PC. -/
def Stays (ps : List DWord) (p : DWord) : Prop :=
  p ∈ ps ∧ ∀ q ∈ ps, q ≠ p → ps.count q < ps.count p ∨ (ps.count q = ps.count p ∧ p.toNat % 2 ^ 48 ≤ q.toNat % 2 ^ 48)

/-- Register `j` of a thread that leaves by `CALLI` with its return address in `d`. -/
def withReturn (g : Group) (d : Nat) (ret : Nat) (l j : Nat) : Word :=
  if j = d then BitVec.ofNat 32 ret else if j = d + 1 then BitVec.ofNat 32 (ret / 2 ^ 32) else g.vreg j l

end Sys2Proof.Claims

/-- R53 and R170: `CALLI`. Each thread with a true guard records the PC of the next slot; those with the pointer of `Stays` stay in the seat and go on at its
PC with its budget (or wait for the rise), every other thread goes to the deck with its own pointer's PC and budget, and threads with a false guard go
there with the next slot and the group's allotment. -/
def Sys2Proof.Claims.CallSplits : Prop :=
  ∀ (s : State) (f : FmtB) (u : Issuing) (c : Ctx) (r : Row) (g : Group), Issues s (.calli f) u c r g → (s.core u.core).team.isSome = true →
    c.g.handling = none → g.fpe = [] → c.g.threads = g.threads → (c.g.threads.map Prod.fst).Nodup → regNum f.dst + 1 < f.live.toNat →
    (∀ p ∈ (s.core u.core).ops, p.2.kind.isProbe = false) →
    (∀ l ∈ c.effLanes f.hdr.guard, Pointer f.live.toNat (c.read 2 f.a l)
      ∧ ∃ bs, AtHand s c (c.read 2 f.a l) bs ∧ tmaskOf bs (c.read 2 f.a l) = true) →
      ∃ t g' p rs, exec (.calli f) s = .next t ∧ t.group? u.core u.seat = some g' ∧ BytesKept s t ∧ SeatsKept s t u.core u.seat
        ∧ Stays ((c.effLanes f.hdr.guard).map (fun l => c.read 2 f.a l)) p
        ∧ (let stay := (c.effLanes f.hdr.guard).filter (fun l => c.read 2 f.a l == p)
           let leave := c.g.lanes.filter (fun l => !stay.contains l)
           g'.pc = p.toNat % 2 ^ 48 ∧ Stay g g' stay ∧ (∀ l ∈ stay, g'.holds f.dst 2 l = BitVec.ofNat 64 (nextPc c.pc))
            ∧ (g'.allot = 8 * (p.toNat / 2 ^ 48) ∨ (g'.allot = g.allot ∧ g'.wait = some (.rise (8 * (p.toNat / 2 ^ 48)))))
            ∧ g'.sregs = g.sregs ∧ g'.handles = g.handles ∧ g'.origins = g.origins ∧ g'.trapv = g.trapv
            ∧ (∀ k l, k < g'.allot → l ∈ stay → k ≠ regNum f.dst → k ≠ regNum f.dst + 1 → g'.vreg k l = g.vreg k l)
            ∧ deckOf t u.core = deckOf s u.core ++ rs ∧ rs.length = leave.length
            ∧ ∀ l ∈ leave, ∃ x ∈ rs, x.tid = g.tid l ∧ x.l = f.live.toNat ∧ x.jwait = false ∧ x.regs.length = f.live.toNat
                ∧ (if l ∈ c.effLanes f.hdr.guard then x.pc = (c.read 2 f.a l).toNat % 2 ^ 48 ∧ x.bud = 8 * ((c.read 2 f.a l).toNat / 2 ^ 48)
                      ∧ ∀ j, j < f.live.toNat → x.regs[j]? = some (withReturn g (regNum f.dst) (nextPc c.pc) l j)
                   else x.pc = nextPc c.pc ∧ x.bud = c.g.allot ∧ ∀ j, j < f.live.toNat → x.regs[j]? = some (g.vreg j l)))

/-- R120 and R170: `CALLI` with a pointer that is malformed, or whose target's TMASK bit is clear, is a fatal illegal target, before any effect. -/
def Sys2Proof.Claims.CallRefused : Prop :=
  ∀ (s : State) (f : FmtB) (u : Issuing) (c : Ctx) (r : Row) (g : Group), Issues s (.calli f) u c r g → c.g.handling = none → regNum f.dst + 1 < f.live.toNat →
    let ps := (c.effLanes f.hdr.guard).map (fun l => c.read 2 f.a l)
    ((∃ p ∈ ps, ¬Pointer f.live.toNat p)
      ∨ ((∀ p ∈ (s.core u.core).ops, p.2.kind.isProbe = false) ∧ (∀ p ∈ ps, ∃ bs, AtHand s c p bs) ∧ ∃ p ∈ ps, ∃ bs, AtHand s c p bs ∧ tmaskOf bs p = false)) →
    ∃ p ∈ ps, exec (.calli f) s = .next (s.raise u (.fatal 0x24 0 p))

/-- R170: where the pages of the targets' lines are not in the L1 TLB, a `CALLI` that issues alone has no effect: its group waits at it for a read of the first of
them, and it issues again. -/
def Sys2Proof.Claims.CallWaits : Prop :=
  ∀ (s : State) (f : FmtB) (u : Issuing) (c : Ctx) (r : Row) (g : Group), Issues s (.calli f) u c r g → c.g.handling = none → regNum f.dst + 1 < f.live.toNat →
    u.snap = none → g.fpe = [] → (∀ p ∈ (s.core u.core).ops, p.2.kind.isProbe = false) →
    (∀ l ∈ c.effLanes f.hdr.guard, Pointer f.live.toNat (c.read 2 f.a l)
      ∧ ∃ va, targetVa c (c.read 2 f.a l) = some va ∧ tlbFind (s.core c.core).tlb (va / Config.pageBytes) = none) →
    ∃ t g' k o, exec (.calli f) s = .next t ∧ SeatStep s t u g g' ∧ AllRegsKept g g' ∧ g'.threads = g.threads ∧ g'.pc = g.pc ∧ g'.wait = some (.op k)
      ∧ mget (t.core u.core).ops k = some o ∧ o.kind = .probe .code ∧ deckOf t u.core = deckOf s u.core

/-- R53, R120 and R170: `CALLI`. -/
def Obligations.IndexedCall : Prop := CallSplits ∧ CallRefused ∧ CallWaits

/-- R51: `DMARK` counts each active thread that is not yet counted, and marks it. -/
def Sys2Proof.Claims.JoinMarks : Prop :=
  ∀ (s : State) (f : FmtB) (u : Issuing) (c : Ctx) (r : Row) (g : Group), Issues s (.dmark f) u c r g → (s.core u.core).team.isSome = true →
    c.g.threads = g.threads →
    ∃ t g', exec (.dmark f) s = .next t ∧ SeatStep s t u g g' ∧ AllRegsKept g g' ∧ g'.pc = nextPc c.pc
      ∧ g'.threads = g.threads.map (fun p => (p.1, { p.2 with jmask := p.2.jmask ||| (1 <<< f.jn.toNat) }))
      ∧ joinOf t u.core f.jn.toNat = { joinOf s u.core f.jn.toNat with
          e := (joinOf s u.core f.jn.toNat).e + (g.threads.length - (counted g f.jn.toNat).length) }

/-- R51: `REFORM` of which no active thread is counted is a `NOP`; else the counted threads arrive. Until the join completes, a group that holds a live handle or an
origin keeps them in its seat, which waits, and its passers go to the deck; any other writes them to the deck, and goes on with its passers, or
leaves its seat. A completed join clears both counts and re-deals the arrived threads by the PC at which each continues: into the seat that is held for them, and beyond it
into the deck, for free seats. A group to which the token passes comes to owe its acquire (R285), and no fault is noted of the group
unless a record goes to the overflow area. -/
def Sys2Proof.Claims.Reforms : Prop :=
  ∀ (s : State) (f : FmtB) (u : Issuing) (c : Ctx) (r : Row) (g : Group), Issues s (.reform f) u c r g → (s.core u.core).team.isSome = true →
    c.g.threads = g.threads → c.g.handles = g.handles → c.g.origins = g.origins → c.g.handling = none → g.fpe = [] →
    let n := f.jn.toNat
    let arr := counted c.g n
    let pass := c.g.lanes.filter (fun l => !arr.contains l)
    let j := joinOf s u.core n
    (arr = [] → ∃ t g', exec (.reform f) s = .next t ∧ SeatStep s t u g g' ∧ AllRegsKept g g' ∧ g'.threads = g.threads ∧ g'.pc = nextPc c.pc)
    ∧ (arr ≠ [] → j.a + arr.length ≠ j.e → ∃ t, exec (.reform f) s = .next t ∧ BytesKept s t ∧ SeatsButDue s t u.core u.seat
        ∧ joinOf t u.core n = { j with a := j.a + arr.length, budget := max j.budget c.g.allot }
        ∧ (Holds g → ∃ g' rs, t.group? u.core u.seat = some g' ∧ SpecialKept { g with faultWord := g'.faultWord } g' ∧ AllRegsKept g g'
            ∧ ((∀ x ∈ rs, x.overflow = false) → g'.faultWord = g.faultWord) ∧ Stay g g' (g.lanes.filter (fun l => !pass.contains l))
            ∧ g'.wait = some (.join n f.live.toNat c.pc) ∧ deckOf t u.core = deckOf s u.core ++ rs ∧ Spawned g pass (nextPc c.pc) c.g.allot f.live.toNat none false rs)
        ∧ (¬Holds g → ∃ rs, deckOf t u.core = deckOf s u.core ++ rs ∧ Spawned g arr (nextPc c.pc) c.g.allot f.live.toNat (some n) false rs
            ∧ (pass = [] → (mget (t.core u.core).seats u.seat) = some .blank)
            ∧ (pass ≠ [] → ∃ g', t.group? u.core u.seat = some g' ∧ SpecialKept { g with faultWord := g'.faultWord } g' ∧ AllRegsKept g g'
                ∧ ((∀ x ∈ rs, x.overflow = false) → g'.faultWord = g.faultWord) ∧ Stay g g' (g.lanes.filter (fun l => !arr.contains l)) ∧ g'.pc = nextPc c.pc)))
    ∧ (arr ≠ [] → j.a + arr.length = j.e → ∃ t, exec (.reform f) s = .next t ∧ (joinOf t u.core n).e = 0 ∧ (joinOf t u.core n).a = 0)
    ∧ (arr ≠ [] → j.a + arr.length = j.e → g.wait = none → (∀ x h, s.group? u.core x = some h → x ≠ u.seat → ∀ live pc, h.wait ≠ some (.join n live pc)) →
      arr.length + (deckOf s u.core).length ≤ 1056 → let budget := max j.budget c.g.allot
      let waits (d : DeckRec) : Bool := d.jwait && d.jn == n
      ∃ t own gs, exec (.reform f) s = .next t ∧ Spawned g arr (nextPc c.pc) c.g.allot f.live.toNat (if own.any waits then some n else none) false own
        ∧ Redealt n ((deckOf s u.core).filter waits ++ own) gs
        ∧ (¬Holds g → ∃ ds, deckOf t u.core = (deckOf s u.core).filter (fun d => !waits d) ++ ds ∧ InDeck budget gs ds)
        ∧ (Holds g → ∃ x rest g' ps ds, gs = x :: rest ∧ t.group? u.core u.seat = some g' ∧ TakesOver budget x g g'
          ∧ Spawned g pass (nextPc c.pc) c.g.allot f.live.toNat none false ps ∧ deckOf t u.core = (deckOf s u.core).filter (fun d => !waits d) ++ ps ++ ds ∧ InDeck budget rest ds))

/-- R51: `DMARK` and `REFORM`. -/
def Obligations.Joins : Prop := JoinMarks ∧ Reforms


/-- R52 and R55: `EXIT` ends each active thread with a true guard; a group whose last thread exits leaves its seat, and one of which threads are left goes on with
them. The counts of joins in which an exiting thread is counted fall, so the other seats are stated for threads that no join counts. -/
def Sys2Proof.Claims.Exits : Prop :=
  ∀ (s : State) (f : FmtB) (u : Issuing) (c : Ctx) (r : Row) (g : Group) (m : Team), Issues s (.exit f) u c r g → (s.core u.core).team = some m →
    c.g.threads = g.threads → (c.g.threads.map Prod.fst).Nodup → c.g.handling = none →
    s.orphans u.core m ((c.effLanes f.hdr.guard).map (fun l => g.tid l)) = false →
      ∃ t m', exec (.exit f) s = .next t ∧ (t.core u.core).team = some m' ∧ m'.exited = m.exited ++ (c.effLanes f.hdr.guard).map (fun l => g.tid l)
        ∧ (let ls := c.effLanes f.hdr.guard
          (∀ p ∈ c.g.threads, p.1 ∈ ls → p.2.jmask = 0) → BytesKept s t ∧ SeatsButDue s t u.core u.seat
          ∧ (ls.length = c.g.lanes.length → mget (t.core u.core).seats u.seat = some .blank)
          ∧ (ls.length ≠ c.g.lanes.length → ∃ g', t.group? u.core u.seat = some g' ∧ SpecialKept g g' ∧ AllRegsKept g g' ∧ g'.pc = nextPc c.pc
              ∧ Stay g g' (c.g.lanes.filter (fun l => !ls.contains l))))

/-- R235: an `EXIT` that would leave a participant of an open solve region without a thread is the fatal fault SOLVE-STATE. -/
def Sys2Proof.Claims.ExitRefused : Prop :=
  ∀ (s : State) (f : FmtB) (u : Issuing) (c : Ctx) (r : Row) (g : Group) (m : Team), Issues s (.exit f) u c r g → (s.core u.core).team = some m →
    c.g.threads = g.threads → c.g.handling = none → s.orphans u.core m ((c.effLanes f.hdr.guard).map (fun l => g.tid l)) = true →
      exec (.exit f) s = .next (s.raise u (.fatal 0x2E 0 0))

namespace Sys2Proof.Claims

/-- The group handles PRE, and its owner's switch is due: between S and S + 8,191 (R27, R172). -/
def SwitchDue (s : State) (c : Ctx) : Prop :=
  ∃ w h, s.mgmt.switch = some w ∧ c.g.handling = some h ∧ h.pre = true ∧ w.delivered = true ∧ w.cut = false ∧ w.out = some c.owner

end Sys2Proof.Claims

/-- What `YIELD` leaves (R44, R45, R172): the play ends, its latches are emptied, and the group stands at the next slot with wait `w`. -/
def Sys2Proof.Claims.PlayEnds (s t : State) (u : Issuing) (c : Ctx) (g : Group) (w : Option Wait) : Prop :=
  ∃ g', SeatStep s t u g g' ∧ AllRegsKept g g' ∧ g'.threads = g.threads ∧ g'.pc = nextPc c.pc
    ∧ ((t.core u.core).quad u.quad).ended = true ∧ ((t.core u.core).quad u.quad).latches = [] ∧ g'.wait = w

/-- R44, R45 and R172: `YIELD` ends the play, and so does `YIELD.done` but in a PRE handler whose owner's switch is due. The group waits for nothing new. -/
def Sys2Proof.Claims.Yields : Prop :=
  ∀ (s : State) (i : Instr) (u : Issuing) (c : Ctx) (r : Row) (g : Group), Issues s i u c r g → (∃ f, i = .yield f ∨ (i = .yieldDone f ∧ ¬SwitchDue s c)) →
    g.fpe = [] → u.quad = u.seat / 16 → ∃ t, exec i s = .next t ∧ PlayEnds s t u c g g.wait

/-- R172: `YIELD.done` in a PRE handler whose owner's switch is due ends the play and waits for the switch. -/
def Sys2Proof.Claims.YieldsDone : Prop :=
  ∀ (s : State) (f : FmtB) (u : Issuing) (c : Ctx) (r : Row) (g : Group), Issues s (.yieldDone f) u c r g → SwitchDue s c → g.fpe = [] →
    u.quad = u.seat / 16 → ∃ t, exec (.yieldDone f) s = .next t ∧ PlayEnds s t u c g (some .yielded)

/-- R44, R45, R52, R55 and R172: the end of threads, and of a play. -/
def Obligations.ExitAndYield : Prop := Exits ∧ ExitRefused ∧ Yields ∧ YieldsDone

namespace Sys2Proof.Claims

/-! ### Barriers, fences, the commit token (R173 to R186) -/

/-- The barrier named by an instruction exists: its core runs a team and, for a cluster barrier of a declared cluster, the cluster is recorded. -/
def BarrierStands (s : State) (core : Nat) (clu : Bool) : Prop :=
  ∃ m, (s.core core).team = some m ∧ (clu = true → ∀ k x, m.cluster = some (k, x) → (mget (s.owner m.owner).clusters k).isSome = true)

/-- The barrier of an instruction: CLS and NUM of SMOD (R173). -/
def bar (s : State) (u : Issuing) (f : FmtS) : Barrier := s.barrier u.core (f.smod.getLsbD 4) (f.smod.toNat % 16)

/-- A scalar register that an instruction writes: the other registers stay. -/
def Writes (o : Opd) (n : Nat) (c : Ctx) (g g' : Group) (d : DWord) : Prop := g'.holds o n c.lane0 = d ∧ RegsKept o n [c.lane0] g g'

/-- No data line stands in the L1 of a core. -/
def DataGone (s : State) (core : Nat) : Prop := ∀ l ∈ (s.core core).l1, l.code = true

/-- The parts of a fence: it releases; its scope; it acquires at; the status register (R182, R184, R185). -/
def fenceParts : Instr → Option (Bool × Nat × Nat × Option Opd)
  | .fence f => some (f.smod.toNat / 8 % 4 != 1, f.smod.toNat % 8, f.smod.toNat % 8, if f.smod.getLsbD 5 then some f.dst else none)
  | .afence f => some (true, f.smod.toNat % 8, max 2 (f.smod.toNat % 8), none)
  | .sysf f => some (true, 4, 4, some f.dst)
  | _ => none

/-- The widest scope at which an arrival orders (R173): CLS and the ordering of SMOD; 0 for `.rlx`. -/
def orders (f : FmtS) : Nat := match f.smod.toNat / 32 % 4 with | 0 => (if f.smod.getLsbD 4 then 2 else 1) | 1 => 3 | 2 => 4 | _ => 0

/-- What is left of an operation at a scope in cycle `now` (R182, R249, R262): a read that is not performed, or a store or an atomic that is not acknowledged, and
remote parts at system scope only. Drains with a number below `n` count. -/
def Left (co : Core) (p : Nat × MemOp) (scope n now : Nat) : Prop :=
  if p.2.entered = false then 4 ≤ scope ∨ p.2.localPart = true
  else if p.2.isRead = true then ∃ r ∈ p.2.lines, (4 ≤ scope ∨ r.leaf.tgt ≠ 2) ∧ r.performed = false
  else if p.2.isAtomicOp = true then 4 ≤ scope ∨ now < p.2.notBefore ∨ ∃ r ∈ p.2.lines, r.leaf.tgt ≠ 2 ∧ r.st ≠ .done
  else 4 ≤ scope ∨ (∃ e ∈ co.wc, p.1 ∈ e.ops) ∨ ∃ d ∈ co.ops, d.1 < n ∧ ∃ m ops k, d.2.kind = .drain m ops k ∧ p.1 ∈ ops

/-- An earlier operation of the group's threads, with a number below `n`, is one that a fence waits for: with a release part a store, an atomic or a read (R182,
R262), and without one an atomic, through which an acquire fence synchronises (R263). -/
def Owing (co : Core) (g : Group) (rel : Bool) (scope n now : Nat) : Prop :=
  ∃ p ∈ co.ops, p.1 < n ∧ (if rel then p.2.releases = true ∨ p.2.isRead = true else p.2.isAtomicOp = true) ∧ meets p.2.tids g.tids = true ∧ Left co p scope n now

/-- Of these, what a fence's status waits for (R182, R354): a store or an atomic of a fence with a release part, not acknowledged. -/
def Unreported (co : Core) (g : Group) (rel : Bool) (scope n now : Nat) : Prop :=
  rel = true ∧ ∃ p ∈ co.ops, p.1 < n ∧ p.2.releases = true ∧ meets p.2.tids g.tids = true ∧ Left co p scope n now

/-- The status word of R181 for what the group's remote accesses report. -/
def statusWord (st : Option (Nat × Nat)) : Nat := match st with | none => 0 | some (code, dev) => code % 16 + 65536 * (dev % 1024)

end Sys2Proof.Claims

/-! ## Barriers, fences, the commit token -/

/-- R173 to R175: `BARR` and `BARA` return G and arrive, `BARW` arrives and waits on the generation that it found, `BARM` sets the count of the
generation, `BARQ` reads, `BARV` waits until G differs from opA[15:0]. Arrivals and counts take effect at the end of the cycle. A waiting form passes the token first. -/
def Sys2Proof.Claims.BarrierIssue : Prop :=
  ∀ (s : State) (i : Instr) (f : FmtS) (u : Issuing) (c : Ctx) (r : Row) (g : Group), Issues s i u c r g → BarrierStands s u.core (f.smod.getLsbD 4) → g.fpe = [] →
    let b := bar s u f
    let n := (c.effLanes f.hdr.guard).length
    let a := (c.sval32 f.a).toNat % 65536
    (i = .barr f → ∃ t g', exec i s = .next t ∧ SeatStep s t u g g' ∧ g'.threads = g.threads ∧ g'.pc = nextPc c.pc
      ∧ Writes f.dst 1 c g g' (b.g.zeroExtend 64) ∧ bar t u f = { b with newA := b.newA + n, ord := max b.ord (orders f) })
    ∧ (i = .bara f → ∃ t g', exec i s = .next t ∧ SeatStep s t u g g' ∧ g'.threads = g.threads ∧ g'.pc = nextPc c.pc
      ∧ Writes f.dst 1 c g g' (b.g.zeroExtend 64) ∧ bar t u f = { b with newA := b.newA + a, ord := max b.ord (orders f) })
    ∧ (i = .barw f → ∃ t g' o, exec i s = .next t ∧ PassStep s t u g g' ∧ AllRegsKept g g' ∧ g'.threads = g.threads ∧ g'.pc = nextPc c.pc
      ∧ g'.wait = some (.barrier (f.smod.getLsbD 4) (f.smod.toNat % 16) b.g.toNat o) ∧ bar t u f = { b with newA := b.newA + n, ord := max b.ord (orders f) })
    ∧ (i = .barm f → (1 ≤ a ∧ a ≤ 12288 → ∃ t g', exec i s = .next t ∧ SeatStep s t u g g' ∧ AllRegsKept g g' ∧ g'.threads = g.threads ∧ g'.pc = nextPc c.pc
        ∧ bar t u f = { b with newC := some a })
      ∧ (a = 0 ∨ 12288 < a → exec i s = .next (s.raise u (.fatal 0x23 0 (BitVec.ofNat 64 c.pc)))))
    ∧ (i = .barq f → ∃ t g', exec i s = .next t ∧ SeatStep s t u g g' ∧ g'.threads = g.threads ∧ g'.pc = nextPc c.pc ∧ bar t u f = b
      ∧ Writes f.dst 1 c g g' (BitVec.ofNat 64 (b.g.toNat + 2 ^ 16 * (b.a % 2 ^ 14) + (if b.counted then 2 ^ 30 else 0))))
    ∧ (i = .barv f → ∃ t g', exec i s = .next t ∧ PassStep s t u g g' ∧ AllRegsKept g g' ∧ g'.threads = g.threads ∧ g'.pc = nextPc c.pc ∧ bar t u f = b
      ∧ (b.g.toNat ≠ a → g'.wait = g.wait ∧ (f.smod.getLsbD 4 = true → DataGone t u.core))
      ∧ (b.g.toNat = a → ∃ o, g'.wait = some (.barrier (f.smod.getLsbD 4) (f.smod.toNat % 16) a o)))

/-- R55, R174 and R175: the end of a cycle at a barrier. The count of a `BARM` is set first, then every arrival is added, then completion is tested: it
raises G, clears A, returns a counted barrier to full membership of `full` threads, and forgets the scope at which its arrivals ordered. -/
def Sys2Proof.Claims.BarrierCycle : Prop :=
  ∀ (b : Barrier) (full : Nat),
    let c := b.newC.getD b.c
    let a := b.a + b.newA
    let counted := b.newC.isSome || b.counted
    let b' := (b.settle full).1
    b'.newA = 0 ∧ b'.newC = none
      ∧ (c ≤ a ∧ 0 < a → (b.settle full).2 = true ∧ b'.a = 0 ∧ b'.g = b.g + 1 ∧ b'.counted = false ∧ (b'.c = if counted then full else c) ∧ b'.ord = 0)
      ∧ (¬(c ≤ a ∧ 0 < a) → (b.settle full).2 = false ∧ b'.a = a ∧ b'.g = b.g ∧ b'.counted = counted ∧ b'.c = c ∧ b'.ord = b.ord)

/-- R174 and R175: when the generation of a barrier has moved to `n`, every group of a core that waits on that barrier with another generation is released, and is
ready from the next cycle; every other group waits on. -/
def Sys2Proof.Claims.BarrierRelease : Prop :=
  ∀ (s : State) (core : Nat) (clu : Bool) (num n seat : Nat) (x : Group), ((s.core core).seats.map Prod.fst).Nodup → s.group? core seat = some x →
    ∃ y, (s.releaseBarrier core clu num n).group? core seat = some y ∧ AllRegsKept x y ∧ SpecialKept x y ∧ y.threads = x.threads ∧ y.pc = x.pc
      ∧ (∀ gen o, x.wait = some (.barrier clu num gen o) → gen ≠ n → y.wait = none ∧ y.wake = s.now core + 1)
      ∧ ((∀ gen o, x.wait = some (.barrier clu num gen o) → gen = n) → y.wait = x.wait ∧ y.wake = x.wake)

/-- R55 and R173 to R175: the barrier instructions, the end of a cycle at a barrier, and the release of its groups. -/
def Obligations.Barriers : Prop := BarrierIssue ∧ BarrierCycle ∧ BarrierRelease


/-- The status register of a fence, if it names one, holds the word of R181 (R182). -/
def Sys2Proof.Claims.Reports (st : Option Opd) (scope : Nat) (g g' : Group) : Prop :=
  (st = none → AllRegsKept g g')
    ∧ (∀ q, st = some (.s q) → g'.sreg q.toNat = BitVec.ofNat 32 (statusWord (if 4 ≤ scope then g.remote else none)) ∧ RegsKept (.s q) 1 [] g g')

/-- What every fence leaves (R76, R77): the drain of every write-combining entry has started, and of every remote one at system scope. -/
def Sys2Proof.Claims.FenceStep (s t : State) (u : Issuing) (c : Ctx) (scope : Nat) (g g' : Group) : Prop :=
  SeatStep s t u g g' ∧ g'.threads = g.threads ∧ g'.pc = nextPc c.pc ∧ (t.core u.core).wc = [] ∧ (4 ≤ scope → (t.core u.core).rwc = [])

/-- R75, R181, R182, R184, R185, R262 and R263: `FENCE`, `AFENCE` and `SYSF` complete when no earlier operation of their group is left that they wait for: the
group goes on, an acquire at cluster scope or wider empties the L1 of data, and a status register receives the word of R181. -/
def Sys2Proof.Claims.FenceCompletes : Prop :=
  ∀ (s : State) (i : Instr) (u : Issuing) (c : Ctx) (r : Row) (g : Group) (rel : Bool) (scope acq : Nat) (st : Option Opd), Issues s i u c r g → g.fpe = [] →
    fenceParts i = some (rel, scope, acq, st) → (∀ n, ¬Owing (s.core u.core) c.g rel scope n c.now) →
      ∃ t g', exec i s = .next t ∧ FenceStep s t u c scope g g' ∧ g'.wait = none ∧ (2 ≤ acq → DataGone t u.core)
        ∧ Reports st scope g g'

/-- R182, R184, R185 and R354: `FENCE`, `AFENCE` and `SYSF` wait while an earlier operation of their group is left that they wait for; a status that none of
these keeps back is written. -/
def Sys2Proof.Claims.FenceWaits : Prop :=
  ∀ (s : State) (i : Instr) (u : Issuing) (c : Ctx) (r : Row) (g : Group) (rel : Bool) (scope acq : Nat) (st : Option Opd), Issues s i u c r g → g.fpe = [] →
    fenceParts i = some (rel, scope, acq, st) → Owing (s.core u.core) c.g rel scope (s.core u.core).nextOp c.now →
      ∃ t g' upTo d limit, exec i s = .next t ∧ FenceStep s t u c scope g g' ∧ g'.wait = some (.fence rel upTo scope acq d limit)
        ∧ (Unreported (s.core u.core) c.g rel scope (s.core u.core).nextOp c.now → AllRegsKept g g')
        ∧ ((∀ n, ¬Unreported (s.core u.core) c.g rel scope n c.now) → Reports st scope g g' ∧ d = none)

/-- The scope of the drains that an `XFENCE` starts: remote stores drain when FROM is the load and store path. -/
def Sys2Proof.Claims.pathScope (f : FmtS) : Nat := if f.smod.toNat % 8 = 0 then 4 else 0

/-- R183: `XFENCE` completes when no earlier operation of its path FROM is left. -/
def Sys2Proof.Claims.PathCompletes : Prop :=
  ∀ (s : State) (f : FmtS) (u : Issuing) (c : Ctx) (r : Row) (g : Group), Issues s (.xfence f) u c r g → g.fpe = [] →
    (∀ n, s.pathBusy u.core c.g (f.smod.toNat % 8) n = false) →
      ∃ t g', exec (.xfence f) s = .next t ∧ FenceStep s t u c (pathScope f) g g' ∧ AllRegsKept g g' ∧ g'.wait = g.wait

/-- R183: `XFENCE` waits while an earlier operation of its path FROM has not completed. -/
def Sys2Proof.Claims.PathWaits : Prop :=
  ∀ (s : State) (f : FmtS) (u : Issuing) (c : Ctx) (r : Row) (g : Group), Issues s (.xfence f) u c r g → g.fpe = [] →
    s.pathBusy u.core c.g (f.smod.toNat % 8) (s.core u.core).nextOp = true →
      ∃ t g' n, exec (.xfence f) s = .next t ∧ FenceStep s t u c (pathScope f) g g' ∧ AllRegsKept g g' ∧ g'.wait = some (.xfence (f.smod.toNat % 8) n)

/-- R75 and R181 to R185: fences by scope and by path. -/
def Obligations.Fences : Prop := FenceCompletes ∧ FenceWaits ∧ PathCompletes ∧ PathWaits


/-- R186 and R283: outside DET `TOKW` acts as `NOP`; under DET a `TOKW` that issues finds its group with the token, and goes on. -/
def Sys2Proof.Claims.TokenWait : Prop :=
  ∀ (s : State) (f : FmtS) (u : Issuing) (c : Ctx) (r : Row) (g : Group), Issues s (.tokw f) u c r g →
    ∃ t g', exec (.tokw f) s = .next t ∧ SeatStep s t u g g' ∧ AllRegsKept g g' ∧ g'.threads = g.threads ∧ g'.pc = nextPc c.pc
      ∧ g'.pass = g.pass ∧ (s.det u.core = true → s.holdsToken u.core c.g = true) ∧ (s.det u.core = false → GroupKept g g' ∧ ElseKept s t u.core u.seat u.quad)

/-- R186 and R283: `TOKP` passes the token when the group holds it under DET, which counts in PASS; otherwise it acts as `NOP`. -/
def Sys2Proof.Claims.TokenPass : Prop :=
  ∀ (s : State) (f : FmtS) (u : Issuing) (c : Ctx) (r : Row) (g : Group), Issues s (.tokp f) u c r g → u.snap = none →
    ∃ t g', exec (.tokp f) s = .next t ∧ PassStep s t u g g' ∧ AllRegsKept g g' ∧ g'.threads = g.threads ∧ g'.pc = nextPc c.pc
      ∧ (s.det u.core = true ∧ s.holdsToken u.core g = true → g'.pass = (g.pass + 1) % 65536)
      ∧ (¬(s.det u.core = true ∧ s.holdsToken u.core g = true) → GroupKept g g' ∧ ElseKept s t u.core u.seat u.quad)

namespace Sys2Proof.Claims

/-- A key of a grid: 1,024·`TEAMID` + `TID` (R282). -/
def Key (teams thr k : Nat) : Prop := k / 1024 < teams ∧ k % 1024 < thr

end Sys2Proof.Claims

/-- R282 and R283: the token passes to the lowest key above the holder's key that has neither ended nor belongs to the holder, and after the last key to
the lowest such key of all. -/
def Sys2Proof.Claims.TokenOrder : Prop :=
  ∀ (teams thr k : Nat) (gone own : List Nat), 0 < thr → thr ≤ 1024 →
    (∀ x, Key teams thr x → k < x → x ∉ gone → x ∉ own → (∀ y, Key teams thr y → k < y → y < x → y ∈ gone ∨ y ∈ own) → passedKey teams thr gone own k = some x)
    ∧ ((∀ y, Key teams thr y → k < y → y ∈ gone ∨ y ∈ own) →
        ∀ x, Key teams thr x → x ∉ gone → x ∉ own → (∀ y, Key teams thr y → y < x → y ∈ gone ∨ y ∈ own) → passedKey teams thr gone own k = some x)

/-- R186, R282 and R283: the commit token. -/
def Obligations.CommitToken : Prop := TokenWait ∧ TokenPass ∧ TokenOrder

namespace Sys2Proof.Claims

/-! ### Memory accesses (R176 to R180, R196 to R201) -/

/-- Every access is aligned to its size and lies in a window; with `glob` in the global window (R60, R62, R63, R198). -/
def Fits (s : State) (c : Ctx) (as : List (Nat × DWord)) (size : Nat) (glob : Bool) : Prop :=
  ∀ p ∈ as, p.2.toNat % size = 0 ∧ ∃ q, s.place c p.1 p.2 = some q ∧ (glob = true → ∃ va, q = .mem va false)

/-- The leaves that the L1 TLB holds for the accesses let the operation pass: of the owner's colours, and with W for a write (R30, R85). -/
def Permitted (s : State) (c : Ctx) (as : List (Nat × DWord)) (write : Bool) : Prop :=
  ∀ p ∈ as, ∀ va st, s.place c p.1 p.2 = some (.mem va st) → ∀ l, tlbFind (s.core c.core).tlb (va / 2 ^ 15) = some l →
    (write = true → l.w = true) ∧ (s.owner (s.ownerOf c.core)).leafColourOk l va = true

/-- The scratchpad lines of the accesses have no race record (R277), so no access conflicts, and the record has no uncorrectable error (R335). -/
def NoRecord (s : State) (c : Ctx) (as : List (Nat × DWord)) : Prop :=
  ∀ p ∈ as, ∀ o, s.place c p.1 p.2 = some (.scratch o) → raceGet (s.core c.core).spRace (o / 128) = 0 ∧ o / 128 ∉ (s.core c.core).spRaceBad

/-- No word of the scratchpad that an access of `size` bytes touches has an uncorrectable error, nor the race record of its line (R335). -/
def NoError (s : State) (c : Ctx) (as : List (Nat × DWord)) (size : Nat) : Prop :=
  ∀ p ∈ as, ∀ o, s.place c p.1 p.2 = some (.scratch o) → (∀ w ∈ (s.core c.core).spBad, ¬(8 * w < o + size ∧ o < 8 * w + 8)) ∧ o / 128 ∉ (s.core c.core).spRaceBad

/-- Nothing that the core has in flight still waits to enter. -/
def AllEntered (s : State) (core : Nat) : Prop := ∀ p ∈ (s.core core).ops, p.2.entered = true

/-- Operation `o` makes the accesses `as`: of `size` bytes each, at the place of each address. -/
def Makes (s : State) (c : Ctx) (as : List (Nat × DWord)) (size : Nat) (o : MemOp) : Prop :=
  (∀ l a, (l, a) ∈ as ↔ ∃ x ∈ o.acc ++ o.scr, x.lane = l ∧ x.ga = a) ∧ (∀ x ∈ o.acc ++ o.scr, x.bytes = size)
    ∧ (∀ x ∈ o.acc, ∃ st, s.place c x.lane x.ga = some (.mem x.va st)) ∧ ∀ x ∈ o.scr, s.place c x.lane x.ga = some (.scratch x.va)

/-- Only bytes of the scratchpad that an access of `as` names may differ. -/
def StoresOnly (s t : State) (c : Ctx) (as : List (Nat × DWord)) (size : Nat) : Prop :=
  (∀ a, t.mem.read a = s.mem.read a) ∧ (∀ a, t.host.read a = s.host.read a) ∧ (∀ m, m ≠ c.core → ∀ a, (t.core m).sp.read a = (s.core m).sp.read a)
    ∧ ∀ a, (∀ p ∈ as, ∀ o, s.place c p.1 p.2 = some (.scratch o) → ¬(o ≤ a ∧ a < o + size)) → (t.core c.core).sp.read a = (s.core c.core).sp.read a

/-- The bytes of an access in the scratchpad are `bs` in state `t`. -/
def Stored (t : State) (core o : Nat) (bs : List Byte) : Prop := ∀ k b, bs[k]? = some b → (t.core core).sp.read (o + k) = b

/-- The new value of an atomic (R178, R179): `x` is the operand, `y` the value expected by `ATCAS`. -/
def AtomNew (i : Instr) (size old x y new : Nat) : Prop :=
  let ty : Ty := if size = 8 then .s64 else .s32
  let fp : Fp := if size = 8 then .f64 else .f32
  match i with
  | .atomAdd _ => new = (old + x) % 2 ^ (8 * size)
  | .atomMinSigned _ => new = if intOfBits ty x < intOfBits ty old then x else old
  | .atomMinUnsigned _ => new = min x old
  | .atomMaxSigned _ => new = if intOfBits ty old < intOfBits ty x then x else old
  | .atomMaxUnsigned _ => new = max x old
  | .atomAnd _ => ∀ k, new.testBit k = (old.testBit k && x.testBit k)
  | .atomOr _ => ∀ k, new.testBit k = (old.testBit k || x.testBit k)
  | .atomXor _ => ∀ k, new.testBit k = (old.testBit k != x.testBit k)
  | .atomExch _ => new = x
  | .atomFadd _ => new = (fp.addV .rn (fp.unpack old) (fp.unpack x)).1
  | .atomFmin _ => new = (fp.minmax false old x).1
  | .atomFmax _ => new = (fp.minmax true old x).1
  | .atcas _ => new = if old = y then x else old
  | _ => False

/-- What an atomic does to the bytes of its place. -/
def atomOf : Instr → Option AtomOp
  | .atomAdd _ => some .add
  | .atomMinSigned _ => some .minS
  | .atomMinUnsigned _ => some .minU
  | .atomMaxSigned _ => some .maxS
  | .atomMaxUnsigned _ => some .maxU
  | .atomAnd _ => some .and
  | .atomOr _ => some .or
  | .atomXor _ => some .xor
  | .atomExch _ => some .exch
  | .atomFadd _ => some .fadd
  | .atomFmin _ => some .fmin
  | .atomFmax _ => some .fmax
  | .atcas _ => some .cas
  | _ => none

/-- The lines that accesses touch in the scratchpad. -/
def touches (s : State) (c : Ctx) (as : List (Nat × DWord)) (line : Nat) : Prop := ∃ p ∈ as, ∃ o, s.place c p.1 p.2 = some (.scratch o) ∧ o / 128 = line

/-- A scratchpad line is empty (R65). -/
def Empty (s : State) (core line : Nat) : Prop := line ∈ (s.core core).spEmpty

/-- It is empty as the instructions of the cycle see it: before those of its own stores, `SPSET` and `SPCLR` that have issued (R257). -/
def SeenEmpty (s : State) (core line : Nat) : Prop := line ∈ (s.core core).seenEmpty

end Sys2Proof.Claims

/-! ## Memory accesses -/

/-- R196 to R198: `LD`, `LDG` and `LDI` start an operation that makes one access for each participating lane, and their destination stays pending until
it is answered. No byte of memory and no register changes at issue; a load of the scratchpad reads it as it stood before the stores of its cycle (R257). -/
def Sys2Proof.Claims.LoadIssue : Prop :=
  ∀ (s : State) (i : Instr) (f : FmtM) (idx : Bool) (u : Issuing) (c : Ctx) (r : Row) (g : Group), Issues s i u c r g → isLoad i = true →
    accessOf i = some (f, idx) → Fits s c (c.addrs f idx) (2 ^ f.size.toNat) (idx || i == .ldi f) → Permitted s c (c.addrs f idx) false →
      ∃ t g' id o, exec i s = .next t ∧ SeatStep s t u g g' ∧ AllRegsKept g g' ∧ g'.threads = g.threads ∧ g'.pc = nextPc c.pc
        ∧ mget (t.core u.core).ops id = some o ∧ Makes s c (c.addrs f idx) (2 ^ f.size.toNat) o ∧ o.dst = regId? f.dst ∧ o.size = 2 ^ f.size.toNat
        ∧ (∃ sx nl1 un, o.kind = .load sx nl1 un ∧ sx = f.hint.getLsbD 0)
        ∧ (∀ x ∈ regsFrom f.dst (if f.size = 4 then 4 else if f.size = 3 then 2 else 1), g'.pending c.now x = true)
        ∧ ((∀ p ∈ c.addrs f idx, ∃ q, s.place c p.1 p.2 = some (.scratch q)) → AllEntered s u.core → NoError s c (c.addrs f idx) (2 ^ f.size.toNat) →
            ∀ x ∈ o.scr, x.res = (s.core u.core).seen.readN x.va (2 ^ f.size.toNat))

namespace Sys2Proof.Claims

/-- Register `k` of those that an access has read into: the `k`-th 32 bits of its bytes, those of a size below 4 sign- or zero-extended (R198). -/
def LoadedWord (sx : Bool) (bs : List Byte) (k n : Nat) : Prop :=
  n = if bs.length < 4 ∧ sx = true ∧ 2 ^ (8 * bs.length - 1) ≤ leNat bs then leNat bs + 2 ^ 32 - 2 ^ (8 * bs.length) else leNat bs / 2 ^ (32 * k) % 2 ^ 32

end Sys2Proof.Claims

/-- R196 to R198: the answer of a load. Each lane whose access met no conflict receives its bytes in consecutive registers; the scalar form gives its one
value to every receiving lane, or to its s destination. -/
def Sys2Proof.Claims.LoadAnswer : Prop :=
  ∀ (s : State) (core id : Nat) (o : MemOp) (g : Group) (sx nl1 un : Bool), s.op? core id = some o → o.kind = .load sx nl1 un → o.failed = none →
    o.conflict = none → s.group? core o.seat = some g → g.uid = o.uid → (∀ x ∈ o.acc ++ o.scr, x.lane < 32 ∧ x.res.length ≤ 16) →
      ∃ g', (s.finishOp core id).group? core o.seat = some g' ∧ SpecialKept g g' ∧ BytesKept s (s.finishOp core id) ∧ g'.pc = g.pc
        ∧ (∀ q, o.dst = some (.v q) → q + 4 ≤ 256 → g'.sregs = g.sregs
          ∧ (o.bcast = [] → ∀ x ∈ o.acc ++ o.scr, x.bad = false → (∀ y ∈ o.acc ++ o.scr, y.lane = x.lane → y = x) →
              ∀ k, k < (x.res.length + 3) / 4 → LoadedWord sx x.res k (g'.vreg (q + k) x.lane).toNat)
          ∧ (∀ x xs, o.acc ++ o.scr = x :: xs → x.bad = false → ∀ l ∈ o.bcast, l < 32 →
              ∀ k, k < (x.res.length + 3) / 4 → LoadedWord sx x.res k (g'.vreg (q + k) l).toNat)
          ∧ (∀ k l, k < 256 → ¬(q ≤ k ∧ k < q + 4 ∧ (l ∈ o.bcast ∨ ∃ x ∈ o.acc ++ o.scr, x.lane = l)) → g'.vreg k l = g.vreg k l))
        ∧ (∀ q, o.dst = some (.s q) → g'.vregs = g.vregs
          ∧ (o.bcast = [] → ∀ x, o.acc ++ o.scr = [x] → x.bad = false →
              ∀ k, k < (x.res.length + 3) / 4 → LoadedWord sx x.res k (g'.sreg (q + k)).toNat)
          ∧ (∀ k, ¬(q ≤ k ∧ k < q + 4) → g'.sreg k = g.sreg k))

/-- R196 to R198: loads, at issue and at their answer. -/
def Obligations.Loads : Prop := LoadIssue ∧ LoadAnswer


/-- R65, R76, R196 and R198: `ST` and `STG`. At issue no byte changes outside the scratchpad ranges that its lanes name, and no register; the one access of
a store that meets no race record stands in the scratchpad, or in a write-combining entry of its line with the bytes and their offsets; under DET a SHARED
page takes it only while its group holds the token (R284). -/
def Obligations.Stores : Prop :=
  ∀ (s : State) (i : Instr) (f : FmtM) (idx : Bool) (u : Issuing) (c : Ctx) (r : Row) (g : Group), Issues s i u c r g → isStore i = true →
    accessOf i = some (f, idx) → Fits s c (c.addrs f idx) (2 ^ f.size.toNat) idx → Permitted s c (c.addrs f idx) true →
      ∃ t g' m, exec i s = .next t ∧ t.group? u.core u.seat = some g' ∧ SpecialKept { g with mmx := m } g' ∧ SeatsKept s t u.core u.seat
        ∧ AllRegsKept g g' ∧ g'.threads = g.threads ∧ g'.pc = nextPc c.pc
        ∧ StoresOnly s t c (c.addrs f idx) (2 ^ f.size.toNat)
        ∧ (AllEntered s u.core → NoRecord s c (c.addrs f idx) → ∀ l a, c.addrs f idx = [(l, a)] →
            m = g.mmx
            ∧ (∀ o, s.place c l a = some (.scratch o) → Stored t u.core o (c.readBytes (2 ^ f.size.toNat) f.data l) ∧ ¬Empty t u.core (o / 128))
            ∧ (∀ va st e, s.place c l a = some (.mem va st) → tlbFind (s.core u.core).tlb (va / 2 ^ 15) = some e →
                tlbBad (s.core u.core).tlb (va / 2 ^ 15) = false → e.tgt ≠ 2 → (s.core u.core).wc = [] →
                (s.det u.core = true → e.shrd = false ∨ (s.tokenReady u.core g = true ∧ ∀ m, (s.core u.core).team = some m → ∃ x ∈ g.tids, x ∉ m.exited)) →
                ∃ x, (t.core u.core).wc = [x] ∧ x.line = e.addr va / 128 * 128 ∧ x.leaf = e
                  ∧ ∀ b, b ∈ x.mask ↔ ∃ k v, (c.readBytes (2 ^ f.size.toNat) f.data l)[k]? = some v ∧ b.off = e.addr va % 128 + k ∧ b.val = v
                      ∧ b.op = (t.core u.core).nextOp - 1 ∧ b.lane = l ∧ b.ga = a + BitVec.ofNat 64 k))

/-- R176 to R179: the thirteen atomics. At issue no byte changes outside the scratchpad ranges that the lanes name, and no register; the one access of
an atomic that meets no race record is performed there at once: it reads the old value and writes the value of R178 or R179. -/
def Obligations.Atomics : Prop :=
  ∀ (s : State) (i : Instr) (f : FmtM) (op : AtomOp) (u : Issuing) (c : Ctx) (r : Row) (g : Group), Issues s i u c r g → atomOf i = some op →
    accessOf i = some (f, false) → Fits s c (c.addrs f false) (2 ^ f.size.toNat) false → Permitted s c (c.addrs f false) true →
      ∃ t g' id o, exec i s = .next t ∧ t.group? u.core u.seat = some g' ∧ SpecialKept g g'
        ∧ SeatsKept s t u.core u.seat ∧ AllRegsKept g g' ∧ g'.threads = g.threads ∧ g'.pc = nextPc c.pc ∧ StoresOnly s t c (c.addrs f false) (2 ^ f.size.toNat)
        ∧ mget (t.core u.core).ops id = some o ∧ o.kind = .atomic op ∧ Makes s c (c.addrs f false) (2 ^ f.size.toNat) o
        ∧ o.dst = (if f.hint.getLsbD 3 then none else regId? f.dst)
        ∧ (AllEntered s u.core → NoRecord s c (c.addrs f false) → NoError s c (c.addrs f false) (2 ^ f.size.toNat) → ∀ l a q, c.addrs f false = [(l, a)] → s.place c l a = some (.scratch q) →
            ∃ x new, o.scr = [x] ∧ x.res = (s.core u.core).sp.readN q (2 ^ f.size.toNat) ∧ x.bad = false
              ∧ AtomNew i (2 ^ f.size.toNat) (leNat x.res) (leNat (c.readBytes (2 ^ f.size.toNat) f.data l)) (leNat (c.readBytes (2 ^ f.size.toNat) f.c l)) new
              ∧ Stored t u.core q (leBytes (2 ^ f.size.toNat) new))

/-- R176 and R180: `ATF` makes an attempt: its operation starts, and the group waits at the `ATF` for the answer. -/
def Sys2Proof.Claims.FlagAttempt : Prop :=
  ∀ (s : State) (f : FmtM) (u : Issuing) (c : Ctx) (r : Row) (g : Group), Issues s (.atf f) u c r g → g.fpe = [] →
    Fits s c (c.addrs f false) (2 ^ f.size.toNat) false → Permitted s c (c.addrs f false) true →
      ∃ t g' id o, exec (.atf f) s = .next t ∧ SeatStep s t u g g' ∧ AllRegsKept g g' ∧ g'.threads = g.threads ∧ g'.pc = c.first ∧ g'.wait = some (.op id)
        ∧ mget (t.core u.core).ops id = some o ∧ o.kind = .atf (f.hdr.sub.toNat % 8) (f.hdr.sub.getLsbD 3)
        ∧ Makes s c (c.addrs f false) (2 ^ f.size.toNat) o ∧ o.dst = regId? f.dst

namespace Sys2Proof.Claims

/-- The condition of an `ATF` holds between the value read and the operand in every lane (R180). -/
def AtfHolds (o : MemOp) (cc : Nat) (sgn : Bool) : Prop :=
  ∀ x ∈ o.acc ++ o.scr, x.bad = false ∧
    (let v (bs : List Byte) : Int :=
       let n := leNat bs % 2 ^ (8 * x.bytes)
       if sgn = true ∧ 2 ^ (8 * x.bytes - 1) ≤ n then (n : Int) - 2 ^ (8 * x.bytes) else n
     intCc cc (v x.res) (v x.data))

end Sys2Proof.Claims

/-- R180: the answer of an attempt of `ATF` reaches the core. The group goes on behind the `ATF` when the condition holds in every lane, and attempts again
otherwise. -/
def Sys2Proof.Claims.FlagAnswer : Prop :=
  ∀ (s : State) (core id : Nat) (o : MemOp) (g : Group) (cc : Nat) (sgn : Bool), s.op? core id = some o → o.kind = .atf cc sgn → cc ≤ 5 →
    o.answered (s.now core) = true →
    s.group? core o.seat = some g → g.uid = o.uid → g.wait = some (.op id) → o.failed = none → o.conflict = none →
      ∃ t g', exec (.atfAttemptAnswer core id) s = .next t ∧ t.group? core o.seat = some g' ∧ SpecialKept g g' ∧ BytesKept s t ∧ SeatsKept s t core o.seat
        ∧ g'.wait = none ∧ g'.threads = g.threads
        ∧ (¬AtfHolds o cc sgn → g'.pc = g.pc ∧ AllRegsKept g g')
        ∧ (AtfHolds o cc sgn → g'.pc = (if g.half.isSome then nextPc (nextPc g.pc) else nextPc g.pc))

/-- R176 and R180: the attempts of `ATF` and their answers. -/
def Obligations.FlagWaits : Prop := FlagAttempt ∧ FlagAnswer


/-- R75 to R77, R199 and R201: `PREF` and `WCFL` change no register and no byte of memory; `WCFL` leaves both write-combining buffers empty. -/
def Sys2Proof.Claims.Prefetches : Prop :=
  ∀ (s : State) (i : Instr) (f : FmtM) (u : Issuing) (c : Ctx) (r : Row) (g : Group), Issues s i u c r g →
    (i = .pref f ∧ Permitted s c (c.addrs f false) false) ∨ i = .wcfl f →
      ∃ t g', exec i s = .next t ∧ SeatStep s t u g g' ∧ AllRegsKept g g' ∧ GroupKept g g' ∧ g'.pc = nextPc c.pc
        ∧ (i = .wcfl f → (t.core u.core).wc = [] ∧ (t.core u.core).rwc = [])

/-- R65, R66, R200 and R257: `SPSET` makes the lines of its lanes full, `SPCLR` empty, and `SPTST` tells of each lane's line whether it was full before the cycle. An address outside
the scratchpad window is an address fault. -/
def Sys2Proof.Claims.FullEmptyLines : Prop :=
  ∀ (s : State) (i : Instr) (f : FmtM) (u : Issuing) (c : Ctx) (r : Row) (g : Group), Issues s i u c r g → (i = .spset f ∨ i = .spclr f ∨ i = .sptst f) →
    ((∀ p ∈ c.addrs f false, ∃ o, s.place c p.1 p.2 = some (.scratch o)) →
      ∃ t g', exec i s = .next t ∧ SeatStep s t u g g' ∧ g'.threads = g.threads ∧ g'.pc = nextPc c.pc
        ∧ (i ≠ .sptst f → AllRegsKept g g')
        ∧ (∀ line, Empty t u.core line ↔ if i = .spset f then Empty s u.core line ∧ ¬touches s c (c.addrs f false) line
            else if i = .spclr f then Empty s u.core line ∨ touches s c (c.addrs f false) line else Empty s u.core line)
        ∧ (i = .sptst f → RegsKept f.dst 1 (if isS f.dst then [c.lane0] else c.effLanes f.hdr.guard) g g'
            ∧ (isS f.dst = false ∨ isS f.addr = true → ∀ p ∈ c.addrs f false, ∀ o, s.place c p.1 p.2 = some (.scratch o) →
                ∀ l, (if isS f.addr then (if isS f.dst then l = c.lane0 else l ∈ c.effLanes f.hdr.guard) else l = p.1) →
                  Flag (¬SeenEmpty s u.core (o / 128)) (g'.holds f.dst 1 l))))
    ∧ (∀ p ps, c.addrs f false = p :: ps → (∀ o, s.place c p.1 p.2 ≠ some (.scratch o)) → exec i s = .next (s.raise u (.fatal 0x20 0 p.2)))

/-- R65, R66, R75 to R77 and R199 to R201: prefetch, drains, and full and empty lines. -/
def Obligations.LineStates : Prop := Prefetches ∧ FullEmptyLines

namespace Sys2Proof.Claims

/-! ### Copies (R80 to R83, R202 to R206) -/

/-- The copy of an instruction, as it stands before it takes its ticket: source, destination, units, half-bytes of a unit, box. -/
def copyOf (i : Instr) (s : State) (c : Ctx) (x : Copy) : Prop :=
  match i with
  | .cpy f => x = c.newCopy s (c.endpoint f.data) (c.endpoint f.addr) (c.sval32 f.c).toNat 2 []
      ∧ (c.endpoint f.data).fits (c.sval32 f.c).toNat = true ∧ (c.endpoint f.addr).fits (c.sval32 f.c).toNat = true
  | .cpx f => x = c.newCopy s (.pattern (c.sval32 f.data)) (c.endpoint f.addr) (c.sval32 f.c).toNat 2 []
      ∧ (c.endpoint f.addr).fits (c.sval32 f.c).toNat = true
  | _ => False

/-- The two endpoints lie in windows that a copy may use (R80, R202). -/
def EndsFit (x : Copy) : Prop :=
  x.endpointOk x.src = none ∧ x.endpointOk x.dst = none

/-- The destination shares a byte with the source of the copy itself, when both are linear, or with the destination of an incomplete copy of another queue
(R202, R270). -/
def Overlaps (s : State) (c : Ctx) (x : Copy) : Prop :=
  (∃ a l h, x.src = .addr a ∧ x.box = [] ∧ 0 < x.count ∧ x.range = some (l, h) ∧ l < a.toNat + x.bytesOf x.count ∧ a.toNat < h)
    ∨ ∃ q ∈ (s.core c.core).quads, q.1 ≠ c.quad ∧ ∃ y ∈ q.2.copies, ∃ l h l' h', x.range = some (l, h) ∧ y.range = some (l', h') ∧ l < h' ∧ l' < h

/-- Ticket of the next copy of a queue (R202): queue in [31:30], its number among those of the queue in [29:0]. -/
def nextTicket (s : State) (u : Issuing) : Nat := u.quad * 2 ^ 30 + ((s.core u.core).quad u.quad).enqueued % 2 ^ 30

/-- Copy `y` joins the issuer's queue and its ticket goes to `d`: what a copy instruction does at issue. -/
def Enqueued (s t : State) (u : Issuing) (c : Ctx) (g g' : Group) (d : Opd) (x y : Copy) : Prop :=
  t.group? u.core u.seat = some g' ∧ SpecialKept { g with csn := y.csn } g' ∧ SeatsKept s t u.core u.seat ∧ BytesKept s t
    ∧ g'.threads = g.threads ∧ g'.pc = nextPc c.pc ∧ Writes d 1 c g g' (BitVec.ofNat 64 (nextTicket s u % 2 ^ 32))
    ∧ ((t.core u.core).quad u.quad).copies = ((s.core u.core).quad u.quad).copies ++ [y]
    ∧ ((t.core u.core).quad u.quad).enqueued = ((s.core u.core).quad u.quad).enqueued + 1
    ∧ y.src = x.src ∧ y.dst = x.dst ∧ y.count = x.count ∧ y.halves = x.halves ∧ y.box = x.box ∧ y.ticket.toNat = nextTicket s u % 2 ^ 32
    ∧ y.started = false ∧ y.done = 0
    ∧ (∀ line, Empty t u.core line ↔ Empty s u.core line ∨ (line ∉ (s.core u.core).endFull ∧ ∃ last, (line, last) ∈ x.spLines))
    ∧ (∀ line, SeenEmpty t u.core line ↔ SeenEmpty s u.core line ∨ ∃ last, (line, last) ∈ x.spLines)

/-- The 64 bytes of a layout record are at hand at an address (R81): in the scratchpad, or in a page that the L1 TLB holds; no other region has written them
since it began (R278), and no uncorrectable error stands in the way (R335). -/
def RecordAt (s : State) (c : Ctx) (a : DWord) (bs : List Byte) : Prop :=
  (∃ o, s.place c c.lane0 a = some (.scratch o) ∧ (s.core c.core).spError o 64 = false ∧ bs = (s.core c.core).seen.readN o 64)
    ∨ ∃ va l, s.place c c.lane0 a = some (.mem va false) ∧ tlbFind (s.core c.core).tlb (va / Config.pageBytes) = some l ∧ l.tgt ≠ 2
        ∧ tlbBad (s.core c.core).tlb (va / Config.pageBytes) = false ∧ (l.tgt ≠ 0 ∨ ∀ e ∈ s.errors, ¬(e < l.addr va + 64 ∧ l.addr va < e + 128))
        ∧ (s.owner c.owner).leafColourOk l va = true ∧ (l.tgt ≠ 0 ∨ l.untr = true ∨ raceGet s.races (l.addr va / 128) = 0)
        ∧ bs = s.readAt (l.tgt == 1) (l.addr va) 64

/-- The copy of a `CPT` with a layout record (R81, R82, R204): the box against a handle or linear memory. -/
def boxOf (s : State) (c : Ctx) (f : FmtM) (load : Bool) (l : Layout) : Copy :=
  let start := (List.range l.ext.length).map (fun d => (c.g.sreg (regNum f.c + d)).toInt)
  let tensor : Endpoint := .tensor l.base l.ext l.str start l.edge l.repb
  let dense : Endpoint := match f.data with
    | .h n => .lines (c.g.handle n.toNat).slots
    | o => .addr (c.sval 2 o)
  c.newCopy s (if load then tensor else dense) (if load then dense else tensor) (l.box.foldl (· * ·) 1) l.halves l.box

/-! ### Handles (R67 to R69, R208, R209) -/

/-- The handles of a group other than `n` stay. -/
def OtherHandles (g g' : Group) (n : Nat) : Prop := ∀ k, k ≠ n → g'.handle k = g.handle k

/-- A mailbox of a core's team. -/
def mailbox (s : State) (core k : Nat) : Option Mail := (s.core core).team.bind (fun t => mget t.mail k)

/-- What remains of a slot that its holder gives up: free once nothing in flight names it (R68). -/
def LetGo (x y : Slot) : Prop := y = { x with use := if x.pending = 0 ∧ x.reading = 0 then .free else .draining }

/-- The place of word `w` of a handle (R212): slot, index. -/
def WordAt (slots : List Nat) (side : Bool) (w k j : Nat) : Prop :=
  if side = true then w ≤ 512 ∧ k = slots.headD 0 ∧ j = 2048 + w else slots[w / 2048]? = some k ∧ j = w % 2048

/-- The slots of a handle register that an allocation into it releases first (R67): those of a live handle. -/
def releasedFirst (g : Group) (n : Nat) : List Nat := if (g.handle n).live = true then (g.handle n).slots else []

/-- A word of a tile slot. -/
def tileWord (s : State) (core k j : Nat) : Word := ((s.core core).slot k).word j

end Sys2Proof.Claims

/-! ## Copies, handles, tiles, queues -/

/-- R80, R202, R203 and R205: `CPY` and `CPX` enqueue their copy, return its ticket, and make the scratchpad lines of its destination empty, but for those that a store or an `SPSET` of the same cycle fills at its end (R257); no byte changes
at issue. A destination that overlaps is a fault. -/
def Sys2Proof.Claims.LinearCopies : Prop :=
  ∀ (s : State) (i : Instr) (f : FmtM) (u : Issuing) (c : Ctx) (r : Row) (g : Group) (x : Copy), Issues s i u c r g → (i = .cpy f ∨ i = .cpx f) →
    copyOf i s c x → EndsFit x →
      (¬Overlaps s c x → ∃ t g' y, exec i s = .next t ∧ Enqueued s t u c g g' f.dst x y)
      ∧ (Overlaps s c x → ∃ a, exec i s = .next (s.raise u (.fatal 0x28 0 a)))

/-- R81, R82 and R204: `CPT.ld` and `CPT.st` with a layout record that can be read enqueue their box copy. -/
def Sys2Proof.Claims.BoxCopies : Prop :=
  ∀ (s : State) (i : Instr) (f : FmtM) (u : Issuing) (c : Ctx) (r : Row) (g : Group) (load : Bool) (bs : List Byte) (l : Layout), Issues s i u c r g →
    (i = .cptLd f ∧ load = true ∨ i = .cptSt f ∧ load = false) → (∀ p ∈ (s.core u.core).ops, p.2.kind.isProbe = false) →
    (c.sval 2 f.addr).toNat % 64 = 0 → RecordAt s c (c.sval 2 f.addr) bs → Layout.of bs = some l → regNum f.c + l.ext.length ≤ 64 →
    (∀ n, f.data = .h n → l.fitsHandle (c.g.handle n.toNat).slots.length = true) → EndsFit (boxOf s c f load l) → ¬Overlaps s c (boxOf s c f load l) →
      ∃ t g' y, exec i s = .next t ∧ Enqueued s t u c g g' f.dst (boxOf s c f load l) y

/-- R81 and R204: a `CPT` that issues alone and whose record lies in a page that the L1 TLB does not hold has no effect: its group waits at it for the read of the
record, and it issues again (read from the spec by inference, DEDUCED: notes/assumptions/37.md; R81 says only that the copy unit reads the record when the copy issues). -/
def Sys2Proof.Claims.RecordWaits : Prop :=
  ∀ (s : State) (i : Instr) (f : FmtM) (u : Issuing) (c : Ctx) (r : Row) (g : Group) (va : Nat), Issues s i u c r g → (i = .cptLd f ∨ i = .cptSt f) →
    u.snap = none → g.fpe = [] → (∀ p ∈ (s.core u.core).ops, p.2.kind.isProbe = false) → (c.sval 2 f.addr).toNat % 64 = 0 →
    s.place c c.lane0 (c.sval 2 f.addr) = some (.mem va false) → tlbFind (s.core u.core).tlb (va / Config.pageBytes) = none →
      ∃ t g' k o, exec i s = .next t ∧ SeatStep s t u g g' ∧ AllRegsKept g g' ∧ g'.threads = g.threads ∧ g'.pc = g.pc ∧ g'.wait = some (.op k)
        ∧ mget (t.core u.core).ops k = some o ∧ o.kind = .probe .record
        ∧ ((t.core u.core).quad u.quad).copies = ((s.core u.core).quad u.quad).copies

/-- R206: `CPW` issues once its copy is complete, and changes nothing but its region; `CPQ` returns what the queue tells of a ticket: 3 for a complete
copy, 0 for one not started, 1 or 2 for one that runs, with the destination bytes of its prefix. -/
def Sys2Proof.Claims.CopyStatus : Prop :=
  ∀ (s : State) (f : FmtM) (u : Issuing) (c : Ctx) (r : Row) (g : Group),
    let w := (c.sval32 f.data).toNat
    let q := (s.core u.core).quad (w / 2 ^ 30)
    let complete := ((q.completed : Int) - (w % 2 ^ 30 : Nat) - 1) % 2 ^ 30 < 2 ^ 29
    (Issues s (.cpw f) u c r g → complete ∧ ∃ t g', exec (.cpw f) s = .next t ∧ SeatStep s t u g g' ∧ AllRegsKept g g' ∧ g'.threads = g.threads
      ∧ g'.pc = nextPc c.pc)
    ∧ (Issues s (.cpq f) u c r g → ∃ t g' state bytes, exec (.cpq f) s = .next t ∧ SeatStep s t u g g' ∧ g'.threads = g.threads ∧ g'.pc = nextPc c.pc
      ∧ Writes f.dst 2 c g g' (BitVec.ofNat 64 (bytes % 2 ^ 32 + state * 2 ^ 32))
      ∧ (complete ↔ state = 3) ∧ (complete → ∀ d, q.done.find? (fun d => d.seq == w % 2 ^ 30) = some d → bytes = d.bytes)
      ∧ (complete → q.done.find? (fun d => d.seq == w % 2 ^ 30) = none → bytes = 0xFFFFFFFF)
      ∧ (¬complete → ∀ x, q.copies.find? (fun x => x.ticket.toNat == w) = some x →
          (x.started = false → state = 0 ∧ bytes = 0) ∧ (x.started = true → (state = 1 ∨ state = 2) ∧ bytes = x.bytesOf x.done))
      ∧ (¬complete → q.copies.find? (fun x => x.ticket.toNat == w) = none → state = 0 ∧ bytes = 0))

/-- R80 to R82 and R202 to R206: linear and box copies, and what tells of them. (That the group waits at the `CPT`, with no effect of it, while the record is read, and that the record is
read through the TLBs and the walk before the command is enqueued, is read from the spec by inference (DEDUCED): notes/assumptions/37.md.) -/
def Obligations.Copies : Prop := LinearCopies ∧ BoxCopies ∧ RecordWaits ∧ CopyStatus

/-- R67 to R70, R90, R208 and R209: `HALLOC` gives the lowest free slots, with new generations, `HFREE` gives a handle's slots up, `HPUT` moves a handle into its mailbox
and `HTAKE` out of it, `HQRY` tells free slots, full mailboxes and live handles. -/
def Obligations.Handles : Prop :=
  ∀ (s : State) (i : Instr) (f : FmtX) (u : Issuing) (c : Ctx) (r : Row) (g : Group), Issues s i u c r g → c.g.handles = g.handles →
    (s.core u.core).team.isSome = true →
    let k := f.xmod.toNat % 8
    (i = .halloc f → let own := releasedFirst g (hnum f.dst)
        ∃ t g' h, exec i s = .next t ∧ t.group? u.core u.seat = some g'
        ∧ SpecialKept { g with handles := g'.handles } g' ∧ BytesKept s t ∧ SeatsKept s t u.core u.seat ∧ AllRegsKept g g' ∧ g'.threads = g.threads
        ∧ g'.pc = nextPc c.pc ∧ OtherHandles g g' (hnum f.dst) ∧ g'.handle (hnum f.dst) = h ∧ h.live = true
        ∧ h.slots = ((List.range 32).filter (fun n => if own.contains n then ((s.core u.core).slot n).pending == 0 && ((s.core u.core).slot n).reading == 0
            else ((s.core u.core).slot n).use == .free)).take (2 ^ (f.xmod.toNat % 4))
        ∧ h.gen = ((t.core u.core).slot (h.slots.headD 0)).gen
        ∧ (∀ n ∈ h.slots, ((t.core u.core).slot n).use = .handle u.seat (hnum f.dst) ∧ ((t.core u.core).slot n).gen = ((s.core u.core).slot n).gen + 1
            ∧ ((t.core u.core).slot n).words = [])
        ∧ (∀ n, n ∉ h.slots → n ∉ own → (t.core u.core).slot n = (s.core u.core).slot n)
        ∧ (∀ n ∈ own, n ∉ h.slots → LetGo ((s.core u.core).slot n) ((t.core u.core).slot n)))
    ∧ (i = .hfree f → ∃ t g', exec i s = .next t ∧ t.group? u.core u.seat = some g' ∧ SpecialKept { g with handles := g'.handles } g' ∧ BytesKept s t
        ∧ SeatsKept s t u.core u.seat ∧ AllRegsKept g g' ∧ g'.threads = g.threads ∧ g'.pc = nextPc c.pc ∧ OtherHandles g g' (hnum f.a)
        ∧ (g'.handle (hnum f.a)).live = false
        ∧ (∀ n ∈ (g.handle (hnum f.a)).slots, LetGo ((s.core u.core).slot n) ((t.core u.core).slot n))
        ∧ (∀ n, n ∉ (g.handle (hnum f.a)).slots → (t.core u.core).slot n = (s.core u.core).slot n))
    ∧ (i = .hput f → mailbox s u.core k = none ∧ ∃ t g', exec i s = .next t ∧ t.group? u.core u.seat = some g'
        ∧ SpecialKept { g with handles := g'.handles } g' ∧ BytesKept s t ∧ SeatsKept s t u.core u.seat ∧ AllRegsKept g g' ∧ g'.threads = g.threads
        ∧ g'.pc = nextPc c.pc ∧ OtherHandles g g' (hnum f.a) ∧ (g'.handle (hnum f.a)).live = false
        ∧ mailbox t u.core k = some { slots := (g.handle (hnum f.a)).slots, gen := (g.handle (hnum f.a)).gen }
        ∧ (∀ n ∈ (g.handle (hnum f.a)).slots, ((t.core u.core).slot n).use = .mailbox k ∧ ((t.core u.core).slot n).words = ((s.core u.core).slot n).words)
        ∧ (∀ n, n ∉ (g.handle (hnum f.a)).slots → (t.core u.core).slot n = (s.core u.core).slot n))
    ∧ (i = .htake f → ∃ m, mailbox s u.core k = some m ∧ ∃ t g', exec i s = .next t ∧ t.group? u.core u.seat = some g'
        ∧ SpecialKept { g with handles := g'.handles } g' ∧ BytesKept s t ∧ SeatsKept s t u.core u.seat ∧ AllRegsKept g g' ∧ g'.threads = g.threads
        ∧ g'.pc = nextPc c.pc ∧ OtherHandles g g' (hnum f.dst) ∧ g'.handle (hnum f.dst) = { live := true, slots := m.slots, gen := m.gen }
        ∧ mailbox t u.core k = none ∧ (∀ n ∈ m.slots, ((t.core u.core).slot n).use = .handle u.seat (hnum f.dst))
        ∧ (∀ n, n ∉ m.slots → n ∉ releasedFirst g (hnum f.dst) → (t.core u.core).slot n = (s.core u.core).slot n)
        ∧ (∀ n ∈ releasedFirst g (hnum f.dst), n ∉ m.slots → LetGo ((s.core u.core).slot n) ((t.core u.core).slot n)))
    ∧ (i = .hqry f → ∃ t g', exec i s = .next t ∧ SeatStep s t u g g' ∧ g'.threads = g.threads ∧ g'.pc = nextPc c.pc
        ∧ Writes f.dst 1 c g g' (BitVec.ofNat 64 ((((g.handles.filter (fun p => p.2.live)).map (fun p => 2 ^ p.1)).sum
            + ((((s.core u.core).team.map (fun t => t.mail)).getD []).map (fun p => 2 ^ (16 + p.1))).sum
            + ((List.range 32).filter (fun n => ((s.core u.core).slot n).use == .free)).length % 64 * 2 ^ 24) % 2 ^ 32)))

/-- R212 and R213: `TRD` reads a word of a handle in each lane, `TWR` writes one from each lane (the highest lane that names a word wins), `TFILL` fills the
tile words of every slot, and with `.scl` the sidecar and the band word of the first. An index outside the word space is an address fault, and a `TRD` of a slot
with an uncorrectable error a data error (R335). -/
def Obligations.TileWords : Prop :=
  ∀ (s : State) (i : Instr) (f : FmtX) (u : Issuing) (c : Ctx) (r : Row) (g : Group), Issues s i u c r g →
    let side := f.xmod.getLsbD 0
    let w (l : Nat) : Nat := (c.read32 f.b l).toNat % 2 ^ 14
    (i = .trd f →
      (∀ l ∈ c.aluLanes r, ∃ k j, WordAt (c.g.handle (hnum f.a)).slots side (w l) k j ∧ ((s.core u.core).slot k).error = false) →
      ∃ t g' v, exec i s = .next t ∧ RegisterResult s t u c r g (c.aluLanes r) v g' ∧ ∀ l ∈ c.aluLanes r, ∀ k j,
          WordAt (c.g.handle (hnum f.a)).slots side (w l) k j → v l = (tileWord s u.core k j).zeroExtend 64)
    ∧ (i = .trd f → (∀ l ∈ c.aluLanes r, ∃ k j, WordAt (c.g.handle (hnum f.a)).slots side (w l) k j) →
        (∃ l ∈ c.aluLanes r, ∃ k j, WordAt (c.g.handle (hnum f.a)).slots side (w l) k j ∧ ((s.core u.core).slot k).error = true) →
        exec i s = .next (s.raise u (.fatal 0x27 0 0)))
    ∧ (i = .trd f → ∀ l ls, c.aluLanes r = l :: ls → (∀ k j, ¬WordAt (c.g.handle (hnum f.a)).slots side (w l) k j) →
        exec i s = .next (s.raise u (.fatal 0x20 0 (BitVec.ofNat 64 (w l)))))
    ∧ (i = .twr f → let slots := (c.g.handle (hnum f.dst)).slots
      let ls := if isS f.b then [c.lane0] else c.effLanes f.hdr.guard
      (∀ l ∈ ls, ∃ k j, WordAt slots side (w l) k j) →
      ∃ t g', exec i s = .next t ∧ SeatStep s t u g g' ∧ AllRegsKept g g' ∧ g'.threads = g.threads ∧ g'.pc = nextPc c.pc
        ∧ (∀ k j, (∀ l ∈ ls, ¬WordAt slots side (w l) k j) → tileWord t u.core k j = tileWord s u.core k j)
        ∧ (∀ pre l post, ls = pre ++ l :: post → ∀ k j, WordAt slots side (w l) k j → (∀ m ∈ post, ¬WordAt slots side (w m) k j) →
            tileWord t u.core k j = c.read32 f.a l))
    ∧ (i = .tfill f → let slots := (c.g.handle (hnum f.dst)).slots
      ∃ t g', exec i s = .next t ∧ SeatStep s t u g g' ∧ AllRegsKept g g' ∧ g'.threads = g.threads ∧ g'.pc = nextPc c.pc
        ∧ (∀ k j, k ∈ slots → j < 2048 → tileWord t u.core k j = c.sval32 f.a)
        ∧ (∀ k j, k ∉ slots → k ≠ slots.headD 0 → tileWord t u.core k j = tileWord s u.core k j)
        ∧ (side = true → ∀ j, j < 512 → (tileWord t u.core (slots.headD 0) (2048 + j)).toNat = (c.sval32 f.b).toNat % 256 * 0x01010101)
        ∧ (side = true → (tileWord t u.core (slots.headD 0) 2560).toNat = (c.sval32 f.b).toNat / 2 ^ 16 * 0x00010001)
        ∧ (side = false → ∀ k j, 2048 ≤ j → tileWord t u.core k j = tileWord s u.core k j))

namespace Sys2Proof.Claims

/-! ### Tiles in memory, queues, collectives (R210, R211, R216 to R221) -/

/-- Every piece of a tile in memory lies in the scratchpad or global window, on at most 64 pages (R211). -/
def PiecesFit (s : State) (c : Ctx) (ps : List (DWord × Nat)) : Prop :=
  (∀ p ∈ ps, (∃ o, s.place c c.lane0 p.1 = some (.scratch o)) ∨ ∃ va, s.place c c.lane0 p.1 = some (.mem va false))
    ∧ ∀ vs : List Nat, vs.Nodup → (∀ v ∈ vs, ∃ p ∈ ps, ∃ va, s.place c c.lane0 p.1 = some (.mem va false) ∧ va / 2 ^ 15 = v) → vs.length ≤ 64

/-- The base and the stride of a tile access are legal (R211): multiples of 16, and the stride from `least` to 2^31 - 16. -/
def Strided (c : Ctx) (f : FmtX) (least : Nat) : Prop :=
  (c.sval 2 f.a).toNat % 16 = 0 ∧ (c.sval32 f.b).toNat % 16 = 0 ∧ max 16 least ≤ (c.sval32 f.b).toNat ∧ (c.sval32 f.b).toNat ≤ 2 ^ 31 - 16

/-- Operation `o` accesses the pieces of a tile. -/
def MakesPieces (ps : List (DWord × Nat)) (o : MemOp) : Prop := ∀ a n, (a, n) ∈ ps ↔ ∃ x ∈ o.acc ++ o.scr, x.ga = a ∧ x.bytes = n

/-- The address of a queue step: opA + OFF. -/
def queueAddr (c : Ctx) (f : FmtM) : DWord := c.sval 2 f.addr + f.off.signExtend 64

/-- Operation `id` of kind `k` accesses `bytes` bytes at a queue's descriptor or entry, and its result is due in `dst`. -/
def StepStarted (s t : State) (u : Issuing) (c : Ctx) (f : FmtM) (k : OpKind) (bytes words : Nat) (g' : Group) : Prop :=
  ∃ id o va, mget (t.core u.core).ops id = some o ∧ o.kind = k ∧ o.acc.map (fun x => (x.ga, x.va, x.bytes)) = [(queueAddr c f, va, bytes)]
    ∧ s.place c c.lane0 (queueAddr c f) = some (.mem va false) ∧ o.dst = regId? f.dst ∧ ∀ x ∈ regsFrom f.dst words, g'.pending c.now x = true

/-- `n` bytes are at hand at an address for a command that reads them to issue (R220): in the scratchpad, or in a page that the L1 TLB holds, with no
uncorrectable error in the way (R335). -/
def BytesAt (s : State) (c : Ctx) (a : DWord) (n : Nat) (bs : List Byte) : Prop :=
  (∃ o, s.place c c.lane0 a = some (.scratch o) ∧ (s.core c.core).spError o n = false ∧ bs = (s.core c.core).seen.readN o n)
    ∨ ∃ va l, s.place c c.lane0 a = some (.mem va false) ∧ tlbFind (s.core c.core).tlb (va / Config.pageBytes) = some l ∧ l.tgt ≠ 2
        ∧ tlbBad (s.core c.core).tlb (va / Config.pageBytes) = false ∧ (l.tgt ≠ 0 ∨ ∀ e ∈ s.errors, ¬(e < l.addr va + n ∧ l.addr va < e + 128))
        ∧ (s.owner c.owner).leafColourOk l va = true ∧ bs = s.readAt (l.tgt == 1) (l.addr va) n

/-- The pieces of `n` bytes at an address, cut where lines end, hold `bs`. -/
def PiecesHold (s : State) (c : Ctx) (a : DWord) (ps : List (Nat × Nat)) (bs : List Byte) : Prop :=
  ∃ xs : List (List Byte), xs.length = ps.length ∧ bs = xs.flatten
    ∧ ∀ (i : Nat) (p : Nat × Nat) (x : List Byte), ps[i]? = some p → xs[i]? = some x → BytesAt s c (a + BitVec.ofNat 64 p.1) p.2 x

/-- The lag word of `STRG` (R219). -/
def LagWord (o : Owner) (fb dev : Nat) (d : Word) : Prop :=
  (((mget o.cards fb).bind (fun x => x.rank dev)) = none → d = 0)
    ∧ ∀ x rank, mget o.cards fb = some x → x.rank dev = some rank →
        let ls := x.lags rank
        let n := (ls.filter id).length
        let p := o.strgp.toNat % 32
        (∀ i, i < 16 → d.getLsbD i = (ls[i]?).getD false) ∧ d.toNat / 2 ^ 16 % 32 = n ∧ (d.getLsbD 21 = decide (1 ≤ p ∧ p ≤ 16 ∧ p ≤ n))
          ∧ d.getLsbD 22 = true ∧ d.toNat < 2 ^ 23

end Sys2Proof.Claims

/-- R210 and R211: `TLD` and `TST` start the operation that accesses every piece of their tile; the slots that a `TLD` writes stay pending. At issue no byte
changes but those of the scratchpad that a `TST` names. A base or stride that is not legal is an illegal instruction, and a `TST` of a slot with an uncorrectable
error a data error (R335). -/
def Obligations.TileAccesses : Prop :=
  ∀ (s : State) (f : FmtX) (u : Issuing) (c : Ctx) (r : Row) (g : Group),
    (Issues s (.tld f) u c r g → Strided c f 16 → PiecesFit s c (c.tileAddrs f f.dst) →
      Permitted s c ((c.tileAddrs f f.dst).map (fun p => (c.lane0, p.1))) false →
      ∃ t g' id o, exec (.tld f) s = .next t ∧ SeatStep s t u g g' ∧ AllRegsKept g g' ∧ g'.threads = g.threads ∧ g'.pc = nextPc c.pc
        ∧ mget (t.core u.core).ops id = some o ∧ o.kind = .tld (c.slots f.dst) f.fmta.toNat (f.scs == 1) ∧ MakesPieces (c.tileAddrs f f.dst) o
        ∧ (∀ n, ((t.core u.core).slot n).pending = ((s.core u.core).slot n).pending + (c.slots f.dst).count n
            ∧ ((t.core u.core).slot n).words = ((s.core u.core).slot n).words))
    ∧ (Issues s (.tst f) u c r g → Strided c f (tileLine f.fmta.toNat (c.slots f.c).length) → PiecesFit s c (c.tileAddrs f f.c) →
      (∀ n ∈ c.slots f.c, ((s.core u.core).slot n).error = false) →
      Permitted s c ((c.tileAddrs f f.c).map (fun p => (c.lane0, p.1))) true →
      ∃ t g' m, exec (.tst f) s = .next t ∧ t.group? u.core u.seat = some g' ∧ SpecialKept { g with mmx := m } g' ∧ SeatsKept s t u.core u.seat
        ∧ AllRegsKept g g' ∧ g'.threads = g.threads ∧ g'.pc = nextPc c.pc
        ∧ (∀ a, t.mem.read a = s.mem.read a) ∧ (∀ a, t.host.read a = s.host.read a) ∧ (∀ n, n ≠ u.core → ∀ a, (t.core n).sp.read a = (s.core n).sp.read a)
        ∧ (∀ a, (∀ p ∈ c.tileAddrs f f.c, ∀ o, s.place c c.lane0 p.1 = some (.scratch o) → ¬(o ≤ a ∧ a < o + p.2)) →
            (t.core u.core).sp.read a = (s.core u.core).sp.read a)
        ∧ ∀ n, ((t.core u.core).slot n).words = ((s.core u.core).slot n).words)
    ∧ (Issues s (.tst f) u c r g → Strided c f (tileLine f.fmta.toNat (c.slots f.c).length) → (∃ n ∈ c.slots f.c, ((s.core u.core).slot n).error = true) →
        exec (.tst f) s = .next (s.raise u (.fatal 0x27 0 0)))
    ∧ (Issues s (.tld f) u c r g → ¬Strided c f 16 → exec (.tld f) s = .next (s.raise u (.fatal 0x23 0 (BitVec.ofNat 64 c.pc))))
    ∧ (Issues s (.tst f) u c r g → ¬Strided c f (tileLine f.fmta.toNat (c.slots f.c).length) →
        exec (.tst f) s = .next (s.raise u (.fatal 0x23 0 (BitVec.ofNat 64 c.pc))))

/-- R216 to R218, R289 and R290: `TQPOP`, `TQDONE` and, outside a grid that replays its steals, `TQSTEAL` start their step at the descriptor's or entry's
place, aligned to 64 or 32 bytes in the global window; another address is an address fault. A recorded `TQSTEAL` beyond the log's room takes nothing. -/
def Sys2Proof.Claims.QueueIssue : Prop :=
  ∀ (s : State) (i : Instr) (f : FmtM) (u : Issuing) (c : Ctx) (r : Row) (g : Group), Issues s i u c r g →
    (i = .tqpop f ∨ i = .tqdone f ∨ i = .tqsteal f) →
    let n := if i = .tqdone f then 32 else 64
    let steps := i ≠ .tqsteal f ∨ ∀ x, s.gridOf u.core = some x → x.packet.trm ≠ 2 ∧ (x.packet.trm = 1 → x.steals < x.packet.nlog)
    (steps → (queueAddr c f).toNat % n = 0 → (∃ va, s.place c c.lane0 (queueAddr c f) = some (.mem va false)) →
      Permitted s c [(c.lane0, queueAddr c f)] true →
      (i = .tqpop f → ∀ va l, s.place c c.lane0 (queueAddr c f) = some (.mem va false) → tlbFind (s.core u.core).tlb (va / 2 ^ 15) = some l → l.tgt = 0) →
      ∃ t g' k, exec i s = .next t ∧ SeatStep s t u g g' ∧ AllRegsKept g g' ∧ g'.threads = g.threads ∧ g'.pc = nextPc c.pc
        ∧ (k = if i = .tqpop f then .tqpop else if i = .tqdone f then .tqdone else .tqsteal)
        ∧ StepStarted s t u c f k (if i = .tqdone f then 32 else 24) (if i = .tqdone f then 1 else 2) g')
    ∧ (steps → ((queueAddr c f).toNat % n ≠ 0 ∨ ∀ va, s.place c c.lane0 (queueAddr c f) ≠ some (.mem va false)) →
        exec i s = .next (s.raise u (.fatal 0x20 0 (queueAddr c f))))
    ∧ (∀ x, i = .tqsteal f → s.gridOf u.core = some x → x.packet.trm = 1 → x.packet.nlog ≤ x.steals →
        ∃ t g', exec i s = .next t ∧ SeatStep s t u g g' ∧ g'.threads = g.threads ∧ g'.pc = nextPc c.pc ∧ Writes f.dst 2 c g g' 0xFFFFFFFFFFFFFFFE)

/-- R217, R218 and R320: what a step does to an entry and a descriptor of a queue, byte for byte: an entry that is QUEUED with an unreserved tile is
taken; one that the device and the group hold becomes DONE; anything else stays. -/
def Sys2Proof.Claims.QueueEntries : Prop :=
  ∀ (e d : List Byte) (state dev lgid : Nat), e.length = 32 → d.length = 24 →
    let tile := leNat (e.take 8)
    let st := leNat ((e.drop 8).take 4)
    (st = 0 ∧ tile < 0xFFFFFFFFFFFFFFF0 → ∃ e', takeEntry e state dev lgid = some (BitVec.ofNat 64 tile, e') ∧ e'.length = 32 ∧ e'.take 8 = e.take 8
        ∧ leNat ((e'.drop 8).take 4) = state % 2 ^ 32 ∧ leNat ((e'.drop 12).take 4) % 1024 = dev % 1024 ∧ leNat ((e'.drop 16).take 4) = lgid % 2 ^ 32
        ∧ e'.drop 20 = e.drop 20)
    ∧ (¬(st = 0 ∧ tile < 0xFFFFFFFFFFFFFFF0) → takeEntry e state dev lgid = none)
    ∧ (let held := (st = 1 ∨ st = 2) ∧ leNat ((e.drop 12).take 4) % 1024 = dev ∧ leNat ((e.drop 16).take 4) = lgid
      (held → (doneEntry e dev lgid).1 = 0 ∧ leNat (((doneEntry e dev lgid).2.drop 8).take 4) = 3
        ∧ (doneEntry e dev lgid).2.take 8 = e.take 8 ∧ (doneEntry e dev lgid).2.drop 12 = e.drop 12)
      ∧ (¬held → doneEntry e dev lgid = (1, e)))
    ∧ (popDesc d).drop 8 = d.drop 8 ∧ leNat ((popDesc d).take 8) = (leNat (d.take 8) + 1) % 2 ^ 64
    ∧ (stealDesc d).take 8 = d.take 8 ∧ (stealDesc d).drop 16 = d.drop 16 ∧ leNat (((stealDesc d).drop 8).take 8) = leNat ((d.drop 8).take 8) - 1

/-- R216 to R218, R289, R290 and R320: steps of tile queues. -/
def Obligations.Queues : Prop := QueueIssue ∧ QueueEntries


/-- R219: `STRG` returns the lag word of a member, and 0 for a device that is none; `STRG.t` returns 0xFFFF_FFFF where the grid may not read fabric time. -/
def Obligations.Scorecards : Prop :=
  ∀ (s : State) (f : FmtM) (u : Issuing) (c : Ctx) (r : Row) (g : Group),
    (Issues s (.strg f) u c r g → ∃ t g' d, exec (.strg f) s = .next t ∧ SeatStep s t u g g' ∧ g'.threads = g.threads ∧ g'.pc = nextPc c.pc
      ∧ Writes f.dst 1 c g g' (d.zeroExtend 64) ∧ LagWord (s.owner c.owner) (f.hint.toNat % 8) ((c.sval32 f.data).toNat % 1024) d)
    ∧ (Issues s (.strgT f) u c r g → ∃ t g' d, exec (.strgT f) s = .next t ∧ SeatStep s t u g g' ∧ g'.threads = g.threads ∧ g'.pc = nextPc c.pc
      ∧ Writes f.dst 1 c g g' (BitVec.ofNat 64 d)
      ∧ (s.fabricReadable u.core = false → d = 0xFFFFFFFF)
      ∧ (s.fabricReadable u.core = true → ∀ x rank gen, mget (s.owner c.owner).cards (f.hint.toNat % 8) = some x →
          x.rank ((c.sval32 f.data).toNat % 1024) = some rank → (x.gens.take 16)[(c.sval32 f.c).toNat % 16]? = some gen →
            d = min ((gen.arr[rank]?).getD 0) 0xFFFFFFFD)
      ∧ (s.fabricReadable u.core = true → ((mget (s.owner c.owner).cards (f.hint.toNat % 8)).bind (fun x =>
          (x.rank ((c.sval32 f.data).toNat % 1024)).bind (fun _ => (x.gens.take 16)[(c.sval32 f.c).toNat % 16]?))) = none → d = 0xFFFFFFFE))

/-- R220 and R314: a `COLL` whose descriptor is not aligned, or combines its fields as R220 forbids, is a fault. -/
def Sys2Proof.Claims.CollectiveFaults : Prop :=
  ∀ (s : State) (f : FmtM) (u : Issuing) (c : Ctx) (r : Row) (g : Group) (bs : List Byte), Issues s (.coll f) u c r g →
    let a := c.sval 2 f.addr
    (a.toNat % 64 ≠ 0 → exec (.coll f) s = .next (s.raise u (.fatal 0x20 0 a)))
    ∧ (a.toNat % 64 = 0 → (∀ p ∈ (s.core u.core).ops, p.2.kind.isProbe = false) → BytesAt s c a 64 bs → collIllegal bs = true →
        exec (.coll f) s = .next (s.raise u (.fatal 0x23 0 (BitVec.ofNat 64 c.pc))))

/-- R220, R221, R313, R314 and R336: `COLL` with a legal descriptor and a member table that can be read completes: it gives its command a number and to the die's engine, with
the descriptor's fields; the collective's own completion is due from the engine. A table without the device ends it in MISMATCH, a member that is lost in PEER-LOST. -/
def Sys2Proof.Claims.CollectiveStarts : Prop :=
  ∀ (s : State) (f : FmtM) (u : Issuing) (c : Ctx) (r : Row) (g : Group) (bs ms : List Byte), Issues s (.coll f) u c r g →
    (c.sval 2 f.addr).toNat % 64 = 0 → (∀ p ∈ (s.core u.core).ops, p.2.kind.isProbe = false) → BytesAt s c (c.sval 2 f.addr) 64 bs → collIllegal bs = false →
    PiecesHold s c (BitVec.ofNat 64 (leNat ((bs.drop 24).take 8)))
      (linePieces (BitVec.ofNat 64 (leNat ((bs.drop 24).take 8))) (2 * leNat ((bs.drop 32).take 2))) ms →
      ∃ t g' k x, exec (.coll f) s = .next t ∧ t.group? u.core u.seat = some g' ∧ SpecialKept { g with csn := x.csn } g' ∧ BytesKept s t
        ∧ SeatsKept s t u.core u.seat ∧ AllRegsKept g g' ∧ g'.threads = g.threads ∧ g'.pc = nextPc c.pc
        ∧ k = (s.owner c.owner).nextColl ∧ mget ((t.owner c.owner).die (u.core / 256)).colls k = some x ∧ x.core = u.core ∧ x.desc = c.sval 2 f.addr
        ∧ x.src = BitVec.ofNat 64 (leNat (bs.take 8)) ∧ x.dsta = BitVec.ofNat 64 (leNat ((bs.drop 8).take 8)) ∧ x.count = leNat ((bs.drop 16).take 4)
        ∧ x.tag = leNat ((bs.drop 36).take 4) ∧ x.members = memberTable ms ∧ x.sent = false ∧ x.got = []
        ∧ (s.mgmt.device.toNat ∉ memberTable ms → (∀ d ∈ (s.owner c.owner).dies, mget d.2.colls k = none) →
          (∀ p ∈ (s.owner c.owner).failedTags, p.1 ≠ x.tag) → x.code = some (4, 0))
        ∧ (∀ d, s.mgmt.device.toNat ∈ memberTable ms → (memberTable ms).Nodup → (x.op < 3 ∨ x.root < (memberTable ms).length) →
          (memberTable ms).find? (fun d => d != s.mgmt.device.toNat && s.fab.lost.contains d) = some d →
          (∀ d ∈ (s.owner c.owner).dies, mget d.2.colls k = none) → (∀ p ∈ (s.owner c.owner).failedTags, p.1 ≠ x.tag) → x.code = some (1, d))

/-- R220, R221, R314 and R336: the issue of a `COLL`, and its faults. -/
def Obligations.CollectiveIssue : Prop := CollectiveFaults ∧ CollectiveStarts

namespace Sys2Proof.Claims

/-! ### Matrix engines (R73, R160, R161, R222 to R234, R251) -/

/-- The class of an operand pair that sets the time of a product (R251): 128, 256 or 512 cycles. -/
def productTime (fa fb : Nat) : Nat :=
  if (fa = 5 ∨ fa = 12 ∨ fa = 13) ∧ (fb = 5 ∨ fb = 12 ∨ fb = 13) then 128 else if fa = 6 ∨ fa = 7 ∨ fb = 6 ∨ fb = 7 then 512 else 256

/-- D of a command (R251). -/
def commandTime : EngineOp → Nat
  | .mma _ _ _ fa fb _ _ => productTime fa fb
  | .mmab _ _ _ fa fb _ _ _ _ _ => productTime fa fb
  | .mmas _ _ _ fa fb _ _ _ _ => 3 * productTime fa fb / 4
  | .mma64 _ _ ha _ => 4096 * ha.length
  | .mmai .. => 256
  | .acz => 16
  | .acst .. => 64
  | .cvtb .. => 64
  | .bscl .. => 128

/-- The team's seed of stochastic rounding (R104). -/
def seed (s : State) (core : Nat) : DWord := ((s.core core).team.map (fun t => t.srseed)).getD 0

/-- Elements of a line of FP32 or FP64 in a handle of `n` slots (R71). -/
def lineOf (fa n : Nat) : Nat := if fa = 14 then 16 * n else 8 * n

/-- The command that an instruction gives to its engine, whether it takes a token (R29), and its origin. -/
def commandOf (i : Instr) (s : State) (c : Ctx) (op : EngineOp) (token : Bool) (org : Option Nat) : Prop :=
  match i with
  | .mma f => op = .mma (f.xmod.getLsbD 0) (f.scs.getLsbD 0) (f.scs.getLsbD 1) f.fmta.toNat f.fmtb.toNat (c.slots f.a) (c.slots f.b) ∧ token = true
      ∧ org = some f.org.toNat
  | .mmas f => op = .mmas (f.xmod.getLsbD 0) (f.scs.getLsbD 0) (f.scs.getLsbD 1) f.fmta.toNat f.fmtb.toNat (c.slots f.a) (c.slots f.b) (c.slots f.c) (c.slots f.dst)
      ∧ token = true ∧ org = some f.org.toNat
  | .mma64 f => op = .mma64 (f.xmod.getLsbD 0) (f.xmod.getLsbD 1) (c.slots f.a) (c.slots f.b) ∧ token = true ∧ org = some f.org.toNat
  | .mmai f => op = .mmai (f.xmod.getLsbD 0) (f.xmod.getLsbD 2) (c.slots f.a) (c.slots f.b) ∧ token = true ∧ org = some f.org.toNat
  | .acz f => op = .acz ∧ token = false ∧ org = some f.org.toNat
  | .acst f => op = .acst false (f.xmod.getLsbD 0) (f.xmod.getLsbD 1) (f.xmod.toNat / 4 % 128) f.fmta.toNat f.fmtb.toNat (c.slots f.dst)
        (if f.xmod.getLsbD 0 then c.sval32 f.c else 0) (seed s c.core)
      ∧ token = false ∧ org = some f.org.toNat
      ∧ (14 ≤ f.fmta.toNat → f.xmod.toNat / 4 % 128 + lineOf f.fmta.toNat (c.slots f.dst).length ≤ if f.fmtb.toNat = 15 then 64 else 128)
  | .acth f => op = .acst true (f.xmod.getLsbD 0) (f.xmod.getLsbD 1) (f.xmod.toNat / 4 % 128) f.fmta.toNat f.fmtb.toNat (c.slots f.dst)
        (if f.xmod.getLsbD 0 then c.sval32 f.c else 0) (seed s c.core)
      ∧ token = false ∧ org = some f.org.toNat
      ∧ (14 ≤ f.fmta.toNat → f.xmod.toNat / 4 % 128 + lineOf f.fmta.toNat (c.slots f.dst).length ≤ if f.fmtb.toNat = 15 then 64 else 128)
  | .cvtb f => op = .cvtb (f.rm == .sr) f.sat (cvtSty f) (cvtDty f) (c.slots f.a) (c.slots f.dst) (if f.rm == .sr then c.sval32 f.b else 0) (seed s c.core)
      ∧ token = false ∧ org = none
  | .bscl f => op = .bscl (f.rm == .sr) (cvtDty f) (c.slots f.a) (c.slots f.b) (c.slots f.dst) (if f.rm == .sr then c.sval32 f.c else 0) (seed s c.core)
      ∧ token = false ∧ org = none
  | _ => False

/-- What every engine command does at issue: it joins the engine's queue with its number, its token is drawn, and its slots and origin are marked. -/
structure Commanded (s t : State) (u : Issuing) (c : Ctx) (g g' : Group) (op : EngineOp) (token : Bool) (org : Option Nat) (x : EngineCmd) : Prop where
  seated : t.group? u.core u.seat = some g'
  special : SpecialKept { g with csn := x.csn } g'
  regs : AllRegsKept g g'
  threads : g'.threads = g.threads
  pc : g'.pc = nextPc c.pc
  seats : SeatsKept s t u.core u.seat
  bytes : BytesKept s t
  command : x.op = op
  time : x.d = commandTime op
  waits : x.begun = none ∧ x.read = false
  origin : x.org = org.bind (fun n => c.g.origins[n]?)
  number : x.csn.toNat = (u.core * 2 ^ 53 + u.quad * 2 ^ 51 + (((s.core u.core).quad u.quad).seq + 1) % 2 ^ 51) % 2 ^ 64
  level : ((t.owner c.owner).die (u.core / 256)).pool.level = ((s.owner c.owner).die (u.core / 256)).pool.level - (if token then 1 else 0)
  words : ∀ n, ((t.core u.core).slot n).words = ((s.core u.core).slot n).words

/-- The reads and the writes of tile slots that a command has ahead of it (R46, R223). -/
def SlotMarks (s t : State) (core : Nat) (op : EngineOp) : Prop :=
  ∀ n, ((t.core core).slot n).reading = ((s.core core).slot n).reading + op.reads.flatten.count n
    ∧ ((t.core core).slot n).pending = ((s.core core).slot n).pending + op.writes.count n

/-- A cell of an origin. -/
def cell (s : State) (core quad p row col : Nat) : Word := (((s.core core).quad quad).origin p).cell row col

/-- The cell that an index names (R234): row in [13:7], column in [6:0], or with `.64` the pair of columns 2·[5:0]. -/
def cellOf (w64 : Bool) (a : Word) : Nat × Nat := (a.toNat / 2 ^ 7 % 128, if w64 then 2 * (a.toNat % 64) else a.toNat % 128)

end Sys2Proof.Claims

/-! ## Matrix engines -/

/-- R29, R160, R161, R222 to R233, R251 and R336: `MMA`, `MMAS`, `MMA64`, `MMAI`, `ACZ`, `ACST`, `ACTH`, `CVTB` and `BSCL` give their command to the engine. -/
def Sys2Proof.Claims.QueuedCommands : Prop :=
  ∀ (s : State) (i : Instr) (u : Issuing) (c : Ctx) (r : Row) (g : Group) (op : EngineOp) (token : Bool) (org : Option Nat), Issues s i u c r g →
    commandOf i s c op token org →
      ∃ t g' x, exec i s = .next t ∧ Commanded s t u c g g' op token org x ∧ SlotMarks s t u.core op
        ∧ ((t.core u.core).quad u.quad).engine = ((s.core u.core).quad u.quad).engine ++ [x]
        ∧ (∀ p, x.org = some p → let o := ((s.core u.core).quad u.quad).origin p
            let o' := ((t.core u.core).quad u.quad).origin p
            o'.cells = o.cells ∧ o'.holder = o.holder
              ∧ (if op.onlyReads then o'.reading = o.reading + 1 ∧ o'.pending = o.pending else o'.pending = o.pending + 1 ∧ o'.reading = o.reading))

/-- The command of member `e` for broadcast `n` of a channel (R229). -/
def Sys2Proof.Claims.mate (s : State) (core ch n e : Nat) : Option EngineCmd :=
  ((s.core (((s.clusterCores core)[e / 4]?).getD core)).quad (e % 4)).broadcast? ch n

/-- The channel of an `MMAB`, its broadcast word, the handle that a sending member gives, and the number of the broadcast that it joins (R229). -/
def Sys2Proof.Claims.channel (f : FmtX) : Nat := f.xmod.toNat / 2 % 8
def Sys2Proof.Claims.bcWord (c : Ctx) (f : FmtX) : DWord := c.sval 2 f.c
def Sys2Proof.Claims.sends (c : Ctx) (f : FmtX) : Option (List Nat) := match f.b with | .h n => some (c.g.handle n.toNat).slots | _ => none
def Sys2Proof.Claims.joined (s : State) (u : Issuing) (f : FmtX) : Nat := s.joinCount u.core (channel f) (s.engineNumber u.core u.quad)

/-- Engine `e` is another member of the broadcast. -/
def Sys2Proof.Claims.Fellow (s : State) (u : Issuing) (c : Ctx) (f : FmtX) (e : Nat) : Prop :=
  e < 48 ∧ bcMember (bcWord c f) e = true ∧ e ≠ s.engineNumber u.core u.quad

/-- Every other member has joined the broadcast. -/
def Sys2Proof.Claims.JoinsLast (s : State) (u : Issuing) (c : Ctx) (f : FmtX) : Prop :=
  ∀ e, Fellow s u c f e → joined s u f < s.joinCount u.core (channel f) e

/-- Every other member's command agrees with this one (R230). -/
def Sys2Proof.Claims.Agreed (s : State) (u : Issuing) (c : Ctx) (f : FmtX) : Prop :=
  ∀ e, Fellow s u c f e → ∃ y, mate s u.core (channel f) (joined s u f) e = some y ∧ y.op.agree = (bcWord c f, f.fmtb.toNat, f.scs.getLsbD 1)

/-- The group may use the broadcast word, and its own engine has not joined that broadcast yet. -/
structure Sys2Proof.Claims.MayJoin (s : State) (u : Issuing) (c : Ctx) (f : FmtX) : Prop where
  legal : s.bcIllegal u.core u.quad (bcWord c f) (sends c f).isSome = false
  quadrant : u.quad < 4
  placed : (s.clusterCores u.core)[s.engineNumber u.core u.quad / 4]? = some u.core
  absent : mate s u.core (channel f) (joined s u f) (s.engineNumber u.core u.quad) = none

/-- R229: `MMAB` joins the next broadcast of its channel: its command stands last in its engine. -/
def Sys2Proof.Claims.BroadcastJoins : Prop :=
  ∀ (s : State) (f : FmtX) (u : Issuing) (c : Ctx) (r : Row) (g : Group), Issues s (.mmab f) u c r g → MayJoin s u c f →
    (JoinsLast s u c f → Agreed s u c f) →
      ∃ t g' x op, exec (.mmab f) s = .next t ∧ Commanded s t u c g g' op true (some f.org.toNat) x
        ∧ op = .mmab (f.xmod.getLsbD 0) (f.scs.getLsbD 0) (f.scs.getLsbD 1) f.fmta.toNat f.fmtb.toNat (c.slots f.a) (sends c f) (bcWord c f) (channel f) (joined s u f)
        ∧ ∃ y, ((t.core u.core).quad u.quad).engine.getLast? = some y ∧ y.op = x.op ∧ y.csn = x.csn
        ∧ ((t.core u.core).quad u.quad).engine.length = ((s.core u.core).quad u.quad).engine.length + 1

/-- R229 and R230: a broadcast word that the group of an `MMAB` may not use is an illegal instruction. When the last member has joined and the members do not agree,
each takes a broadcast mismatch. -/
def Sys2Proof.Claims.BroadcastFaults : Prop :=
  ∀ (s : State) (f : FmtX) (u : Issuing) (c : Ctx) (r : Row) (g : Group), Issues s (.mmab f) u c r g →
    (s.bcIllegal u.core u.quad (bcWord c f) (sends c f).isSome = true → exec (.mmab f) s = .next (s.raise u (.fatal 0x23 0 (BitVec.ofNat 64 c.pc))))
    ∧ (MayJoin s u c f → JoinsLast s u c f → ¬Agreed s u c f → (s.core u.core).team.isSome = true → (s.core u.core).halt = none →
        ∃ t h, exec (.mmab f) s = .next t ∧ BytesKept s t ∧ h ∈ (t.core u.core).faults ∧ h.cause = 0x2D ∧ h.pc = c.pc)

/-- R29, R160, R161, R222 to R233, R251 and R336: the commands of a matrix engine, a broadcast among them. -/
def Obligations.EngineCommands : Prop := QueuedCommands ∧ BroadcastJoins ∧ BroadcastFaults


/-- R223 and R251: the events of an engine. In the last cycle in which its head command reads, what it will write is fixed from the operands as they stand;
at its completion the cells of its origin and its tile words hold that, and the command leaves the engine. -/
def Sys2Proof.Claims.EngineTimes : Prop :=
  ∀ (s : State) (core q : Nat) (x : EngineCmd) (xs : List EngineCmd) (b : Nat), ((s.core core).quad q).engine = x :: xs → x.begun = some b →
    (x.read = false → b + x.d - 1 = s.now core → x.bad = false → x.sparseBad (s.core core) = false → x.dataBad (s.core core) (match x.org with | some p => ((s.core core).quad q).origin p | none => .blank) = false → x.src = none →
      ∃ t, exec (.engineReadMarkClear core q) s = .next t ∧ BytesKept s t ∧ (∀ m n, t.group? m n = s.group? m n)
        ∧ (let o := match x.org with | some p => ((s.core core).quad q).origin p | none => .blank
           let y := x.op.result (s.core core) o []
           ((t.core core).quad q).engine = { x with read := true, cells := y.1, tiles := y.2 } :: xs))
    ∧ (x.read = false → b + x.d - 1 ≠ s.now core → exec (.engineReadMarkClear core q) s = .next s)
    ∧ (x.read = true → b + x.d + 3 ≤ s.now core →
      ∃ t, exec (.engineCommandCompletion core q) s = .next t ∧ BytesKept s t ∧ (∀ m n, t.group? m n = s.group? m n)
        ∧ ((t.core core).quad q).engine = xs
        ∧ ∀ p, x.org = some p → x.op.onlyReads = false → ∀ row col, cell t core q p row col = sget 0 x.cells (128 * row + col))
    ∧ (¬(x.read = true ∧ b + x.d + 3 ≤ s.now core) → exec (.engineCommandCompletion core q) s = .next s)

/-- R111 and R226: `MMAI` computes in each cell the old cell, or zero with ZC, plus the products of a line of A and a line of B, exactly, and narrows
once: modulo 2^32, or to the nearest INT32 with `.sat`. -/
def Sys2Proof.Claims.IntegerProduct : Prop :=
  ∀ (o : Origin) (zc sat : Bool) (ta tb : Tile) (row col : Nat), row < 128 → col < 128 →
    let a := (ta.line 0 ta.length row).map FVal.int
    let b := (tb.line 0 tb.length col).map FVal.int
    let old : Int := if zc then 0 else (o.cell row col).toInt
    let x := old + ((a.zip b).map (fun p => p.1 * p.2)).sum
    (sget 0 (mmaiCells o zc sat ta tb) (128 * row + col)).toInt =
      if sat then max (-2 ^ 31) (min (2 ^ 31 - 1) x) else (x + 2 ^ 31) % 2 ^ 32 - 2 ^ 31

/-- R111, R223, R226 and R251: the events of a matrix engine, and the integer product. -/
def Obligations.EngineEvents : Prop := EngineTimes ∧ IntegerProduct


/-- R234: `ACRD` reads a cell in each lane, and `ACWR` writes one from each lane, the highest lane that names a cell winning. An `ACRD` of an
accumulator with an uncorrectable error is a data error (R335). -/
def Obligations.SingleCells : Prop :=
  ∀ (s : State) (f : FmtX) (u : Issuing) (c : Ctx) (r : Row) (g : Group) (p : Nat), c.g.origins[f.org.toNat]? = some p →
    let w64 := f.xmod.getLsbD 0
    let at_ (l : Nat) : Nat × Nat := cellOf w64 (c.read32 f.a l)
    let width : Nat := if w64 then 2 else 1
    (Issues s (.acrd f) u c r g → (((s.core u.core).quad u.quad).origin p).bad = false → ∃ t g' v, exec (.acrd f) s = .next t ∧ RegisterResult s t u c r g (c.aluLanes r) v g'
      ∧ ∀ l ∈ c.aluLanes r, v l = (if w64 then cell s u.core u.quad p (at_ l).1 ((at_ l).2 + 1) else 0) ++ cell s u.core u.quad p (at_ l).1 (at_ l).2)
    ∧ (Issues s (.acrd f) u c r g → (((s.core u.core).quad u.quad).origin p).bad = true → exec (.acrd f) s = .next (s.raise u (.fatal 0x27 0 0)))
    ∧ (Issues s (.acwr f) u c r g → ∃ t g', exec (.acwr f) s = .next t ∧ SeatStep s t u g g' ∧ AllRegsKept g g' ∧ g'.threads = g.threads ∧ g'.pc = nextPc c.pc
      ∧ (∀ row col, col < 128 → (∀ l ∈ c.effLanes f.hdr.guard, ¬((at_ l).1 = row ∧ (at_ l).2 ≤ col ∧ col < (at_ l).2 + width)) →
          cell t u.core u.quad p row col = cell s u.core u.quad p row col)
      ∧ (∀ pre l post, c.effLanes f.hdr.guard = pre ++ l :: post → (∀ m ∈ post, at_ m ≠ at_ l) →
          cell t u.core u.quad p (at_ l).1 (at_ l).2 = (c.read width f.b l).extractLsb' 0 32
            ∧ (w64 = true → cell t u.core u.quad p (at_ l).1 ((at_ l).2 + 1) = (c.read 2 f.b l).extractLsb' 32 32)))

namespace Sys2Proof.Claims

/-! ### Solve regions (R235 to R241, R296 to R301) -/

/-- Field `k` of 4 bits of a handle word (R236). -/
def nibble (w : Word) (k : Nat) : Nat := w.toNat / 16 ^ k % 16

/-- The region that a solve instruction names, and nc and m of a `SOLB`. -/
def sidOf (f : FmtX) : Nat := f.xmod.toNat % 4
def ncOf (f : FmtX) : Nat := f.xmod.toNat / 4 % 4 + 1
def mOf (f : FmtX) : Nat := f.xmod.toNat / 32 % 8 + 1

/-- The handles of x and g that a `SOLB` carries. -/
def xhOf (c : Ctx) (f : FmtX) : List Nat := (List.range (ncOf f)).map (fun k => nibble (c.sval32 f.a) k)
def ghOf (c : Ctx) (f : FmtX) : List Nat := (List.range (ncOf f)).map (fun k => nibble (c.sval32 f.a) (4 + k))

/-- The handle word of a `SOLB` is legal, and its handles are live with equal slot counts (R236). -/
structure CarriesFine (c : Ctx) (f : FmtX) : Prop where
  zero : ∀ k, ncOf f ≤ k → k < 4 → nibble (c.sval32 f.a) k = 0 ∧ nibble (c.sval32 f.a) (4 + k) = 0
  once : (xhOf c f ++ ghOf c f).Nodup
  live : ∀ k, k < ncOf f → (c.g.handle (nibble (c.sval32 f.a) k)).live = true ∧ (c.g.handle (nibble (c.sval32 f.a) (4 + k))).live = true
    ∧ (c.g.handle (nibble (c.sval32 f.a) (4 + k))).slots.length = (c.g.handle (nibble (c.sval32 f.a) k)).slots.length

/-- Slots that the history of each carried tile takes (R236). -/
def historyNeed (c : Ctx) (f : FmtX) : List Nat := (xhOf c f).map (fun n => 2 * mOf f * (c.g.handle n).slots.length)

/-- A region awaits the rendezvous that this `SOLB` joins. -/
def joins (x : Region) (f : FmtX) : Prop := x.busy = true ∧ x.nc = ncOf f ∧ x.m = mOf f ∧ x.l2 = f.xmod.getLsbD 8 ∧ x.cf = f.xmod.getLsbD 9

/-- The group is participant `p` of the open region `x` (R235, R297). -/
structure Participates (s : State) (c : Ctx) (sid : Nat) (clu : Bool) (x : Region) (p : Participant) : Prop where
  outside : c.g.handling = none
  found : s.findRegion c.core sid = some (clu, x)
  isOpen : x.isOpen = true
  mine : x.parts.find? (fun q => q.core == c.core && q.lgid == s.lgid c.core c.seat) = some p

/-- Every handle that a participant took is live with the slot count that it had (R236, R237). -/
def StillCarries (c : Ctx) (p : Participant) : Prop :=
  ∀ h ∈ p.xh.zip p.counts ++ p.gh.zip p.counts, (c.g.handle h.1).live = true ∧ (c.g.handle h.1).slots.length = h.2

/-- The step of a region ends in this cycle (R300): its last cycle has come, and unless it hits its ceiling no command reads a carried tile of x any longer. -/
def StepOver (s : State) (core : Nat) (x : Region) : Prop :=
  ∃ y, x.step = some y ∧ y.r + y.t - 1 ≤ s.now core
    ∧ (y.st = 3 ∨ ∀ q ∈ s.carried x.parts, ∀ k ∈ q.2.2.1, ((s.core q.1.core).slot k).reading = 0)

/-- What a reader of a core sees of a region (R300, R304): it, last, best and entries. The first core of its scope sees a step from its last cycle on; another core sees an
outcome 8 cycles later. -/
def Sees (s : State) (core : Nat) (x : Region) (now : Nat) (first : Bool) (it : Nat) (last best : DWord) (n : Nat) : Prop :=
  (first = true → (StepOver s core x → ∀ y, x.step = some y → it = y.it ∧ last = y.last ∧ best = y.best ∧ n = if y.st = 1 then y.hist.length else 0)
    ∧ (¬StepOver s core x → it = x.it ∧ last = x.last ∧ best = x.best ∧ n = x.hist.length))
  ∧ (first = false → (∀ until_ st it' last' best' n', x.prev = some (until_, st, it', last', best', n') → now ≤ until_ →
        it = it' ∧ last = last' ∧ best = best' ∧ n = n')
    ∧ ((∀ y, x.prev = some y → y.1 < now) → it = x.it ∧ last = x.last ∧ best = x.best ∧ n = x.hist.length))

/-- Instruction `i` has passed the checks of R130 for the issuer `u`; those of a solve instruction against its region are still to come. -/
structure Checked (s : State) (i : Instr) (u : Issuing) (c : Ctx) (r : Row) : Prop where
  cur : s.sched.cur = some u
  ctx : s.ctx? u = some c
  wf : i.wf = true
  row : row? i = some r
  passes : precheck i c = none

/-- A step that issues for a seat, in which the group waits at the end; the token may pass from it. -/
structure Arrives (s t : State) (u : Issuing) (c : Ctx) (g g' : Group) (kind sid : Nat) (clu : Bool) : Prop where
  step : PassStep s t u g g'
  regs : AllRegsKept g g'
  threads : g'.threads = g.threads
  pc : g'.pc = nextPc c.pc
  wait : g'.wait = some (.solve kind sid clu)

end Sys2Proof.Claims

/-! ## Solve regions -/

/-- A `SOLB` may open or join: its scope does not hold the region, and one that is awaited has the parameters of the `SOLB` (R235, R236). -/
structure Sys2Proof.Claims.MayBegin (s : State) (u : Issuing) (f : FmtX) : Prop where
  free : s.solbHeld u.core (sidOf f) (f.xmod.getLsbD 4) = false
  alike : ∀ x, s.regionAt u.core (sidOf f) (f.xmod.getLsbD 4) = some x → x.busy = true → joins x f

/-- R235, R236 and R296: `SOLB` arrives at its rendezvous as a participant that has taken its history slots; it starts the wait for the region or joins it. -/
def Sys2Proof.Claims.SolbArrives : Prop :=
  ∀ (s : State) (f : FmtX) (u : Issuing) (c : Ctx) (r : Row) (g : Group), Issues s (.solb f) u c r g → g.fpe = [] → c.g.handling = none → CarriesFine c f →
    MayBegin s u f → (historyNeed c f).sum ≤ (s.core u.core).openSlots → BarrierStands s u.core (f.xmod.getLsbD 4) →
      ∃ t g' p x, exec (.solb f) s = .next t ∧ Arrives s t u c g g' 0 (sidOf f) (f.xmod.getLsbD 4)
        ∧ t.regionAt u.core (sidOf f) (f.xmod.getLsbD 4) = some x ∧ joins x f ∧ x.clu = f.xmod.getLsbD 4
        ∧ x.parts = (match s.regionAt u.core (sidOf f) (f.xmod.getLsbD 4) with | some y => if y.busy then y.parts else [] | none => []) ++ [p]
        ∧ p.core = u.core ∧ p.seat = u.seat ∧ p.xh = xhOf c f ∧ p.gh = ghOf c f ∧ p.history.map List.length = historyNeed c f ∧ p.history.flatten.Nodup
        ∧ (∀ k ∈ p.history.flatten, ((s.core u.core).slot k).use = .free ∧ ∃ lg, ((t.core u.core).slot k).use = .solve lg (sidOf f))
        ∧ (∀ k, k ∉ p.history.flatten → (t.core u.core).slot k = (s.core u.core).slot k)
        ∧ ((∀ y, s.regionAt u.core (sidOf f) (f.xmod.getLsbD 4) = some y → y.busy = false) → x.start = nextPc c.pc)

/-- R235 and R236: a `SOLB` of a region that its scope holds, or that is awaited with other parameters, is the fatal fault SOLVE-STATE, and too few free slots are
SOLVE-SPACE. -/
def Sys2Proof.Claims.SolbFaults : Prop :=
  ∀ (s : State) (f : FmtX) (u : Issuing) (c : Ctx) (r : Row) (g : Group), Issues s (.solb f) u c r g → g.fpe = [] → c.g.handling = none → CarriesFine c f →
    (¬MayBegin s u f → exec (.solb f) s = .next (s.raise u (.fatal 0x2E 0 0)))
    ∧ (MayBegin s u f → (s.core u.core).openSlots < (historyNeed c f).sum → exec (.solb f) s = .next (s.raise u (.fatal 0x2F 0 0)))

/-- R235, R237, R240 and R297: `SOLE` and `SOLX` arrive at the rendezvous of their open region for the participant that their group is. -/
def Sys2Proof.Claims.SolveArrivals : Prop :=
  ∀ (s : State) (i : Instr) (f : FmtX) (kind : Nat) (u : Issuing) (c : Ctx) (r : Row) (g : Group) (clu : Bool) (x : Region) (p : Participant),
    Issues s i u c r g → g.fpe = [] → (i = .sole f ∧ kind = 1 ∨ i = .solx f ∧ kind = 2) →
    Participates s c (sidOf f) clu x p → StillCarries c p → (∀ q ∈ x.parts, q.arrived.isSome = true → x.kind = kind) →
      ∃ t g' x', exec i s = .next t ∧ Arrives s t u c g g' kind (sidOf f) clu ∧ t.regionAt u.core (sidOf f) clu = some x' ∧ x'.kind = kind
        ∧ x'.isOpen = true ∧ x'.hist = x.hist ∧ x'.start = x.start ∧ x'.parts.length = x.parts.length
        ∧ ∀ (n : Nat) (q q' : Participant), x.parts[n]? = some q → x'.parts[n]? = some q' →
            if q.core = p.core ∧ q.lgid = p.lgid then q'.seat = u.seat ∧ q'.uid = c.g.uid ∧ q'.xh = q.xh ∧ q'.gh = q.gh ∧ q'.history = q.history
              ∧ q'.arrived = some (c.now + (if (s.scopeCores u.core clu).head? = some u.core then 0 else 8))
            else q' = q

/-- R297: a `SOLE` or `SOLX` of a group that is no participant of an open region takes SOLVE-STATE. -/
def Sys2Proof.Claims.SolveStrangers : Prop :=
  ∀ (s : State) (i : Instr) (f : FmtX) (u : Issuing) (c : Ctx) (r : Row) (g : Group), Issues s i u c r g → g.fpe = [] → (i = .sole f ∨ i = .solx f) →
    (∀ clu x p, ¬Participates s c (sidOf f) clu x p) → exec i s = .next (s.raise u (.fatal 0x2E 0 0))

/-- R130, R222, R237, R241 and R297: what a solve instruction finds against its open region before it is decided whether it is ready. A `SOLE` or `SOLX` that
takes effect with a carried handle that is dead or resized, and a `SOLH` whose destination has another slot count than the tile that it reads, trap HANDLE-DEAD; a
`SOLH` of a tile that the region does not carry is an illegal instruction. -/
def Sys2Proof.Claims.SolveChecks : Prop :=
  ∀ (s : State) (i : Instr) (f : FmtX) (u : Issuing) (c : Ctx) (r : Row) (clu : Bool) (x : Region) (p : Participant), Checked s i u c r →
    Participates s c (sidOf f) clu x p →
    (i = .sole f ∨ i = .solx f → (f.hdr.guard = none ∨ c.effLanes f.hdr.guard ≠ []) → ¬StillCarries c p →
      ∃ n mark, exec i s = .next (s.raise u (handleDead c.g n mark c.first)) ∧ ((mark = 0 ∧ (c.g.handle n).live = false) ∨ mark = 0xF0))
    ∧ (i = .solh f → x.nc ≤ f.xmod.toNat / 4 % 4 → exec i s = .next (s.raise u (.fatal 0x23 0 (BitVec.ofNat 64 c.pc))))
    ∧ (i = .solh f → f.xmod.toNat / 4 % 4 < x.nc → (p.counts[f.xmod.toNat / 4 % 4]?).getD 0 ≠ (c.g.handle (hnum f.dst)).slots.length →
      exec i s = .next (s.raise u (handleDead c.g (hnum f.dst) 0xF0 c.first)))

/-- R235 to R238, R296 and R297: `SOLB`, and the arrivals at an open region. -/
def Obligations.SolveBegins : Prop := SolbArrives ∧ SolbFaults ∧ SolveArrivals ∧ SolveStrangers ∧ SolveChecks


/-- R239 and R304: `SOLQ` returns it, last, best or the number of entries of a region, and zero for one never opened. -/
def Sys2Proof.Claims.SolveQueries : Prop :=
  ∀ (s : State) (f : FmtX) (u : Issuing) (c : Ctx) (r : Row) (g : Group), Issues s (.solq f) u c r g → c.g.handling = none →
    ∃ t g' it last best n, exec (.solq f) s = .next t ∧ SeatStep s t u g g' ∧ g'.threads = g.threads ∧ g'.pc = nextPc c.pc
      ∧ (∀ clu x, s.findRegion u.core (sidOf f) = some (clu, x) → Sees s u.core x c.now ((s.scopeCores u.core clu).head? == some u.core) it last best n)
      ∧ (s.findRegion u.core (sidOf f) = none → it = 0 ∧ last = 0 ∧ best = 0 ∧ n = 0)
      ∧ (match f.xmod.toNat / 4 % 4 with
        | 0 => Writes f.dst 1 c g g' (BitVec.ofNat 64 (it % 2 ^ 32))
        | 1 => Writes f.dst 2 c g g' last
        | 2 => Writes f.dst 2 c g g' best
        | _ => Writes f.dst 1 c g g' (BitVec.ofNat 64 (n % 2 ^ 32)))

/-- The history tile that a `SOLH` reads, the newest entry being E = 0: none beyond the last entry (R241). -/
def Sys2Proof.Claims.historyTile (x : Region) (p : Participant) (f : FmtX) : Option (List Nat) :=
  (x.hist.reverse[f.xmod.toNat / 16 % 8]?).map (fun i => p.tile x.m (f.xmod.toNat / 4 % 4) i (f.xmod.getLsbD 7))

/-- R241: `SOLH` copies a history tile of its participant, and zeros beyond the last entry. -/
def Sys2Proof.Claims.HistoryReads : Prop :=
  ∀ (s : State) (f : FmtX) (u : Issuing) (c : Ctx) (r : Row) (g : Group) (clu : Bool) (x : Region) (p : Participant), Issues s (.solh f) u c r g →
    Participates s c (sidOf f) clu x p → (∀ src k, historyTile x p f = some src → k ∈ src → ((s.core u.core).slot k).error = false) →
      ∃ t g', exec (.solh f) s = .next t ∧ SeatStep s t u g g' ∧ AllRegsKept g g' ∧ g'.threads = g.threads ∧ g'.pc = nextPc c.pc
        ∧ (let hd := (c.g.handle (hnum f.dst)).slots
          (∀ k, k ∉ hd → (t.core u.core).slot k = (s.core u.core).slot k)
          ∧ (historyTile x p f = none → ∀ k ∈ hd, ∀ j, j < 2048 → tileWord t u.core k j = 0)
          ∧ (∀ src, historyTile x p f = some src → (∀ k ∈ src, k ∉ hd) → ∀ (n k k' : Nat), hd[n]? = some k → (∀ m, n < m → hd[m]? ≠ some k) →
              src[n]? = some k' → ∀ j, j < 2048 → tileWord t u.core k j = tileWord s u.core k' j))

/-- R335: an uncorrectable error in the tile that a `SOLH` reads is a data error. -/
def Sys2Proof.Claims.HistoryErrors : Prop :=
  ∀ (s : State) (f : FmtX) (u : Issuing) (c : Ctx) (r : Row) (g : Group) (clu : Bool) (x : Region) (p : Participant), Issues s (.solh f) u c r g →
    Participates s c (sidOf f) clu x p → (∃ src k, historyTile x p f = some src ∧ k ∈ src ∧ ((s.core u.core).slot k).error = true) →
      exec (.solh f) s = .next (s.raise u (.fatal 0x27 0 0))

/-- R239, R241 and R304: reading a solve region. -/
def Obligations.SolveReads : Prop := SolveQueries ∧ HistoryReads ∧ HistoryErrors

/-- R237, R300, R301, R326 and R327: a solve step that is due ends: x and the history hold what the step computed, the region holds its outcome, and each participant of
the first core goes on: at start when the step mixed, else behind its `SOLE`, where a ceiling without `.cf` is the trap SOLVE-NC. The other cores of a cluster learn of it
8 cycles later. -/
def Sys2Proof.Claims.StepEnds : Prop :=
  ∀ (s : State) (a : SolveRef) (x : Region) (y : SolveStep), let n := (s.solvePlace a).1
    let clu := (s.solvePlace a).2
    s.regionAt n a.sid clu = some x → x.step = some y →
    (¬StepOver s n x → exec (.solveStepCompletion a) s = .next s)
    ∧ (StepOver s n x → ∃ t x', exec (.solveStepCompletion a) s = .next t ∧ BytesKept s t ∧ t.regionAt n a.sid clu = some x' ∧ x'.st = y.st ∧ x'.it = y.it
        ∧ x'.best = y.best ∧ x'.last = y.last ∧ x'.step = none
        ∧ (y.st = 1 → x'.hist = y.hist ∧ x'.isOpen = x.isOpen ∧ ∀ p ∈ x'.parts, p.arrived = none)
        ∧ (y.st ≠ 1 → x'.hist = [] ∧ x'.isOpen = false ∧ x'.parts = [])
        ∧ (∀ core k, k < 32 → (∀ w ∈ y.writes, w.1 ≠ 32 * core + k) → ∀ j, tileWord t core k j = tileWord s core k j)
        ∧ (∀ pre w post, y.writes = pre ++ w :: post → (∀ w' ∈ post, w'.1 ≠ w.1) → w.2.Pairwise (fun p q => p.1 < q.1) → ∀ j v, mget w.2 j = some v →
            tileWord t (w.1 / 32) (w.1 % 32) j = v)
        ∧ (∀ p ∈ x.parts, (s.scopeCores n clu).head? ≠ some p.core → (s.now n + 8, p, if y.st = 1 then some x.start else none) ∈ x'.outs
            ∧ (y.st = 3 → x.cf = false → (s.now n + 8, p.core, p.seat, p.uid, y.it) ∈ x'.traps))
        ∧ ∀ p ∈ x.parts, (s.scopeCores n clu).head? = some p.core → ∀ g, s.partGroup p = some g → g.handling = none → ∃ g', t.group? p.core p.seat = some g' ∧ g'.wait = none ∧ AllRegsKept g g'
            ∧ (y.st = 1 → g'.pc = x.start) ∧ (y.st ≠ 1 → (y.st ≠ 3 ∨ x.cf = true) → g'.pc = g.pc ∧ SpecialKept g g')
            ∧ (y.st = 3 → x.cf = false → (s.core p.core).halt = none → hpc g.trapv ≠ 0 → g'.pc = hpc g.trapv ∧ g'.trapa = BitVec.ofNat 64 y.it ∧ g'.trapm = g.mask
                ∧ g'.trapc = BitVec.ofNat 32 (6 + 2 ^ 8 * a.sid + 2 ^ 16 * lowestBit g.mask) ∧ ∃ h, g'.handling = some h ∧ h.resume = g.pc))

/-- A solve step lists the words of a tile for its new elements in ascending order, slot by slot. -/
def Sys2Proof.Claims.StepListed : Prop := ∀ (core : Nat) (slots vals : List Nat), ∀ w ∈ elemWrites core slots vals, w.2.Pairwise (fun p q => p.1 < q.1)

/-- R237, R300, R301, R326 and R327: the end of a solve step. -/
def Obligations.SolveStepEnd : Prop := StepEnds ∧ StepListed

namespace Sys2Proof.Claims

/-! ### Special registers (R17, R25, R29, R35, R189 to R191, R286, R287) -/

/-- Entry `i` of a turn table names owner `k` (R14). -/
def names (table : BitVec 64) (k i : Nat) : Prop := table.toNat / 16 ^ i % 16 = k

/-- Bit `i` of a word tells whether a statement holds. -/
def BitIs (d : DWord) (i : Nat) (p : Prop) : Prop := d.getLsbD i = true ↔ p

/-- Where the grid of the issuing group reads time (R26, R287). -/
def mayRead (s : State) (c : Ctx) (p : Packet → Bool) : Prop := s.det c.core = false ∧ ∃ x, s.gridOf c.core = some x ∧ p x.packet = true

/-- `RCNT` as an instruction of cycle `now` reads it (R287, R294): the instructions whose effect was complete before the cycle. -/
def retired (g : Group) (now : Nat) : Nat := g.rcnt + (g.late.filter (fun t => decide (t < now))).length

/-- The value of special register `n` for a lane. -/
def Register (s : State) (c : Ctx) (l n : Nat) (d : DWord) : Prop :=
  let det := s.det c.core
  let team := (s.core c.core).team
  let pool := ((s.owner c.owner).die (c.core / 256)).pool
  match n with
  | 0x000 => d.toNat = (if det then retired c.g c.now else c.now) % 2 ^ 64
  | 0x001 => d.toNat = retired c.g c.now % 2 ^ 64
  | 0x002 => d.toNat = c.owner % 8 + if s.priv c.core then 8 else 0
  | 0x003 => d = s.mgmt.table
  | 0x004 => (∀ i, i < 16 → BitIs d i (names s.mgmt.table c.owner i) ∧ BitIs d (16 + i) (names (s.nextTable false) c.owner i)) ∧ d.toNat < 2 ^ 32
  | 0x005 => d.toNat = (if det then retired c.g c.now else s.cycle) % 65536
  | 0x006 => (mayRead s c (fun p => p.gta) → d.toNat = s.mgmt.gtime % 2 ^ 64) ∧ (¬mayRead s c (fun p => p.gta) → d = 0xFFFFFFFFFFFFFFFF)
  | 0x007 => (mayRead s c (fun p => p.fta) → d.toNat = s.fabricTime % 2 ^ 64) ∧ (¬mayRead s c (fun p => p.fta) → d = 0xFFFFFFFFFFFFFFFF)
  | 0x010 => d.toNat = c.seat % 2 ^ 64
  | 0x011 => ∀ m g, team = some m → s.group? c.core c.seat = some g → d.toNat = (1024 * m.teamId + g.lowTid) % 2 ^ 64
  | 0x012 => d.toNat = c.g.tid l % 2 ^ 64
  | 0x013 => ∀ m, team = some m → d.toNat = m.teamId % 2 ^ 64
  | 0x014 => ∀ m, team = some m → d.toNat = m.cluId % 2 ^ 64
  | 0x015 => ∀ x, s.gridOf c.core = some x → d.toNat = x.packet.gridid.toNat
  | 0x016 => d.toNat = l % 2 ^ 64
  | 0x020 => ∀ m, team = some m → d = m.srseed
  | 0x021 => ∀ m, team = some m → d = m.solthr
  | 0x022 => ∀ m, team = some m → d.toNat = m.solmax.toNat
  | 0x023 => ∀ m, team = some m → d.toNat = m.solbeta.toNat
  | 0x024 => ∀ m, team = some m → d = m.sollam
  | 0x025 => ∀ sid, sid < 4 → (s.findRegion c.core sid = none → d.toNat / 256 ^ sid % 256 = 0)
      ∧ ∀ clu x, s.findRegion c.core sid = some (clu, x) → x.step = none → x.prev = none → d.toNat / 256 ^ sid % 256 = x.st % 8 + if x.cluster ∧ x.opened ≠ none then 8 else 0
  | 0x030 => d = c.g.trapv
  | 0x031 => d = c.g.trapc.zeroExtend 64
  | 0x032 => d = c.g.trapa
  | 0x033 => d = c.g.trapm.zeroExtend 64
  | 0x040 => d = c.g.segsp
  | 0x041 => d = c.g.segst
  | 0x042 => d = c.g.seggl
  | 0x050 => d.toNat < 2 ^ 32 ∧ d.toNat % 2 ^ 16 = c.g.pass % 2 ^ 16 ∧ d.toNat / 2 ^ 16 % 2 ^ 11 = 0 ∧ BitIs d 31 (s.holdsToken c.core c.g = true) ∧ BitIs d 30 (det = true)
      ∧ ∀ x, s.gridOf c.core = some x → d.toNat / 2 ^ 28 % 4 = x.packet.trm % 4 ∧ BitIs d 27 (det = true ∧ ∃ k, x.key = some k ∧ x.nextTeam ≤ k / 1024)
  | 0x051 => d.toNat = (if det then 0 else pool.level % 2 ^ 16) + pool.refill % 2 ^ 16 * 2 ^ 16 + pool.cap % 2 ^ 16 * 2 ^ 32
  | 0x052 => d.toNat = (s.owner c.owner).strgt.toNat
  | 0x053 => d.toNat = (s.owner c.owner).strgp.toNat
  | 0x054 => d = (s.core c.core).dumpbase
  | 0x055 => d = c.g.csn
  | _ => True

/-- What `MFS` gives of a register: whole, its low half or its high half (R189). -/
def Half (part : Nat) (x d : DWord) : Prop :=
  d.toNat = if part = 1 then x.toNat % 2 ^ 32 else if part = 2 then x.toNat / 2 ^ 32 else x.toNat

/-- No write to steering register `n` of a team stands already from a group of a higher logical id in the same cycle (R299). -/
def Prevails (m : Team) (n now lgid : Nat) : Prop := ∀ at_ lg, mget m.solBy n = some (at_, lg) → at_ = now → lg ≤ lgid

/-- The 32 or 64 bits that `MTS` and `MTSP` write (R189). -/
def source (c : Ctx) (f : FmtS) (wide : Bool) : DWord := if wide then c.sval 2 f.a else c.sval 1 f.a

/-- A segment register takes a value (R61): SZ is 0 or in its range, and the base is a multiple of the window's size. -/
def SegmentFits (low high : Nat) (d : DWord) : Prop :=
  (d.toNat % 64 = 0 ∨ (low ≤ d.toNat % 64 ∧ d.toNat % 64 ≤ high)) ∧ d.toNat / 2 ^ 15 * 2 ^ 15 % 2 ^ (d.toNat % 64) = 0

/-- A privileged register takes a value. -/
def Accepts (n : Nat) (d : DWord) : Prop :=
  match n with
  | 0x040 => SegmentFits 17 17 d
  | 0x041 => SegmentFits 10 20 d
  | 0x042 => SegmentFits 15 51 d
  | 0x054 => d.toNat % 64 = 0 ∧ d.toNat < 2 ^ 51
  | _ => True

end Sys2Proof.Claims

/-! ## System instructions -/

/-- R189 to R191 (with R17, R25, R29, R35, R286, R287 and R298): `MFS` reads every special register of the map, whole or by halves. -/
def Obligations.SpecialReads : Prop :=
  ∀ (s : State) (f : FmtS) (u : Issuing) (c : Ctx) (r : Row) (g : Group), Issues s (.mfs f) u c r g →
    ∃ t g' v, exec (.mfs f) s = .next t ∧ RegisterResult s t u c r g (c.aluLanes r) v g'
      ∧ ∀ l ∈ c.aluLanes r, ∃ x, Register s c l f.spr.toNat x ∧ Half (f.smod.toNat % 4) x (v l)

/-- R10, R61, R189, R190, R299, R319 and R331: `MTS` writes a read-write register; of the writes of one cycle to a steering register that of the highest logical id
stands. `MTSP` of a privileged group writes a privileged register and d := 0, or leaves it and d := 1 when
the value is refused; of any other group it is a permission fault. -/
def Obligations.SpecialWrites : Prop :=
  ∀ (s : State) (f : FmtS) (u : Issuing) (c : Ctx) (r : Row) (g : Group),
    (Issues s (.mts f) u c r g → let n := f.spr.toNat
      ∃ t g', exec (.mts f) s = .next t ∧ t.group? u.core u.seat = some g' ∧ BytesKept s t ∧ SeatsKept s t u.core u.seat ∧ AllRegsKept g g'
        ∧ g'.threads = g.threads ∧ g'.pc = nextPc c.pc
        ∧ SpecialKept { g with trapv := if n = 0x030 then source c f true &&& 0x1FFFFFFFFFFFFF else g.trapv } g'
        ∧ ((s.core u.core).team = none → (t.core u.core).team = none)
        ∧ ∀ m, (s.core u.core).team = some m → ∃ m', (t.core u.core).team = some m'
          ∧ let lg := s.lgid u.core u.seat
            let takes (k : Nat) : Prop := n = k ∧ Prevails m n c.now lg
            (takes 0x021 → m' = { m with solthr := source c f true, solBy := mset m.solBy n (c.now, lg) })
            ∧ (takes 0x022 → m' = { m with solmax := lo32 (source c f false), solBy := mset m.solBy n (c.now, lg) })
            ∧ (takes 0x023 → m' = { m with solbeta := lo32 (source c f false), solBy := mset m.solBy n (c.now, lg) })
            ∧ (takes 0x024 → m' = { m with sollam := source c f true, solBy := mset m.solBy n (c.now, lg) })
            ∧ (n = 0x020 → m' = { m with srseed := source c f true })
            ∧ (n ≠ 0x020 ∧ ¬takes 0x021 ∧ ¬takes 0x022 ∧ ¬takes 0x023 ∧ ¬takes 0x024 → m' = m))
    ∧ (Issues s (.mtsp f) u c r g → s.priv u.core = false → exec (.mtsp f) s = .next (s.raise u (.fatal 0x21 2 0)))
    ∧ (Issues s (.mtsp f) u c r g → s.priv u.core = true → let n := f.spr.toNat
      let d := source c f (decide (n ≠ 0x052 ∧ n ≠ 0x053))
      ∃ t g', exec (.mtsp f) s = .next t ∧ t.group? u.core u.seat = some g' ∧ BytesKept s t ∧ SeatsKept s t u.core u.seat ∧ g'.threads = g.threads
        ∧ g'.pc = nextPc c.pc
        ∧ (¬Accepts n d → SpecialKept g g' ∧ Writes f.dst 1 c g g' 1 ∧ (∀ k, t.owner k = s.owner k) ∧ (t.core u.core).dumpbase = (s.core u.core).dumpbase)
        ∧ (Accepts n d → Writes f.dst 1 c g g' 0
          ∧ SpecialKept { g with
              segsp := if n = 0x040 then d &&& 0xFFFFFFFFFFFF803F else g.segsp, segst := if n = 0x041 then d &&& 0xFFFFFFFFFFFF803F else g.segst,
              seggl := if n = 0x042 then d &&& 0xFFFFFFFFFFFF803F else g.seggl } g'
          ∧ t.owner c.owner = { s.owner c.owner with
              strgt := if n = 0x052 then lo32 d else (s.owner c.owner).strgt, strgp := if n = 0x053 then lo32 d &&& 0x1F else (s.owner c.owner).strgp }
          ∧ (t.core u.core).dumpbase = if n = 0x054 then d else (s.core u.core).dumpbase))

namespace Sys2Proof.Claims

/-- Group `g'` has the allotment of `regs` registers, `hnd` handles and `orgs` origins in place of the allotment of `g` (R40): what lies below both stays. -/
structure Allotted (s : State) (core quad : Nat) (g g' : Group) (regs hnd orgs : Nat) : Prop where
  allot : g'.allot = regs
  hperm : g'.hperm = hnd
  lanes : ∀ k l, k < regs → k < 256 → g'.vreg k l = g.vreg k l
  scalars : g'.sregs = g.sregs
  dead : ∀ j, hnd ≤ j → j < 16 → (g'.handle j).live = false
  alive : ∀ j, j < hnd → g'.handle j = g.handle j
  fewer : orgs ≤ g.origins.length → g'.origins = g.origins.take orgs
  more : g.origins.length < orgs → ∃ ns, g'.origins = g.origins ++ ns ∧ ns.length ≤ orgs - g.origins.length
    ∧ ∀ p ∈ ns, (((s.core core).quad quad).origin p).holder = none ∧ (((s.core core).quad quad).origin p).draining = false
  rest : SpecialKept { g with allot := g'.allot, hperm := g'.hperm, origins := g'.origins, handles := g'.handles } g'

end Sys2Proof.Claims

/-- R40, R42, R192, R193 and R287: `ACQ` sets the group's allotment to the three figures of its SMOD, `RELA` to the prologue allotment, `RDOC` reads the owner clock, or the
retired instructions under DET; the grant of registers gives a request that stands alone what it asks for, once the core has it. -/
def Obligations.Allotment : Prop :=
  ∀ (s : State) (f : FmtS) (u : Issuing) (c : Ctx) (r : Row) (g : Group), u.quad = u.seat / 16 →
    (Issues s (.acq f) u c r g → ∃ t g', exec (.acq f) s = .next t ∧ t.group? u.core u.seat = some g' ∧ BytesKept s t ∧ SeatsKept s t u.core u.seat
      ∧ g'.threads = g.threads ∧ g'.pc = nextPc c.pc
      ∧ Allotted s u.core u.quad g g' (8 * (f.smod.toNat % 64)) (f.smod.toNat / 64 % 32) (f.smod.toNat / 2048 % 4))
    ∧ (Issues s (.rela f) u c r g → ∃ t g', exec (.rela f) s = .next t ∧ t.group? u.core u.seat = some g' ∧ BytesKept s t ∧ SeatsKept s t u.core u.seat
      ∧ g'.threads = g.threads ∧ g'.pc = nextPc c.pc ∧ Allotted s u.core u.quad g g' 16 2 0)
    ∧ (Issues s (.rdoc f) u c r g → ∃ t g', exec (.rdoc f) s = .next t ∧ SeatStep s t u g g' ∧ g'.threads = g.threads ∧ g'.pc = nextPc c.pc
      ∧ Writes f.dst 2 c g g' (BitVec.ofNat 64 (if s.det u.core then retired c.g c.now else c.now)))
    ∧ (∀ core d, (s.core core).demands = [d] → d.granted = false → d.slots = 0 → s.group? core d.seat = none ∨ (∃ g0, s.group? core d.seat = some g0 ∧ g0.rising = false) →
      ∃ t, exec (.allotmentGrant core) s = .next t ∧ BytesKept s t ∧ (∀ m x, t.group? m x = s.group? m x)
        ∧ (t.core core).demands = [{ d with granted := decide (d.regs ≤ (s.core core).freeRegs ∧ d.orgs ≤ (s.core core).openOrigins (d.seat / 16)) }])

/-- R194, R324, R326 to R328: `TRAP` takes the trap TRAP: the resume PC is saved, `TRAPC`, `TRAPA` and `TRAPM` are written, the play ends and control passes to HPC. In a handler
it is NESTED-TRAP and without a handler UNHANDLED. `RFT` returns to the saved PC, without a TMASK check; outside a handler it is an illegal instruction. -/
def Obligations.Traps : Prop :=
  ∀ (s : State) (f : FmtS) (u : Issuing) (c : Ctx) (r : Row) (g : Group), u.snap = none → u.quad = u.seat / 16 → g.fpe = [] →
    (Issues s (.trap f) u c r g → hpc g.trapv ≠ 0 → g.handling = none →
      ∃ t g' h, exec (.trap f) s = .next t ∧ t.group? u.core u.seat = some g' ∧ BytesKept s t ∧ SeatsKept s t u.core u.seat ∧ AllRegsKept g g'
        ∧ g'.threads = g.threads ∧ g'.pc = g.trapv.toNat % 2 ^ 48 ∧ g'.tcheck = true ∧ g'.handling = some h ∧ h.resume = nextPc c.pc ∧ h.pre = false ∧ (g.wait = none → h.wait = none)
        ∧ SpecialKept { g with handling := some h, trapc := BitVec.ofNat 32 (7 + 2 ^ 16 * lowestBit g.mask), trapa := f.smod.zeroExtend 64, trapm := g.mask } g'
        ∧ (((s.core u.core).quad u.quad).holder.map Prod.fst = some u.seat →
            ((t.core u.core).quad u.quad).ended = true ∧ ((t.core u.core).quad u.quad).latches = []))
    ∧ (Issues s (.trap f) u c r g → g.handling.isSome = true → exec (.trap f) s = .next (s.groupFatal u.core u.seat 0x2A 7 (f.smod.zeroExtend 64)))
    ∧ (Issues s (.trap f) u c r g → g.handling = none → hpc g.trapv = 0 → exec (.trap f) s = .next (s.groupFatal u.core u.seat 0x31 7 (f.smod.zeroExtend 64)))
    ∧ (∀ h, Issues s (.rft f) u c r g → g.handling = some h →
      ∃ t g', exec (.rft f) s = .next t ∧ t.group? u.core u.seat = some g' ∧ BytesKept s t ∧ SeatsKept s t u.core u.seat ∧ AllRegsKept g g'
        ∧ g'.threads = g.threads ∧ g'.pc = h.resume ∧ g'.tcheck = false ∧ g'.wait = h.wait ∧ SpecialKept { g with handling := none } g'
        ∧ ((t.core u.core).quad u.quad).ended = true ∧ ((t.core u.core).quad u.quad).latches = [])
    ∧ (Issues s (.rft f) u c r g → g.handling = none → exec (.rft f) s = .next (s.raise u (.fatal 0x23 0 (BitVec.ofNat 64 c.pc))))

namespace Sys2Proof.Claims

/-- The records that wait for a place in a ring of an owner (R348). -/
def ringWaits (s : State) (owner n : Nat) : List (List Byte) := ((s.owner owner).ring n).waiting

/-- A number in a record. -/
def field (bs : List Byte) (off n : Nat) : Nat := leNat ((bs.drop off).take n)

end Sys2Proof.Claims

/-- R194, R326, R330, R338 and R339: `HALT` is the fatal fault HALT, with its code as address, noted for its core; `SNAP` calls for a latch of the owner's snapshot registers in
32 cycles, or joins the one that is due; `DBG` is a `NOP` without the grid's debug flag, and with it stops the group and leaves its record for the debug ring. -/
def Obligations.Halts : Prop :=
  ∀ (s : State) (f : FmtS) (u : Issuing) (c : Ctx) (r : Row) (g : Group), u.snap = none → g.fpe = [] →
    (Issues s (.halt f) u c r g → ∃ t g', exec (.halt f) s = .next t ∧ t.group? u.core u.seat = some g' ∧ BytesKept s t ∧ SeatsKept s t u.core u.seat
      ∧ AllRegsKept g g' ∧ SpecialKept { g with faultWord := if (s.core u.core).halt.isSome then g.faultWord else 0x2B } g' ∧ g'.pc = g.pc
      ∧ ((s.core u.core).halt = none → ∃ h, (t.core u.core).faults = (s.core u.core).faults ++ [h] ∧ h.cause = 0x2B ∧ h.sub = 0 ∧ h.pc = g.pc
          ∧ h.addr = f.smod.zeroExtend 64 ∧ h.csn = g.csn ∧ h.cycle = c.now))
    ∧ (Issues s (.snap f) u c r g → ∃ t g', exec (.snap f) s = .next t ∧ SeatStep s t u g g' ∧ AllRegsKept g g' ∧ g'.threads = g.threads ∧ g'.pc = nextPc c.pc
      ∧ ((∀ x ∈ (s.owner c.owner).snap, x.1 ≤ c.now) →
          (t.owner c.owner).snap = (s.owner c.owner).snap ++ [(c.now + 32, f.smod.toNat % 256, s.lgid u.core u.seat)])
      ∧ (∀ x ∈ (s.owner c.owner).snap, c.now < x.1 → x.1 ≠ c.now + 32 → (s.owner c.owner).snap.find? (fun y => decide (c.now < y.1)) = some x →
          (t.owner c.owner).snap = (s.owner c.owner).snap))
    ∧ (Issues s (.dbg f) u c r g → (∀ x, s.gridOf u.core = some x → x.packet.dbg = false) →
      ∃ t g', exec (.dbg f) s = .next t ∧ t.group? u.core u.seat = some g' ∧ g'.pc = nextPc c.pc ∧ AllRegsKept g g' ∧ GroupKept g g' ∧ ElseKept s t u.core u.seat u.quad)
    ∧ (∀ x, Issues s (.dbg f) u c r g → s.gridOf u.core = some x → x.packet.dbg = true →
      ∃ t g' b, exec (.dbg f) s = .next t ∧ SeatStep s t u g g' ∧ AllRegsKept g g' ∧ g'.threads = g.threads ∧ g'.pc = nextPc c.pc ∧ g'.wait = some .debug
        ∧ (ringWaits t c.owner 4).Perm (b :: ringWaits s c.owner 4) ∧ b.length = 64 ∧ field b 0 4 = x.packet.gridid.toNat ∧ field b 8 8 = c.pc % 2 ^ 64
        ∧ field b 16 8 = c.g.csn.toNat ∧ field b 24 4 = s.lgid u.core u.seat % 2 ^ 32 ∧ field b 28 2 = u.core % 2 ^ 16 ∧ field b 30 1 = u.seat % 2 ^ 8
        ∧ field b 32 2 = f.smod.toNat ∧ field b 40 8 = c.now % 2 ^ 64)

namespace Sys2Proof.Claims

/-- The code of the first cause that holds, or 0. -/
def FirstCause : List (Nat × Prop) → Nat → Prop
  | [], d => d = 0
  | (k, p) :: ps, d => (p ∧ d = k) ∨ (¬p ∧ FirstCause ps d)

/-- A mask takes in entry `i`. -/
def masks (w : Word) (i : Nat) : Prop := i < 16 ∧ w.getLsbD i = true

/-- The causes of R22 that apply to `TRADE` and `TRADEA`, in their order. -/
def tradeCauses (s : State) (c : Ctx) (accept : Bool) (a b : Word) : List (Nat × Prop) :=
  let next := s.nextTable true
  [(1, s.priv c.core = false), (7, 65472 ≤ s.cycle % 65536), (2, 8 ≤ a.toNat ∨ a.toNat = c.owner ∨ (s.owner a.toNat).admitted = false),
   (3, (∀ i, ¬masks b i) ∨ 2 ^ 16 ≤ b.toNat ∨ (accept = false ∧ ∃ i, masks b i ∧ ¬names next c.owner i)),
   (4, accept = false ∧ ∃ x ∈ s.mgmt.offers, ∃ i, masks b i ∧ x.mask.getLsbD i = true),
   (5, accept = false ∧ ∀ i, i < 16 → names next c.owner i → masks b i),
   (6, accept = true ∧ ∀ x ∈ s.mgmt.offers, ¬(x.from_ = a.toNat ∧ x.dest = c.owner ∧ x.mask.toNat = b.toNat % 2 ^ 16))]

end Sys2Proof.Claims

/-- R22, R23 and R195: `TRADE` and `TRADEA` return the status of R22, and only with status 0 record an offer, or take an offer whole into the trades of the next
session. No owner's state changes, no byte, and no other group. (That LAST counts only the entries of the offer being made is read from the spec by inference (DEDUCED), and that an
accepted offer leaves the offers, so that its entries are no longer BUSY, is the model's choice (DESIGN CHOICE): notes/assumptions/30.md.) -/
def Obligations.Trades : Prop :=
  ∀ (s : State) (i : Instr) (f : FmtS) (accept : Bool) (u : Issuing) (c : Ctx) (r : Row) (g : Group), Issues s i u c r g →
    (i = .trade f ∧ accept = false ∨ i = .tradea f ∧ accept = true) →
    let a := c.sval32 f.a
    let b := c.sval32 f.b
    ∃ t g' st x, exec i s = .next t ∧ SeatStep s t u g g' ∧ g'.threads = g.threads ∧ g'.pc = nextPc c.pc ∧ Writes f.dst 1 c g g' (BitVec.ofNat 64 st)
      ∧ FirstCause (tradeCauses s c accept a b) st
      ∧ (∀ k, t.owner k = s.owner k) ∧ (st ≠ 0 → t.mgmt = s.mgmt)
      ∧ x.mask.toNat = b.toNat % 2 ^ 16 ∧ x.at_ = s.cycle ∧ x.from_ = (if accept then a.toNat else c.owner) ∧ x.dest = (if accept then c.owner else a.toNat)
      ∧ (st = 0 → accept = false → t.mgmt = { s.mgmt with offers := s.mgmt.offers ++ [x] })
      ∧ (st = 0 → accept = true → t.mgmt = { s.mgmt with accepted := s.mgmt.accepted ++ [x], offers := s.mgmt.offers.filter (fun y =>
          !(y.from_ == x.from_ && y.dest == x.dest && y.mask == x.mask)) })

/-- R36, R37, R187, R188 and R349: `LAUNCH` starts the read of its packet, whose append answers 2 for a malformed packet, 1 for a full queue, and else 0 with the packet last
in the queue of its priority and in the memory of its ring; `SIGNAL` adds to its event, and `EVWAIT` issues only past its threshold and acquires at device scope. -/
def Obligations.Launches : Prop :=
  ∀ (s : State) (f : FmtS) (u : Issuing) (c : Ctx) (r : Row) (g : Group),
    (Issues s (.launch f) u c r g → Fits s c [(c.lane0, c.sval 2 f.a)] 128 false → Permitted s c [(c.lane0, c.sval 2 f.a)] false →
      ∃ t g' id o x, exec (.launch f) s = .next t ∧ SeatStep s t u g g' ∧ AllRegsKept g g' ∧ g'.threads = g.threads ∧ g'.pc = nextPc c.pc
        ∧ mget (t.core u.core).ops id = some o ∧ o.kind = .packet ∧ o.acc ++ o.scr = [x] ∧ x.ga = c.sval 2 f.a ∧ x.bytes = 128 ∧ o.dst = regId? f.dst
        ∧ ∀ q ∈ regsFrom f.dst 1, g'.pending c.now q = true)
    ∧ (Issues s (.launch f) u c r g → (c.sval 2 f.a).toNat % 128 ≠ 0 → exec (.launch f) s = .next (s.raise u (.fatal 0x20 0 (c.sval 2 f.a))))
    ∧ (∀ owner bs priv, (packetOk bs priv = false → s.append owner bs priv = (2, s)) ∧ (packetOk bs priv = true →
        let o := s.owner owner
        let q := (mget o.queues (Packet.of bs).prio).getD { packets := [], written := 0, taken := 0 }
        let t := (s.append owner bs priv).2
        (2 ^ o.record.lq ≤ q.packets.length → s.append owner bs priv = (1, s))
        ∧ (q.packets.length < 2 ^ o.record.lq → (s.append owner bs priv).1 = 0
          ∧ mget (t.owner owner).queues (Packet.of bs).prio = some { packets := q.packets ++ [Packet.of bs], written := q.written + 1, taken := q.taken }
          ∧ (∀ k, k ≠ (Packet.of bs).prio → mget (t.owner owner).queues k = mget o.queues k)
          ∧ ∀ base, o.record.queues[(Packet.of bs).prio]? = some base → t.mem.readN (base + 128 * (q.written % 2 ^ o.record.lq)) bs.length = bs)))
    ∧ (Issues s (.signal f) u c r g → ∃ t g', exec (.signal f) s = .next t ∧ SeatStep s t u g g' ∧ AllRegsKept g g' ∧ g'.threads = g.threads ∧ g'.pc = nextPc c.pc
      ∧ ∀ n, sget 0 (t.owner c.owner).events n = sget 0 (s.owner c.owner).events n + if n = f.smod.toNat % 64 then c.sval32 f.a else 0)
    ∧ (Issues s (.evwait f) u c r g → (sget 0 (s.owner c.owner).events (f.smod.toNat % 64) - c.sval32 f.a).toNat < 2 ^ 31
      ∧ ∃ t g', exec (.evwait f) s = .next t ∧ SeatStep s t u g g' ∧ AllRegsKept g g' ∧ g'.threads = g.threads ∧ g'.pc = nextPc c.pc ∧ DataGone t u.core)

namespace Sys2Proof.Claims

/-- The groups of every seat stand in `t` as in `s`. -/
def GroupsKept (s t : State) : Prop := ∀ m x, t.group? m x = s.group? m x

/-- The place of unit `u` of a linear copy in the scratchpad. -/
def scratchUnit (x : Copy) (u o : Nat) : Prop := ∃ a nib, x.dstLoc u = .gen a nib ∧ x.place a = some (.scratch o)

/-- No unit of a piece reads a byte that an earlier unit of it writes. -/
def NoAlias (x : Copy) (pos n : Nat) : Prop :=
  ∀ j k b nib o, j < k → k < n → x.srcLoc (pos + k) = .gen b nib → x.place b = some (.scratch o) → ¬scratchUnit x (pos + j) o

end Sys2Proof.Claims

/-! ## Events -/

/-- R65, R67, R206 and R252: the events of copies and of slot requests. A due piece of a linear copy into the scratchpad without a conflict or an uncorrectable error, the only one that has come, stands there, in bytes of its
source, and counts in the copy's prefix; a due copy is complete, and leaves its queue with its bytes noted for `CPQ`; free slots go to a request of `HALLOC` that
stands alone, once there are enough beside those that its own handle frees. -/
def Obligations.CopyEvents : Prop :=
  ∀ (s : State) (core q : Nat),
    (∀ d x, (s.core core).copyWriteDue q (s.now core) = some d → (s.core core).headCopy q = some x → x.data = [d] → d.bad = none → d.fail = none → x.box = [] → x.halves = 2 →
      x.carry = none → d.pos < x.count → (∃ a, x.dst = .addr a) → (∃ o, scratchUnit x d.pos o) → NoAlias x d.pos (x.piece d.pos) →
      (∀ k, k < x.piece d.pos → s.unitError core x (d.pos + k) = none) → (s.raceWrite core x d.pos (x.piece d.pos)).2.2 = none →
      (s.raceWrite core x d.pos (x.piece d.pos)).2.1 = x.piece d.pos →
      ∃ t y, exec (.copyLineWrite core q) s = .next t ∧ GroupsKept s t ∧ (∀ a, t.mem.read a = s.mem.read a) ∧ (∀ a, t.host.read a = s.host.read a)
        ∧ (t.core core).headCopy q = some y ∧ y.done = d.pos + x.piece d.pos ∧ y.writePos = d.pos + x.piece d.pos
        ∧ (∀ k o, k < x.piece d.pos → scratchUnit x (d.pos + k) o → (t.core core).sp.read o = (s.loadUnit core x d (x.srcLoc (d.pos + k))).headD 0)
        ∧ ∀ o, (∀ k, k < x.piece d.pos → ¬scratchUnit x (d.pos + k) o) → (t.core core).sp.read o = (s.core core).sp.read o)
    ∧ ((s.core core).copyWriteDue q (s.now core) = none → exec (.copyLineWrite core q) s = .next s)
    ∧ (∀ x xs, (s.core core).copyDue q (s.now core) = true → ((s.core core).quad q).copies = x :: xs →
      ∃ t, exec (.copyCompletion core q) s = .next t ∧ GroupsKept s t ∧ BytesKept s t ∧ ((t.core core).quad q).copies = xs
        ∧ ((t.core core).quad q).completed = ((s.core core).quad q).completed + 1
        ∧ ∃ e, ((t.core core).quad q).done.getLast? = some e ∧ e.seq = x.ticket.toNat % 2 ^ 30 ∧ e.bytes = x.bytesOf x.done)
    ∧ ((s.core core).copyDue q (s.now core) = false → exec (.copyCompletion core q) s = .next s)
    ∧ (∀ d, (s.core core).demands = [d] → d.granted = false → 0 < d.slots → ∃ t, exec (.hallocGrant core) s = .next t ∧ GroupsKept s t ∧ BytesKept s t
        ∧ (t.core core).demands = [{ d with granted := decide ((s.core core).lacks d ≤ (s.core core).openSlots) }])

namespace Sys2Proof.Claims

/-- The line `idx` of operation `op` of a core is `r`. -/
def lineAt (s : State) (core op idx : Nat) (r : LineReq) : Prop := ∃ o, s.op? core op = some o ∧ o.lines[idx]? = some r

/-- Every page of operation `op` with a number stands at `st`. -/
def PagesAt (t : State) (core op vpn : Nat) (st : PageState) : Prop := ∃ o, t.op? core op = some o ∧ ∀ p ∈ o.pages, p.vpn = vpn → p.st = st

end Sys2Proof.Claims

/-- R18, R85 to R87, R246 to R250 and R335: what memory serves of an operation, one event each. A slice sends a missing line on to its stack, 4 cycles away, or a line of the host to the CXL port, and answers a present
one; an HBM access makes its line stand at the slice 68 cycles later, where it fills the L2 and is answered; an L2 TLB answers or a walk starts; a step of a walk leads on,
or answers with its leaf; a miss joins the merge table. In a cycle that the owner does not own nothing happens. An entry of a TLB or of a table with an
uncorrectable error is a data error of the access (R335); addresses of the host stand apart by the owner's PASID (notes/assumptions/36.md). -/
def Obligations.MemoryEvents : Prop :=
  ∀ (s : State) (k : Nat),
    (∀ die sl key c op i o r, s.owned k = true → leastBy (fun x => x.1) (s.sliceQueue k die sl) = some (key, .inr (c, op, i)) → s.op? c op = some o → o.lines[i]? = some r →
      ∃ t, exec (.l2SliceService die sl k) s = .next t ∧ (∀ r', lineAt t c op i r' → s.l2Has k (r.leaf.tgt == 1) r.addr = true → r'.st = .back (s.now c + 8))
        ∧ (r.leaf.tgt ≠ 1 → s.l2Has k false r.addr = false → o.kind.isWrite = false →
            GroupsKept s t ∧ BytesKept s t ∧ ∃ r', lineAt t c op i r' ∧ r'.st = .atHbm (s.now c + 4))
        ∧ (r.leaf.tgt = 1 → s.l2Has k true r.addr = false → GroupsKept s t ∧ BytesKept s t ∧ ∃ r', lineAt t c op i r' ∧ r'.st = .atPort (s.now c)))
    ∧ (∀ die sl, s.owned k = false → exec (.l2SliceService die sl k) s = .next s)
    ∧ (∀ st req e, (s.hbmQueue k st).find? (fun x => x.2.1 == req) = some e →
      (s.owned k = true ∧ s.hbmFree k e.2.2 = true → ∃ t, exec (.hbmAccessBegin st k req) s = .next t ∧ GroupsKept s t ∧ BytesKept s t
        ∧ t.hbm = s.hbm ++ [{ stack := st, chan := e.2.2 / 2 ^ 10 % 32, colour := e.2.2 / 2 ^ 15 % 64, owner := k, start := (s.owner k).oclk }]
        ∧ (∀ c op i r, c < 2048 → i < 2 ^ 12 → req = lineReqId c op i → lineAt s c op i r →
            ∃ r', lineAt t c op i r' ∧ r'.st = .filling ((s.owner k).oclk + 68)))
      ∧ (¬(s.owned k = true ∧ s.hbmFree k e.2.2 = true) → exec (.hbmAccessBegin st k req) s = .next s))
    ∧ (∀ c op i r w, c < 2048 → i < 2 ^ 12 → lineAt s c op i r → r.st = .filling w →
      ∃ t, exec (.hbmLineFill (lineReqId c op i)) s = .next t ∧ (∀ r', lineAt t c op i r' → r'.st = .back (s.now c + 8))
        ∧ ((s.owner (s.ownerOf c)).record.ways ≠ 0 → t.l2Has (s.ownerOf c) false r.addr = true))
    ∧ (∀ die c op o n p arr, s.owned k = true → s.allPages k die = [(c, op, o, n, p)] → p.st = .atTlb arr → arr ≤ (s.owner k).oclk → s.op? c op = some o →
      (∀ l, tlbFind ((s.owner k).die die).tlb p.vpn = some l → tlbBad ((s.owner k).die die).tlb p.vpn = false → ∃ t, exec (.l2TlbLookup die k) s = .next t ∧ GroupsKept s t ∧ BytesKept s t
        ∧ PagesAt t c op p.vpn (.answer ((s.owner k).oclk + 4) l))
      ∧ (tlbBad ((s.owner k).die die).tlb p.vpn = true → ∃ t, exec (.l2TlbLookup die k) s = .next t ∧ GroupsKept s t ∧ BytesKept s t
        ∧ PagesAt t c op p.vpn (.failed ((s.owner k).oclk + 4) 0x27))
      ∧ (tlbFind ((s.owner k).die die).tlb p.vpn = none → ∃ t w, exec (.l2TlbLookup die k) s = .next t ∧ GroupsKept s t ∧ BytesKept s t
        ∧ PagesAt t c op p.vpn .walking ∧ t.walks = s.walks ++ [w] ∧ w.owner = k ∧ w.vpn = p.vpn ∧ w.level = 1 ∧ w.table = (s.owner k).record.l1table))
    ∧ (∀ i w o, s.walks[i]? = some w → s.op? w.core w.op = some o → let now := (s.owner w.owner).oclk
      (∀ e pa, w.ends = some e → e ≤ now → w.entry / 128 * 128 ∉ s.errors → pteKind w.level (s.mem.readLe w.entry 8) = .table pa → ∃ t, exec (.walkStep i) s = .next t ∧ GroupsKept s t ∧ BytesKept s t
        ∧ t.walks[i]? = some { w with ends := none, level := w.level + 1, table := pa, from_ := now })
      ∧ (∀ e l, w.ends = some e → e ≤ now → w.entry / 128 * 128 ∉ s.errors → pteKind w.level (s.mem.readLe w.entry 8) = .leaf l → ∃ t, exec (.walkStep i) s = .next t ∧ GroupsKept s t ∧ BytesKept s t
        ∧ PagesAt t w.core w.op w.vpn (.answer (now + 4) (l.under (s.owner w.owner).record.pasid)))
      ∧ (∀ e, w.ends = some e → e ≤ now → w.entry / 128 * 128 ∈ s.errors → ∃ t, exec (.walkStep i) s = .next t ∧ GroupsKept s t ∧ BytesKept s t
        ∧ PagesAt t w.core w.op w.vpn (.failed (now + 4) 0x27))
      ∧ ((∀ e, w.ends = some e → now < e) → exec (.walkStep i) s = .next s))
    ∧ (∀ die key c op vpn lvl, s.owned k = true → s.mergeQueue k die = [(key, c, op, vpn, lvl)] → c < 2048 → let m := ((s.owner k).die die).merge
      (m.any (fun e => e.vpn == vpn) = true → ∃ t, exec (.mergeTableInsert die k) s = .next t ∧ GroupsKept s t ∧ BytesKept s t
        ∧ ((t.owner k).die die).merge = m.map (fun e => if e.vpn = vpn then { e with waiters := e.waiters ++ [(c, op)] } else e))
      ∧ (m.any (fun e => e.vpn == vpn) = false → m.length < 256 → ∃ t e, exec (.mergeTableInsert die k) s = .next t ∧ GroupsKept s t
        ∧ (∀ a, t.mem.read a = s.mem.read a) ∧ ((t.owner k).die die).merge = m ++ [e] ∧ e.vpn = vpn ∧ e.waiters = [(c, op)]))

/-- R75 to R77, R117, R246 and R247: answers that reach a core and drains by age. A code line that has come can be issued from in the next cycle; the last answer of a load writes
its destination (`Claims.LoadAnswer`); a write-combining entry of 64 cycles, and a remote one of 2,048, leaves its buffer as a drain. -/
def Obligations.CoreEvents : Prop :=
  ∀ (s : State) (core op : Nat) (o : MemOp),
    (∀ line r w g, s.op? core op = some o → o.kind = .fetch line → o.lines = [r] → r.st = .back w → w ≤ s.now core → o.entered = true → o.notBefore ≤ s.now core →
      o.failed = none → s.group? core o.seat = some g → g.uid = o.uid →
      ∃ t g', exec (.lineFetchArrival core op) s = .next t ∧ BytesKept s t ∧ SeatsKept s t core o.seat ∧ t.group? core o.seat = some g' ∧ SpecialKept g g' ∧ AllRegsKept g g'
        ∧ g'.threads = g.threads ∧ g'.pc = g.pc ∧ ∃ off, g'.lines = g.lines.map (fun l =>
            if l.line == line && l.op == some op then { l with ready := some (s.now core + 1), op := none, bytes := (r.bytes.drop off).take 64 } else l))
    ∧ (∀ r sx nl1 un, r.head = none → r.core < Config.numCores → (s.owner r.owner).resident = true → (s.core r.core).owner = some r.owner → s.op? r.core r.op = some o → o.kind = .load sx nl1 un →
      o.answered (s.now r.core) = true → o.lines.length ≤ r.line → exec (.responseArrival r) s = .next (s.finishOp r.core r.op))
    ∧ (∀ e, (s.core core).wc = [e] → e.born + 64 ≤ s.now core → ∃ t id d, exec (.wcAgeDrain core e.line) s = .next t ∧ GroupsKept s t ∧ BytesKept s t ∧ (t.core core).wc = []
        ∧ mget (t.core core).ops id = some d ∧ d.kind = .drain e.mask e.ops e.region)
    ∧ (∀ e, (s.core core).rwc = [e] → e.born + 2048 ≤ s.now core → ∃ t id d, exec (.remoteWcAgeDrain core e.dev e.line) s = .next t ∧ GroupsKept s t ∧ BytesKept s t
        ∧ (t.core core).rwc = [] ∧ mget (t.core core).ops id = some d ∧ d.kind = .remoteDrain e.mask e.ops)
    ∧ (∀ e, (s.core core).wc = [e] → s.now core < e.born + 64 → ∃ t, exec (.wcAgeDrain core e.line) s = .next t ∧ (t.core core).wc = [e])

/-- R37 to R39, R49, R50 and R64: the admission of a team to its core, the end of a grid, and the dealer, which reads the registers of a record in the overflow area back
from memory. -/
def Obligations.AdmissionEvents : Prop :=
  ∀ (s : State) (k : Nat),
    (∀ g n, s.nextAdmission k = some (g, [n]) → g.packet.cw = 0 → g.packet.trm = 0 → g.packet.groups ≤ 32 →
      (∀ j, j < 64 → g.packet.argm.getLsbD j = true → ∃ w, s.argWord k (g.packet.argb + 4 * j) = .ok w) →
      ∃ t m, exec (.teamAdmission k) s = .next t ∧ (t.core n).team = some m ∧ m.owner = k ∧ m.grid = g.id ∧ m.teamId = g.nextTeam ∧ m.cluId = g.nextTeam
        ∧ m.srseed = g.packet.srseed ∧ m.solthr = 0 ∧ m.solmax = 0 ∧ m.solbeta = 0 ∧ m.sollam = 0 ∧ m.deck = []
        ∧ (∀ a, t.mem.read a = s.mem.read a) ∧ (∀ a, t.host.read a = s.host.read a) ∧ (∀ a, (t.core n).sp.read a = 0) ∧ (∀ line, ¬Empty t n line)
        ∧ (∀ c x, c ≠ n → t.group? c x = s.group? c x)
        ∧ ∀ i, i < g.packet.groups → ∃ x, t.group? n (16 * (i % 4) + i / 4) = some x ∧ x.pc = g.packet.entry ∧ x.allot = 16 ∧ x.hperm = 2 ∧ x.origins = [] ∧ x.handles = []
            ∧ x.vregs = [] ∧ x.threads.map (fun p => (p.1, p.2.tid)) = (List.range 32).map (fun l => (l, 32 * i + l)) ∧ x.trapv = g.packet.trapv
            ∧ x.segsp = g.packet.segsp ∧ x.segst = g.packet.segst ∧ x.seggl = g.packet.seggl ∧ x.trapc = 0 ∧ x.trapa = 0 ∧ x.trapm = 0 ∧ x.csn = 0 ∧ x.rcnt = 0
            ∧ ∀ j, j < 64 → if g.packet.argm.getLsbD j then s.argWord k (g.packet.argb + 4 * j) = .ok (x.sreg j) else x.sreg j = 0)
    ∧ (s.nextAdmission k = none → exec (.teamAdmission k) s = .next s)
    ∧ (∀ n g, (s.owner k).grid? n = some g →
      (g.packet.teams ≤ g.ended → ∃ t, exec (.gridCompletion k n) s = .next t ∧ GroupsKept s t ∧ BytesKept s t
        ∧ (t.owner k).grids = (s.owner k).grids.filter (fun x => x.id != n)
        ∧ ∀ e, sget 0 (t.owner k).events e = sget 0 (s.owner k).events e + if e = g.packet.cevent then 1 else 0)
      ∧ (g.ended < g.packet.teams → exec (.gridCompletion k n) s = .next s))
    ∧ (∀ core d ds seat, s.dealDue core = true → s.cutDue core = false → s.det core = false → (s.takeUp core).dealable core = d :: ds →
      (s.core core).freeSeat = some seat → ((s.takeUp core).core core).dealGranted d = true →
      ∃ t g, exec (.deal core) s = .next t ∧ BytesKept s t ∧ SeatsKept s t core seat ∧ t.group? core seat = some g ∧ g.pc = (d.recs.head?.map (fun x => x.pc)).getD 0
        ∧ g.allot = d.bud ∧ g.hperm = 2 ∧ g.origins = [] ∧ g.handles = [] ∧ g.sregs = [] ∧ g.lanes = List.range d.recs.length ∧ g.tcheck = d.recs.any (fun x => x.tcheck)
        ∧ (∀ l x, d.recs[l]? = some x → g.tid l = x.tid
          ∧ (x.overflow = false → ∀ j, j < 256 → g.vreg j l = if j < x.l then x.regs[j]?.getD 0 else 0)
          ∧ (x.overflow = true → ∀ m bs, (s.core core).team = some m → let va := s.overflowAt core m.teamId x.tid
              va % Config.pageBytes + deckBytes x.l ≤ Config.pageBytes → (∀ p ∈ (s.core core).ops, p.2.kind ≠ .systemStore) →
              s.traceAt (s.ownerOf core) va (deckBytes x.l) = .ok bs →
              ∀ j, j < 256 → g.vreg j l = if j < x.l ∧ j < x.regs.length then BitVec.ofNat 32 (leNat ((bs.drop (16 + 4 * j)).take 4)) else 0))
        ∧ (deckOf t core).map (fun x => x.tid) = ((deckOf s core).filter (fun x => x.jwait || !(d.recs.map (fun y => y.tid)).contains x.tid)).map (fun x => x.tid))
    ∧ (∀ core, s.dealDue core = false → exec (.deal core) s = .next s)

namespace Sys2Proof.Claims

/-- The trades of a list are applied to a table in order (R23): one whose entries are all the offerer's, and that leaves an entry to an offerer that is resident or
the incoming owner of an accepted switch, gives them to the recipient; any other changes nothing. -/
def AfterTrades (s : State) : BitVec 64 → List Offer → BitVec 64 → Prop
  | t, [], t' => t' = t
  | t, x :: xs, t' =>
    let fits := (∀ i, i < 16 → x.mask.getLsbD i = true → names t x.from_ i) ∧ ((s.owner x.from_).resident = true ∨ (∃ w, s.mgmt.switch = some w ∧ w.inc = some x.from_) → ∃ i, i < 16 ∧ names t x.from_ i ∧ x.mask.getLsbD i = false)
    ∃ t1, AfterTrades s t1 xs t' ∧ (¬fits → t1 = t)
      ∧ (fits → ∀ i, i < 16 → (x.mask.getLsbD i = true → names t1 (x.dest % 16) i) ∧ (x.mask.getLsbD i = false → ∀ k, names t k i → names t1 k i))

/-- The counters of every unit of an owner are latched into records for its telemetry ring (R337). -/
def Latched (s t : State) (k flags tag : Nat) : Prop :=
  ∃ bs, ringWaits t k 3 = ringWaits s k 3 ++ bs ∧ bs.length = (s.unitsOf k).length ∧ ∀ (i un : Nat) (b : List Byte), bs[i]? = some b → (s.unitsOf k)[i]? = some un →
    let n := (mget (s.owner k).counters un).getD (0, 0)
    b.length = 64 ∧ field b 0 8 = s.cycle / 2 ^ (s.owner k).record.tick % 2 ^ 64 ∧ field b 8 2 = un % 2 ^ 16 ∧ field b 10 1 = k % 2 ^ 8 ∧ field b 11 1 = flags % 2 ^ 8
      ∧ field b 12 2 = tag % 2 ^ 16 ∧ field b 16 8 = n.1 % 2 ^ 64 ∧ field b 24 8 = n.2 % 2 ^ 64

/-- The group of a seat of a core of a table of cores. -/
def groupIn (cs : Map Core) (n x : Nat) : Option Group := (mget cs n).bind (fun c => c.group? x)

end Sys2Proof.Claims

/-- R13, R15, R22, R23 and R29: the session boundary. The table in force becomes the table last written, with the accepted trades of the session applied in the order of their
acceptance, each whole or not at all; offers that were not accepted expire; a table written in the final round becomes the one last written; refills are fixed.
At any other cycle nothing happens. -/
def Obligations.SessionTables : Prop :=
  ∀ (s : State) (k : Nat),
    (s.cycle % 65536 = 0 → ∃ t, exec .sessionBoundary s = .next t ∧ GroupsKept s t ∧ (∀ a, t.mem.read a = s.mem.read a)
      ∧ AfterTrades s s.mgmt.nextTable s.mgmt.accepted t.mgmt.table ∧ t.mgmt.nextTable = s.mgmt.lateTable.getD s.mgmt.nextTable ∧ t.mgmt.lateTable = none
      ∧ t.mgmt.offers = [] ∧ t.mgmt.accepted = [] ∧ ∀ d, let p := ((s.owner k).die d).pool
          ((t.owner k).die d).pool = { p with refill := p.next })
    ∧ (s.cycle % 65536 ≠ 0 → exec .sessionBoundary s = .next s)

/-- R3, R13, R23, R24, R29, R43, R59, R337, R338 and R353: what a round boundary, the global tick, snapshots, the debug trigger and the thermal slowdown do. At the start of
a session's final round the trade records come to wait for their rings: of one accepted trade the offerer and the recipient each get an entry, given and received, or void.
(That they wait from then on is the model's reading: notes/assumptions/30.md. What CLOCK_RESTORE is, and when it
acts, is the model's reading: notes/assumptions/5.md.) -/
def Obligations.TurnEvents : Prop :=
  ∀ (s : State) (k : Nat),
    (s.cycle % 64 = 0 → (s.owners.map Prod.fst).Nodup → ∃ t, exec .roundBoundary s = .next t ∧ GroupsKept s t ∧ BytesKept s t ∧ t.mgmt.trigger = false
      ∧ (k ∈ s.residents → (∀ d, let p := ((s.owner k).die d).pool
            ((t.owner k).die d).pool = { p with level := min p.cap (p.level + p.refill) })
          ∧ ∀ n ∈ (s.owner k).held, ∀ q, q < 4 → ((t.core n).quad q).rotation = ((s.core n).groups.map Prod.fst).filter (fun x => x / 16 == q)))
    ∧ (s.cycle % 64 ≠ 0 → exec .roundBoundary s = .next s)
    ∧ (∀ x, s.cycle % 65536 = 65472 → s.mgmt.offers = [] → s.mgmt.accepted = [x] → x.from_ ≠ x.dest →
      let fits := (∀ i, i < 16 → x.mask.getLsbD i = true → names s.mgmt.nextTable x.from_ i) ∧ ((s.owner x.from_).resident = true ∨ (∃ w, s.mgmt.switch = some w ∧ w.inc = some x.from_) →
        ∃ i, i < 16 ∧ names s.mgmt.nextTable x.from_ i ∧ x.mask.getLsbD i = false)
      ∃ t a b, exec .roundBoundary s = .next t ∧ ringWaits t x.from_ 0 = ringWaits s x.from_ 0 ++ [a] ∧ ringWaits t x.dest 0 = ringWaits s x.dest 0 ++ [b]
        ∧ a.length = 16 ∧ b.length = 16 ∧ field a 0 2 = x.mask.toNat ∧ field b 0 2 = x.mask.toNat
        ∧ (fits → field a 3 1 = 1 ∧ field b 3 1 = 2) ∧ (¬fits → field a 3 1 = 4 ∧ field b 3 1 = 4))
    ∧ (s.tickDue k = true → ∃ t, exec (.globalTick k) s = .next t ∧ GroupsKept s t ∧ BytesKept s t ∧ Latched s t k 0 0)
    ∧ (s.tickDue k = false → exec (.globalTick k) s = .next s)
    ∧ (∀ x, (s.owner k).snap = [x] → (s.owner k).resident = true → x.1 ≤ (s.owner k).oclk → ∃ t, exec (.snapshotLatch k) s = .next t ∧ GroupsKept s t ∧ BytesKept s t
      ∧ Latched s t k 1 x.2.1 ∧ (t.owner k).snap = [])
    ∧ exec .externalDebugTrigger s = .next { s with mgmt := { s.mgmt with trigger := true } }
    ∧ exec .thermalEmergency s = .next { s with mgmt := { s.mgmt with slow := true, cleared := none } }
    ∧ (s.mgmt.slow = true → s.mgmt.cleared = none → exec .clockRestore s = .next { s with mgmt := { s.mgmt with cleared := some s.mgmt.gtime } })
    ∧ (∀ c, s.mgmt.slow = true → s.mgmt.cleared = some c → s.cycle % 65536 = 0 → c + 1000000 ≤ s.mgmt.gtime →
      exec .clockRestore s = .next { s with mgmt := { s.mgmt with slow := false, cleared := none } })

/-- R25, R27, R28 and R345: at the cut-off of a switch the cores of the outgoing owner leave with every register of their groups, and it is no longer resident; no byte outside their save frames changes; at its end the incoming
owner has the cores that were assigned to it as the switch was accepted, with their groups as they were saved, each behind its `YIELD`. (That a `CORES` accepted after the
switch belongs to the next one is the model's reading: notes/assumptions/32.md.) -/
def Obligations.SwitchEvents : Prop :=
  ∀ (s : State) (w : Switch), s.mgmt.switch = some w → (s.cores.map Prod.fst).Nodup →
    (∀ k, w.cut = false → w.start + 8192 ≤ s.cycle → w.out = some k → ∃ t, exec .switchCutoff s = .next t ∧ t.mgmt = { s.mgmt with switch := some { w with cut := true } }
      ∧ (t.owner k).resident = false ∧ (t.owner k).held = [] ∧ (t.owner k).oclk = (s.owner k).oclk
      ∧ (∀ a, (∀ n ∈ (s.owner k).held, ∀ f ∈ (s.owner k).saveFrames n, ¬(f ≤ a ∧ a < f + 32768)) → t.mem.read a = s.mem.read a)
      ∧ (∀ n, n ∉ (s.owner k).held → t.core n = s.core n)
      ∧ ∀ n x g, n ∈ (s.owner k).held → s.group? n x = some g → ∃ g', groupIn (t.owner k).saved n x = some g' ∧ AllRegsKept g g' ∧ SpecialKept g g' ∧ g'.threads = g.threads)
    ∧ (w.cut = true ∨ s.cycle < w.start + 8192 → exec .switchCutoff s = .next s)
    ∧ (∀ k, w.cut = true → w.start + w.width ≤ s.cycle → w.inc = some k → ∃ t, exec .switchResume s = .next t ∧ t.mgmt = { s.mgmt with switch := none }
      ∧ (t.owner k).resident = true ∧ (t.owner k).held.Perm w.cores ∧ (t.owner k).oclk = (s.owner k).oclk ∧ (∀ a, t.mem.read a = s.mem.read a)
      ∧ ∀ n x g, n ∈ w.cores → groupIn (s.owner k).saved n x = some g →
          ∃ g', t.group? n x = some g' ∧ AllRegsKept g g' ∧ SpecialKept g g' ∧ g'.threads = g.threads ∧ g'.pc = g.pc)
    ∧ (w.cut = false ∨ s.cycle < w.start + w.width → exec .switchResume s = .next s)

namespace Sys2Proof.Claims

/-- What a ring is called, and its number and entry size (R348). -/
def ringOf : RingName → Nat
  | .trade => 0
  | .fault => 1
  | .error => 2
  | .telemetry => 3
  | .debug => 4

end Sys2Proof.Claims

/-- R279, R302, R326 to R329, R331, R334 and R348: a held MMX is taken; a core of a halted cluster takes SOLVE-STATE; a due dump is written, and its context error left for the
error log; a ring with room takes the entry that waits, and its PI counts it. -/
def Obligations.CoreStops : Prop :=
  ∀ (s : State) (core : Nat),
    (∀ seat g h rest, s.group? core seat = some g → g.mmx = h :: rest → g.handling = none → g.wait = none → g.fpe = [] → hpc g.trapv ≠ 0 →
      ∃ t g' e, exec (.mmx core seat) s = .next t ∧ t.group? core seat = some g' ∧ BytesKept s t ∧ SeatsKept s t core seat ∧ AllRegsKept g g' ∧ g'.threads = g.threads
        ∧ g'.pc = hpc g.trapv ∧ g'.tcheck = true ∧ g'.handling = some e ∧ e.resume = g.pc
        ∧ SpecialKept { g with
            mmx := rest, handling := some e, trapa := h.info.addr, trapm := h.info.mask,
            trapc := BitVec.ofNat 32 (h.info.cause + 2 ^ 8 * h.info.sub + 2 ^ 16 * h.info.lane) } g')
    ∧ (∀ seat, (∀ g, s.group? core seat = some g → g.mmx = [] ∨ g.handling.isSome = true ∨ g.wait.isSome = true) → exec (.mmx core seat) s = .next s)
    ∧ (∀ w, (s.core core).haltDue = some w → w ≤ s.now core → (s.core core).halt = none → ∃ t h, exec (.clusterHalt core) s = .next t ∧ GroupsKept s t ∧ BytesKept s t
      ∧ (t.core core).haltDue = none ∧ (t.core core).faults = (s.core core).faults ++ [h] ∧ h.cause = 0x2E ∧ h.sub = 1 ∧ h.addr = 0 ∧ h.byCluster = true)
    ∧ (∀ h m, s.dumpDue core = true → (s.core core).halt = some h → (s.core core).team = some m → ∃ t b, exec (.dump core) s = .next t ∧ GroupsKept s t
      ∧ (t.core core).halt = some { h with dumped := true } ∧ ringWaits t (s.ownerOf core) 2 = ringWaits s (s.ownerOf core) 2 ++ [b] ∧ b.length = 64
      ∧ (field b 0 4 = 0x43 ∨ field b 0 4 = (h.cause + 2 ^ 8 * h.sub) % 2 ^ 32) ∧ field b 6 2 = core % 2 ^ 16 ∧ field b 12 4 = h.lgid % 2 ^ 32 ∧ field b 24 8 = h.addr.toNat
      ∧ field b 32 8 = h.pc % 2 ^ 64 ∧ field b 48 8 = h.cycle % 2 ^ 64)
    ∧ (s.dumpDue core = false → exec (.dump core) s = .next s)
    ∧ (∀ k ring b, ring ≠ .fault → let n := ringOf ring
      ringWaits s k n = [b] → ((s.owner k).ring n).drop = false → let base := (s.owner k).record.ringBase n
      let pi := ((s.owner k).ring n).pi
      (s.ringRoom k n = true → ∃ t, exec (.ringHasRoom k ring) s = .next t ∧ GroupsKept s t ∧ ringWaits t k n = [] ∧ ((t.owner k).ring n).pi = pi + 1
        ∧ t.host.readN (base + 64 + (if n = 0 then 16 else 64) * (pi % (s.owner k).record.ringCount n)) b.length = b ∧ t.host.readLe base 8 = (pi + 1) % 2 ^ 64)
      ∧ (s.ringRoom k n = false → n ≠ 4 → ∃ t, exec (.ringHasRoom k ring) s = .next t ∧ GroupsKept s t ∧ BytesKept s t ∧ ringWaits t k n = []
        ∧ ((t.owner k).ring n).drop = true))
    ∧ (∀ k, s.ringRoom k 1 = false → exec (.ringHasRoom k .fault) s = .next s)

/-- R20, R32, R74, R276, R335, R343, R344 and R351: house work and the host's accesses, each in house turns, but for a bank outside every owner's set in a cycle in which its owner uses nothing of the stack: the sweep frees exactly the region ids that are inactive and that no record names, refresh and
scrubbing change no byte, a line with an error is a context error of its owner; the host reads and writes device memory, and takes back its own lines, each of the address space of its PASID (how the address spaces lie in the model's one map is its own: notes/assumptions/36.md); in FWFAIL, in which only CXL.io and DOE come up, no access is served (R351). (That
refreshes are counted is the model's: notes/assumptions/10.md.) -/
def Obligations.HouseEvents : Prop :=
  ∀ s : State,
    (s.houseTurn = true → ∃ t, exec .regionIdSweep s = .next t ∧ GroupsKept s t ∧ BytesKept s t ∧ ∀ k id x, mget (s.owner k).regions id = some x →
      ((s.owner k).regionActive id = true ∨ t.idNamed k id = true → mget (t.owner k).regions id = some x)
      ∧ ((s.owner k).regionActive id = false → t.idNamed k id = false → mget (t.owner k).regions id = none))
    ∧ (s.houseTurn = false → exec .regionIdSweep s = .next s)
    ∧ (s.houseTurn = true → ∀ st b, s.bankOpen st b = true)
    ∧ (∀ st b, st < 16 → b < 64 → s.houseTurn = false → s.bankOpen st b = true → (∀ k, (s.owner k).admitted = true → ((s.owner k).record.banks.getD st 0).getLsbD b = false)
      ∧ (s.owned s.turnOf = true → s.hbmQueue s.turnOf st = []))
    ∧ (∀ st b, s.bankOpen st b = true → ∃ t, exec (.hbmRefresh st b) s = .next t ∧ GroupsKept s t ∧ BytesKept s t
      ∧ sget 0 t.mgmt.refreshed (64 * st + b) = sget 0 s.mgmt.refreshed (64 * st + b) + 1)
    ∧ (∀ st b, s.bankOpen st b = false → exec (.hbmRefresh st b) s = .next s)
    ∧ (∀ line, let a := line / 128 * 128
      s.bankOpen (a / 2 ^ 36 % 16) (a / 2 ^ 15 % 64) = true → ∃ t, exec (.hbmScrub line) s = .next t ∧ GroupsKept s t ∧ BytesKept s t
        ∧ (s.errors.contains a = false → ∀ k, ringWaits t k 2 = ringWaits s k 2)
        ∧ ∀ k, s.errors.contains a = true → s.bankOwner a = some k → ∃ b, ringWaits t k 2 = ringWaits s k 2 ++ [b] ∧ field b 0 4 = 0x42 ∧ field b 24 8 = a % 2 ^ 64)
    ∧ (∀ a bs, s.houseTurn = true → s.mgmt.bringup ≠ .fwfail → a.write = some bs → (∀ i, i < bs.length → exposed (a.address + i) = true) → ∃ t, exec (.hostCxlMemAccess a) s = .next t ∧ GroupsKept s t
      ∧ t.mem.readN a.address bs.length = bs ∧ ∀ p, p < a.address ∨ a.address + bs.length ≤ p → t.mem.read p = s.mem.read p)
    ∧ (∀ a, s.houseTurn = true → s.mgmt.bringup ≠ .fwfail → a.write = none → (∀ i, i < a.bytes → exposed (a.address + i) = true) →
      exec (.hostCxlMemAccess a) s = .next { s with outbox := s.outbox ++ [.hostData (s.mem.readN a.address a.bytes)] })
    ∧ (∀ a, s.houseTurn = false ∨ s.mgmt.bringup = .fwfail → exec (.hostCxlMemAccess a) s = .next s)
    ∧ ∀ sn bs, sn.data = some bs → bs.length = 128 → let line := pasidBase sn.pasid + sn.line / 128 * 128
      ∃ t, exec (.cxlCacheSnoop sn) s = .next t ∧ GroupsKept s t ∧ (∀ a, t.mem.read a = s.mem.read a) ∧ (∀ k, t.l2Has k true line = false) ∧ t.host.readN line 128 = bs
        ∧ ∀ p, p < line ∨ line + 128 ≤ p → t.host.read p = s.host.read p

namespace Sys2Proof.Claims

/-- A flit of an earlier generation, or one seen before on its plane (R308, R309); what has been judged at its port is not judged again. -/
def SeenBefore (s : State) (h : FlitHead) : Prop :=
  h.gen ≠ judged ∧ ((∃ x, mget s.fab.seen h.device = some x ∧ x.1 ≠ h.gen ∧ (x.1 + 16 - h.gen) % 16 < 8)
    ∨ ∃ x, mget s.fab.seen (8192 + (h.device * 8 + h.plane % 8)) = some x ∧ h.seq ≤ x.2)

/-- An earlier request than number `n`, of the same peer and to the line of `x`, still waits for its translation (R307). -/
def Behind (s : State) (n : Nat) (x : Inbound) : Prop :=
  ∃ p ∈ s.fab.inbound, p.1 < n ∧ p.2.owner = x.owner ∧ p.2.req.head.device = x.req.head.device ∧ p.2.req.va / 128 = x.req.va / 128 ∧ p.2.pa = none ∧ p.2.answer = none

/-- Some chunk of a collective travels on plane `p` (R306, R309). -/
def Carried (s : State) (p : Nat) (x : Coll) : Prop := ∃ c, c < 8 ∧ c < x.planes ∧ s.fab.plane? c = some p

/-- A message belongs to a collective that has failed (R314, R316), or to a generation of a fabric barrier that is over (R317). -/
def OfFailed (s : State) (k tag dev serial : Nat) : Prop :=
  match barrierTag tag with
  | none => (∃ f ∈ (s.owner k).failedTags, f.1 = tag) ∨ ∃ e ∈ (s.owner k).early, e.tag = tag
  | some fb => (∃ e ∈ (s.owner k).early, e.tag = tag ∧ e.from_ = dev ∧ e.serial = serial)
      ∨ (serial ≤ (s.owner k).peerSerial fb dev ∧ (s.owner k).collFor tag dev serial = none)

/-- What a peer's request needs of the leaf of its page in the target's table (R310): device memory, W for all but loads, and the colour. -/
def Serves (s : State) (k : Nat) (r : PeerReq) (x : Leaf) : Prop :=
  x.tgt = 0 ∧ ((∃ m, r.kind = .load m) ∨ x.w = true) ∧ (s.owner k).leafColourOk x r.va = true

/-- The command of a number of an owner is `x`. -/
def Command (s : State) (k n : Nat) (x : Coll) : Prop := ∃ d, (s.owner k).coll? n = some (d, x)

/-- A request that has left the device: core, number of its operation, operation, number of the line in it, line. -/
abbrev OutLine := Nat × Nat × MemOp × Nat × LineReq

/-- A request goes to peer `d`; it goes to a peer on plane `p`. -/
def ToPeer (d : Nat) (y : OutLine) : Prop := y.2.2.2.2.leaf.tgt = 2 ∧ y.2.2.2.2.leaf.dev = d
def OnPlane (p : Nat) (y : OutLine) : Prop := y.2.2.2.2.leaf.tgt = 2 ∧ ∃ since, y.2.2.2.2.st = .outside since p

/-- Of the requests of the cores in place that have left the device those of `ys` satisfy `q`, and none of an owner that is switched out. -/
def Outstanding (s : State) (q : OutLine → Prop) (ys : List OutLine) : Prop :=
  (∃ a b, s.outsideLines = a ++ ys ++ b ∧ ∀ y ∈ a ++ b, ¬q y) ∧ (∀ y ∈ ys, q y)
    ∧ ∀ o ∈ s.owners, o.2.resident = false → ∀ y ∈ ({ s with cores := o.2.saved } : State).outsideLines, ¬q y

/-- Request `r`, the one line of operation `x`, whose other answers have come. -/
def LastLine (s : State) (c o : Nat) (x : MemOp) (r : LineReq) : Prop :=
  s.op? c o = some x ∧ x.lines = [r] ∧ x.entered = true ∧ x.notBefore ≤ s.now c ∧ x.failed = none

/-- The group of an operation of core `c` holds for its next fence the worse of what it held and of code `code` for device `d` (R181). -/
def FenceLearns (s t : State) (c code d : Nat) (y : MemOp) : Prop :=
  ∀ g, s.groupOf c y.seat y.uid = some g → ∃ g', t.groupOf c y.seat y.uid = some g' ∧ g'.remote = worstStatus g.remote (some (code, d))

/-- The group of a queue step has LOST in its destination (R217, R218). -/
def StepLost (s t : State) (c : Nat) (x : MemOp) : Prop :=
  ∀ g a k, x.acc = [a] → a.cmp = [] → x.conflict = none → x.dst = some (.s k) → s.groupOf c x.seat x.uid = some g → ∃ g', t.groupOf c x.seat x.uid = some g'
    ∧ (x.kind = .tqsteal → g'.sreg k = 0xFFFFFFFC ∧ g'.sreg (k + 1) = 0xFFFFFFFF) ∧ (x.kind = .tqdone → g'.sreg k = 2)

/-- Peer `d` is lost (R313, R316): it stands among the lost; a collective of which it is a member fails; the one request that is outstanding to it ends: a load or a
returning atomic with a fatal address fault that names the device, a store and an atomic without a result with PEER-LOST for the fences of their groups, a queue step with LOST. -/
def Lost (s t : State) (d : Nat) : Prop :=
  (∀ e, e ∈ t.fab.lost ↔ e = d ∨ e ∈ s.fab.lost)
    ∧ (d ∈ s.fab.lost → t = s)
    ∧ (d ∉ s.fab.lost → Outstanding s (ToPeer d) [] → GroupsKept s t ∧ BytesKept s t ∧ t.fab = { s.fab with lost := s.fab.lost ++ [d], ports := t.fab.ports }
      ∧ ∀ k n x, Command s k n x → x.code = none → d ∈ x.members → ∃ y, Command t k n y ∧ y.code = some (1, d))
    ∧ ∀ c o x r, d ∉ s.fab.lost → Outstanding s (ToPeer d) [(c, o, x, 0, r)] → LastLine s c o x r →
      ((s.core c).halt = none → (∃ a b e, x.kind = .load a b e) ∨ (∃ m, x.kind = .atomic m) ∧ x.returning = true → t.op? c o = none ∧ ∃ h, (t.core c).faults = (s.core c).faults ++ [h]
        ∧ h.cause = 0x20 ∧ h.dev = some d ∧ h.pc = x.pc ∧ h.lgid = x.lgid)
      ∧ (∀ m st y, x.kind = .remoteDrain m [st] → st ≠ o → s.op? c st = some y → t.op? c o = none ∧ FenceLearns s t c 1 d y)
      ∧ (∀ m, x.kind = .atomic m → x.returning = false → t.op? c o = none ∧ FenceLearns s t c 1 d x)
      ∧ StepLost s t c x

end Sys2Proof.Claims

/-- R181, R217, R218, R305, R307 to R313 and R316: the fabric's events. A request is answered NOCTX where its context is bound to no owner, dropped where it is old or a replay, and
otherwise comes in at its port; once it has come in it is translated in its owner's tables, behind an earlier one to its line: it waits for its slice, is refused, or is parked; a parked
one is reported every 32,768 ns until it is answered; a notice starts the link timeout again; after 2 ms a peer is lost, with the requests outstanding to it and its
collectives; a dead plane begins a new generation, its outstanding requests end with PLANE-LOST, and the collectives that it carries fail; a replay leaves again before what else waits at the port. (That a request without an owner is answered at once in the house's turns, and that one behind another waits for
its translation, are the model's readings: notes/assumptions/34.md. That a plane dies with its map change in the cycle of the event, and that only the collectives
carried on it fail, are too: notes/assumptions/35.md.) -/
def Obligations.FabricEvents : Prop :=
  ∀ s : State,
    (∀ r, SeenBefore s r.head → exec (.remoteRequestArrival r) s = .next s)
    ∧ (∀ r, ¬SeenBefore s r.head → s.boundOwner r.ctx = none → ∃ t, exec (.remoteRequestArrival r) s = .next t ∧ GroupsKept s t ∧ BytesKept s t
      ∧ t.fab.ports = s.fab.ports ++ [{ owner := 15, plane := r.head.plane % 8, flits := 1, msg := .answer r.head.device r.id r.head .noContext [] }] ∧ t.fab.inbound = s.fab.inbound)
    ∧ (∀ r k, ¬SeenBefore s r.head → s.boundOwner r.ctx = some k → ∃ t x m, exec (.remoteRequestArrival r) s = .next t ∧ GroupsKept s t ∧ BytesKept s t
      ∧ mget t.fab.inbound s.fab.nextIn = some x ∧ x.req.kind = r.kind ∧ x.req.va = r.va ∧ x.req.id = r.id ∧ x.req.head.device = r.head.device ∧ x.owner = k ∧ x.pa = none ∧ x.answer = none
      ∧ x.parked = none ∧ t.fab.nextIn = s.fab.nextIn + 1 ∧ t.fab.arrived = s.fab.arrived ++ [m] ∧ m.owner = k ∧ m.plane = r.head.plane % 8 ∧ m.what = .request s.fab.nextIn
      ∧ (r.head.gen ≠ judged → SeenBefore t r.head))
    ∧ (∀ n x, mget s.fab.inbound n = some x → x.pa = none → x.answer = none → let t := s.translateInbound n
      GroupsKept s t ∧ BytesKept s t ∧ (Behind s n x → t = s)
      ∧ (∀ y, ¬Behind s n x → s.peek x.owner x.req.va = .leaf y → Serves s x.owner x.req y → ∃ z, mget t.fab.inbound n = some z ∧ z.pa = some (y.addr x.req.va) ∧ z.answer = none ∧ z.parked = none
        ∧ z.st = .queued (s.owner x.owner).oclk)
      ∧ (∀ y, ¬Behind s n x → s.peek x.owner x.req.va = .leaf y → ¬Serves s x.owner x.req y → ∃ z, mget t.fab.inbound n = some z ∧ z.pa = none ∧ z.answer = some (.refused, []))
      ∧ (¬Behind s n x → s.peek x.owner x.req.va = .absent → x.req.rmf = false → ∃ z, mget t.fab.inbound n = some z ∧ z.pa = none ∧ z.answer = none ∧ z.parked = some (s.fabricTime, x.req.va)
        ∧ (x.noticed = none → z.noticed = some s.fabricTime))
      ∧ (¬Behind s n x → s.peek x.owner x.req.va = .absent → x.req.rmf = true → ∃ z, mget t.fab.inbound n = some z ∧ z.pa = none ∧ z.answer = some (.remoteFatal, [])))
    ∧ (∀ n x since, mget s.fab.inbound n = some x → x.noticed = some since →
      (since + 32768 ≤ s.fabricTime → x.answer = none → ∃ t, exec (.keepWaitingSend n) s = .next t ∧ GroupsKept s t ∧ BytesKept s t
        ∧ t.fab.ports = s.fab.ports ++ [{ owner := x.owner, plane := x.req.head.plane % 8, flits := 1, msg := .keepWaiting x.req.head.device x.req.id x.req.head }]
        ∧ mget t.fab.inbound n = some { x with noticed := some (since + 32768) })
      ∧ (s.fabricTime < since + 32768 ∨ x.answer.isSome = true → exec (.keepWaitingSend n) s = .next s))
    ∧ (∀ req h, SeenBefore s h → exec (.keepWaitingNotice ⟨req, h⟩) s = .next s)
    ∧ (∀ k c o i x r since p, (s.owner k).resident = true → k < 8 → c < 2048 → i < 2 ^ 12 → s.op? c o = some x → x.lines[i]? = some r → r.st = .outside since p →
      let req := outReqId k c o i
      (∀ h, ¬SeenBefore s h → ∃ t, exec (.keepWaitingNotice ⟨req, h⟩) s = .next t ∧ BytesKept s t ∧ lineAt t c o i { r with st := .outside s.fabricTime p, kept := true }
        ∧ (∀ m y, m ≠ c → t.group? m y = s.group? m y)
        ∧ ∀ y g, s.group? c y = some g → ∃ g', t.group? c y = some g' ∧ SpecialKept g g' ∧ AllRegsKept g g' ∧ g'.threads = g.threads ∧ g'.pc = g.pc)
      ∧ (r.leaf.tgt = 2 → since + 2000000 ≤ s.fabricTime → ∃ t, exec (.linkTimeout req) s = .next t ∧ Lost s t r.leaf.dev)
      ∧ (s.fabricTime < since + 2000000 → exec (.linkTimeout req) s = .next s))
    ∧ (∀ d, ∃ t, exec (.peerLost d) s = .next t ∧ Lost s t d)
    ∧ (∀ d, exec (.peerReadmit d) s = .next { s with fab := { s.fab with lost := s.fab.lost.filter (fun x => x != d) } })
    ∧ (∀ p, p ∈ s.fab.dead → exec (.planeDead p) s = .next s)
    ∧ (∀ p, p < 8 → p ∉ s.fab.dead → ∃ t, exec (.planeDead p) s = .next t ∧ t.fab.dead = s.fab.dead ++ [p] ∧ t.fab.gen = s.fab.gen + 1
      ∧ (∀ d, d < 1024 → t.fab.dead.length = 8 → d ∈ t.fab.lost)
      ∧ (∀ j k, k < 8 → sget 0 t.fab.unacked (8 * j + k) = if j = p then 0 else sget 0 s.fab.unacked (8 * j + k))
      ∧ (Outstanding s (OnPlane p) [] → GroupsKept s t ∧ BytesKept s t
        ∧ (∀ k n x, Command s k n x → x.code = none → Carried s p x → ∃ y, Command t k n y ∧ y.code = some (2, 0))
        ∧ ((∀ q ∈ s.owners, ∀ d ∈ q.2.dies, ∀ x ∈ d.2.colls, ¬Carried s p x.2) → ∀ k n x, Command s k n x → Command t k n x))
      ∧ ∀ c o x r, Outstanding s (OnPlane p) [(c, o, x, 0, r)] → LastLine s c o x r →
        (∀ m st y, x.kind = .remoteDrain m [st] → st ≠ o → s.op? c st = some y → t.op? c o = none ∧ FenceLearns s t c 2 r.leaf.dev y)
        ∧ (∀ a b e, x.kind = .load a b e → t.op? c o = none ∧ (t.core c).faults = (s.core c).faults ∧ FenceLearns s t c 2 r.leaf.dev x)
        ∧ StepLost s t c x)
    ∧ (∀ p k, let n := sget 0 s.fab.unacked (8 * p + k)
      (n = 0 → exec (.linkReplay p k) s = .next s)
      ∧ (n ≠ 0 → exec (.linkReplay p k) s = .next { s with fab := { s.fab with ports := { owner := k, plane := p, flits := n, msg := .replayed p k n } :: s.fab.ports } }))
    ∧ ∀ p k n, ∃ t, exec (.linkAck p k n) s = .next t ∧ GroupsKept s t ∧ BytesKept s t
      ∧ ∀ j, sget 0 t.fab.unacked j = if j = 8 * p + k then sget 0 s.fab.unacked j - n else sget 0 s.fab.unacked j

/-- R221, R291 and R314 to R318: the collective engine's events. A chunk that has come stands in DSTA; data of another descriptor, 500 µs without data, and a notice end a command
with a failure that names each member whose data is missing; a command that has all it waits for leaves STATUS, and ends; a stamp enters its scorecard, unless its
generation has failed; what comes later of a failed collective is discarded, and a notice that comes before its command is kept for it. (That messages of one tag are told apart
by a number for each pair of members, that an early notice is kept for its command, and that the engine's accesses are made at once are the model's choices:
notes/assumptions/28.md.) -/
def Obligations.CollectiveEvents : Prop :=
  ∀ s : State,
    (∀ c, s.boundOwner c.ctx = none → exec (.chunkContributionArrival c) s = .next s)
    ∧ (∀ c k n x, s.boundOwner c.ctx = some k → ¬SeenBefore s c.head → ¬OfFailed s k c.tag c.head.device c.serial →
      (s.owner k).collFor c.tag c.head.device c.serial = some (n, x) → Command s k n x →
      (∀ a o, c.result = true → c.agrees = true → x.page = none → (c.block, c.chunk) ∉ x.got → a = x.dsta + BitVec.ofNat 64 (x.dstOff c.block c.chunk) →
        0 < c.data.length → a.toNat % 128 + c.data.length ≤ 128 → windowOffset x.segsp a = some o → (s.core x.core).spRaceBad = [] →
        ∃ t y, exec (.chunkContributionArrival c) s = .next t ∧ GroupsKept s t ∧ (∀ b, t.mem.read b = s.mem.read b) ∧ (∀ b, t.host.read b = s.host.read b)
          ∧ (t.core x.core).sp.readN o c.data.length = c.data ∧ (∀ b, b < o ∨ o + c.data.length ≤ b → (t.core x.core).sp.read b = (s.core x.core).sp.read b)
          ∧ Command t k n y ∧ y.got = x.got ++ [(c.block, c.chunk)] ∧ y.code = none)
      ∧ (c.agrees = false → ∃ t y, exec (.chunkContributionArrival c) s = .next t ∧ GroupsKept s t ∧ BytesKept s t ∧ Command t k n y ∧ y.code = some (4, 0)))
    ∧ (∀ c k, s.boundOwner c.ctx = some k → ¬SeenBefore s c.head → OfFailed s k c.tag c.head.device c.serial → ∃ t, exec (.chunkContributionArrival c) s = .next t ∧ GroupsKept s t
      ∧ BytesKept s t ∧ ∀ n x, Command s k n x → Command t k n x)
    ∧ (∀ k n x, Command s k n x → x.code = none → (s.owner k).waiting = [] →
      (s.fabricTime < x.issued + 500000 → exec (.collLateTimeout k n) s = .next s)
      ∧ (∀ e ∈ x.expected, x.issued + 500000 ≤ s.fabricTime → e.2.2 < x.members.length → e.2.2 ≠ x.rank → (e.1, e.2.1) ∉ x.got → ∃ t y r, exec (.collLateTimeout k n) s = .next t
        ∧ GroupsKept s t ∧ BytesKept s t ∧ Command t k n y ∧ y.missing.head? = some r ∧ y.code = some (3, (x.members[r]?).getD 0)
        ∧ ∀ j, j ∈ y.missing ↔ j < x.members.length ∧ j ≠ x.rank ∧ ∃ e ∈ x.expected, e.2.2 = j ∧ (e.1, e.2.1) ∉ x.got))
    ∧ (∀ k n x w, Command s k n x → x.code = none → (s.owner k).waiting = [w] → x.holds w = true → w.result = false → (w.block, w.chunk) ∉ x.reduced →
      w.since + 500000 ≤ s.fabricTime → ∃ t y, exec (.collLateTimeout k n) s = .next t ∧ GroupsKept s t ∧ BytesKept s t ∧ Command t k n y
        ∧ (∀ r, y.missing.head? = some r → y.code = some (3, (x.members[r]?).getD 0)) ∧ ∀ j, j ∈ y.missing ↔ j < x.members.length ∧ j ≠ w.rank)
    ∧ (∀ f, s.boundOwner f.ctx = none → exec (.failureNotice f) s = .next s)
    ∧ (∀ f k n x, s.boundOwner f.ctx = some k → ¬SeenBefore s f.head → (s.owner k).collFor f.tag f.head.device f.serial = some (n, x) → Command s k n x →
      ∃ t y, exec (.failureNotice f) s = .next t ∧ GroupsKept s t ∧ BytesKept s t ∧ t.outbox = s.outbox ∧ t.fab.ports = s.fab.ports ∧ Command t k n y ∧ y.code = some (f.code, f.dev) ∧ y.missing = f.missing)
    ∧ (∀ f k, s.boundOwner f.ctx = some k → ¬SeenBefore s f.head → (s.owner k).collFor f.tag f.head.device f.serial = none → ¬OfFailed s k f.tag f.head.device f.serial →
      ∃ t, exec (.failureNotice f) s = .next t ∧ GroupsKept s t ∧ BytesKept s t
        ∧ (barrierTag f.tag = none → (t.owner k).failedTags.head? = some (f.tag, f.code, f.dev))
        ∧ (∀ fb, barrierTag f.tag = some fb → ∃ e, (t.owner k).early = (s.owner k).early ++ [e] ∧ e.tag = f.tag ∧ e.from_ = f.head.device ∧ e.serial = f.serial ∧ e.code = f.code
          ∧ e.dev = some f.dev ∧ e.missing = f.missing))
    ∧ (∀ k n d x, (s.owner k).coll? n = some (d, x) →
      (∀ o, (s.owner k).collReady x = true → windowOffset x.segsp (x.desc + 40) = some o → (s.core x.core).spRaceBad = [] →
        ∃ t, exec (.collCompletion k n) s = .next t ∧ GroupsKept s t
          ∧ (x.code = none ∨ x.moves = false → (∀ b, t.mem.read b = s.mem.read b) ∧ (∀ b, t.host.read b = s.host.read b))
          ∧ (t.core x.core).sp.readLe o 4 = (match x.code with | none => 0x80000000 | some (code, dev) => 0x80000000 + code % 16 + dev % 1024 * 2 ^ 16)
          ∧ mget ((t.owner k).die d).colls n = none)
      ∧ ((s.owner k).collReady x = false → exec (.collCompletion k n) s = .next s))
    ∧ (∀ c, s.boundOwner c.ctx = none → exec (.scorecardStamp c) s = .next s)
    ∧ ∀ c k, s.boundOwner c.ctx = some k → ¬SeenBefore s c.head → let x := (mget (s.owner k).cards c.fb).getD .blank
      ∃ t, exec (.scorecardStamp c) s = .next t ∧ GroupsKept s t ∧ BytesKept s t
        ∧ (OfFailed s k (tagOf c.fb) c.device c.serial → mget (t.owner k).cards c.fb = mget (s.owner k).cards c.fb)
        ∧ (¬OfFailed s k (tagOf c.fb) c.device c.serial → ∃ y, mget (t.owner k).cards c.fb = some y ∧ y.members = x.members ∧ y.gens = x.gens ∧ y.serials = x.serials
          ∧ ∀ j, (mget y.stamps j).getD [] = (mget x.stamps j).getD [] ++ if j = c.device then [(c.serial, c.time)] else [])

namespace Sys2Proof.Claims

/-- The device's answer: the word stands in the status register and leaves to the host. -/
def Answered (s t : State) (w : Word) : Prop := t.mgmt.status = w ∧ ∃ xs, t.outbox = s.outbox ++ xs ++ [.status w]

/-- Request `i` is refused with a reason, and changes nothing else (R347). -/
def RefusedWith (s : State) (i : Instr) (reason : Nat) : Prop :=
  exec i s = .next { s with mgmt := { s.mgmt with status := BitVec.ofNat 32 (1 + 256 * reason) }, outbox := s.outbox ++ [.status (BitVec.ofNat 32 (1 + 256 * reason))] }

/-- Request `i` is accepted: word 0 is the answer, the groups stand, and device memory. -/
def Accepted (s : State) (i : Instr) (t : State) : Prop := exec i s = .next t ∧ Answered s t 0 ∧ GroupsKept s t ∧ ∀ a, t.mem.read a = s.mem.read a

/-- Entry `i` of a turn table. -/
def entry (t : BitVec 64) (i : Nat) : Nat := t.toNat / 16 ^ i % 16

/-- A table names an owner. -/
def Named (t : BitVec 64) (k : Nat) : Prop := ∃ i, i < 16 ∧ entry t i = k

end Sys2Proof.Claims

/-- R5, R15, R27, R29, R33, R345 and R347: management requests. An admission record that is in range leaves the L2's 16 ways, and the 512 tokens of a round, to no owner
twice (log entry 31 names what the model counts); its fields stand where R345 says. Each has its effect and answers ACCEPTED, or has none and answers REFUSED with the first reason of its row. (A `SWITCH` of neither owner
refused with reason 1, one without an incoming owner that starts at the first cycle of a round, the cores taken as the request is accepted, and that the L2 lines of an owner that is retired are dropped are the
model's readings: notes/assumptions/32.md.) -/
def Obligations.HostRequests : Prop :=
  ∀ s : State,
    (∀ r, s.recordOk r = true → ∀ j, j ≠ admitNumber r → (s.owner j).admitted = true → (s.owner j).record.ways + r.ways ≤ 16
      ∧ ∀ d, d < 8 → ((s.owner j).die d).pool.next + r.refill.getD d 0 ≤ 512)
    ∧ (∀ r, s.recordOk r = true → 1 ≤ r.tlbShare ∧ r.tlbShare ≤ 8192 ∧ r.bytes.length = 512 ∧ ∀ i, 355 ≤ i → i < 512 → field r.bytes i 1 = 0)
    ∧ (∀ r, let x := AdmitRecord.of r
      let b := r.bytes
      x.l1table = field b 0 8 ∧ x.faultq = field b 8 8 ∧ x.errlog = field b 16 8 ∧ x.telem = field b 24 8 ∧ x.debug = field b 32 8 ∧ x.trades = field b 40 8
        ∧ (∀ p, p < 4 → x.queues[p]? = some (field b (48 + 8 * p) 8)) ∧ x.dumpbase.toNat = field b 80 8 ∧ x.pasid = field b 88 4 ∧ x.ctx = field b 92 2
        ∧ x.lf = field b 94 1 % 16 ∧ x.lq = field b 94 1 / 16 ∧ x.tick = field b 95 1 ∧ (∀ st, st < 16 → (x.banks[st]?).map BitVec.toNat = some (field b (96 + 8 * st) 8))
        ∧ (∀ d, d < 8 → (x.savb[d]?).map BitVec.toNat = some (field b (288 + 8 * d) 8)) ∧ x.grade = field b 352 1 ∧ admitNumber r = field b 353 1 % 8 ∧ x.lt = field b 354 1)
    ∧ (∀ r, let k := admitNumber r
      let i : Instr := .admitOwner r
      s.mgmt.bringup ≠ .fwfail →
      ((s.owner k).admitted = true → RefusedWith s i 1) ∧ ((s.owner k).admitted = false → s.recordOk r = false → RefusedWith s i 2)
      ∧ ((s.owner k).admitted = false → s.recordOk r = true → s.banksMeet r = true → RefusedWith s i 3)
      ∧ ((s.owner k).admitted = false → s.recordOk r = true → s.banksMeet r = false → ∃ t, Accepted s i t ∧ (t.owner k).admitted = true ∧ (t.owner k).record = .of r
        ∧ (t.owner k).resident = false ∧ (t.owner k).assigned = [] ∧ (t.owner k).held = [] ∧ (t.owner k).oclk = 0 ∧ (∀ j, j ≠ k → t.owner j = s.owner j)
        ∧ (∀ d, d < 8 → ((t.owner k).die d).pool = { cap := r.capacity.getD d 0, refill := r.refill.getD d 0, next := r.refill.getD d 0, level := r.capacity.getD d 0 })
        ∧ ∀ n, n < 5 → t.host.readLe ((AdmitRecord.of r).ringBase n) 16 = 0))
    ∧ (∀ k, ((s.owner k).admitted = false → RefusedWith s (.retire k) 1) ∧ ((s.owner k).admitted = true → (s.owner k).resident = true → RefusedWith s (.retire k) 5)
      ∧ ((s.owner k).admitted = true → (s.owner k).resident = false → Named s.mgmt.table k ∨ Named (s.nextTable true) k → RefusedWith s (.retire k) 6)
      ∧ ((s.owner k).admitted = true → (s.owner k).resident = false → ¬(Named s.mgmt.table k ∨ Named (s.nextTable true) k) →
        ∃ t, Accepted s (.retire k) t ∧ t.owner k = Owner.blank ∧ (∀ j, j ≠ k → t.owner j = s.owner j) ∧ ∀ x ∈ t.l2, x.owner ≠ k))
    ∧ (∀ w, let i : Instr := .turns w
      let bad := ∃ j, j < 16 ∧ 8 ≤ entry w j ∧ entry w j ≤ 14
      let short := ∃ k, k < 8 ∧ s.mustHold k = true ∧ ¬Named w k
      (bad → RefusedWith s i 7) ∧ (¬bad → ¬Named w 15 → RefusedWith s i 8) ∧ (¬bad → Named w 15 → short → RefusedWith s i 9)
      ∧ (¬bad → Named w 15 → ¬short → ∃ t, Accepted s i t ∧ t.mgmt.table = s.mgmt.table
        ∧ (s.cycle % 65536 < 65472 → t.mgmt.nextTable = w ∧ t.mgmt.lateTable = s.mgmt.lateTable)
        ∧ (65472 ≤ s.cycle % 65536 → t.mgmt.nextTable = s.mgmt.nextTable ∧ t.mgmt.lateTable = some w)))
    ∧ (∀ k ns, let i : Instr := .cores k ns
      let wide := ∃ d, d < 8 ∧ 7 * (s.owner k).record.grade < (dedup (ns.filter (fun n => decide (n < 2048) && n / 256 == d))).length
      ((s.owner k).admitted = false → RefusedWith s i 1) ∧ ((s.owner k).admitted = true → (s.owner k).resident = true → RefusedWith s i 5)
      ∧ ((s.owner k).admitted = true → (s.owner k).resident = false → wide → RefusedWith s i 4)
      ∧ ((s.owner k).admitted = true → (s.owner k).resident = false → ¬wide → ∃ t, Accepted s i t ∧ ∀ n, n ∈ (t.owner k).assigned ↔ n ∈ ns ∧ n < 2048))
    ∧ (∀ out inc, let i : Instr := .switch out inc
      let all (p : Nat → Prop) := (∀ k, out = some k → p k) ∧ ∀ k, inc = some k → p k
      let known := ¬(out = none ∧ inc = none) ∧ all (fun k => (s.owner k).admitted = true)
      let placed := (∀ k, out = some k → (s.owner k).resident = true) ∧ ∀ k, inc = some k → (s.owner k).resident = false
      let free := ∀ k, inc = some k → s.coresTaken out k = false
      let named := ∀ k, inc = some k → Named s.mgmt.table k ∧ Named (s.nextTable true) k
      let grade (k : Option Nat) : Nat := match k with | some k => (s.owner k).record.grade | none => 0
      (¬known → RefusedWith s i 1) ∧ (known → ¬placed → RefusedWith s i 11) ∧ (known → placed → ¬free → RefusedWith s i 12)
      ∧ (known → placed → free → ¬named → RefusedWith s i 13) ∧ (known → placed → free → named → s.mgmt.switch.isSome = true → RefusedWith s i 14)
      ∧ (known → placed → free → named → s.mgmt.switch = none → ∃ t w, Accepted s i t ∧ t.mgmt.switch = some w ∧ w.out = out ∧ w.inc = inc ∧ w.cut = false ∧ (∀ k, inc = some k → w.cores = (s.owner k).assigned)
        ∧ w.width = 8192 + 32768 * max (grade out) (grade inc) ∧ s.cycle ≤ w.start
        ∧ (∀ k, inc = some k → (w.start + w.width) % 65536 = (s.owner k).oclk % 65536 ∧ w.start < s.cycle + 65536)
        ∧ (inc = none → w.start % 64 = 0 ∧ w.start < s.cycle + 64)))
    ∧ ∀ k vs, let i : Instr := .refill k vs
      let above := ∃ d, d < 8 ∧ ((s.owner k).die d).pool.cap < vs.getD d 0
      ((s.owner k).admitted = false → RefusedWith s i 1) ∧ ((s.owner k).admitted = true → above → RefusedWith s i 2)
      ∧ ((s.owner k).admitted = true → ¬above → s.refillFits k vs = false → RefusedWith s i 15)
      ∧ ((s.owner k).admitted = true → ¬above → s.refillFits k vs = true → ∃ t, Accepted s i t
        ∧ ∀ d p, mget (s.owner k).dies d = some p → ((t.owner k).die d).pool = { p.pool with next := vs.getD d 0 })

/-- R351: what a cold reset leaves, with bring-up at `up`. -/
def Sys2Proof.Claims.ColdReset (s : State) (i : Instr) (up : Bringup) : Prop :=
  ∃ t, exec i s = .next t ∧ t.owners = [] ∧ t.cores = [] ∧ t.mem = [] ∧ t.l2 = [] ∧ t.races = [] ∧ t.cycle = 0 ∧ t.mgmt.table = 0xFFFFFFFFFFFFFFFF
    ∧ t.mgmt.nextTable = 0xFFFFFFFFFFFFFFFF ∧ t.mgmt.gtime = 0 ∧ t.mgmt.bringup = up ∧ t.mgmt.device = s.mgmt.device ∧ t.host = s.host

/-- R3, R88, R339, R346, R349 and R351: the host's other requests. The doorbell appends a packet and leaves its status; a page that the host answers lets what waits on it go
on, or gives it an address fault or FRAME-UNAVAILABLE; a halted core becomes idle; a group at a breakpoint goes on; resets. (That a doorbell at any alignment is read where it points is the model's
choice: notes/assumptions/36.md. What a hot and a cold reset keep, the fabric's planes and peers among it, is the model's reading: notes/assumptions/33.md; that memory lists nothing after one is
its choice: notes/assumptions/11.md.) -/
def Obligations.HostAnswers : Prop :=
  ∀ s : State,
    (∀ k va, (s.owner k).admitted = false ∨ s.mgmt.bringup = .fwfail → exec (.ldb k va) s = .next s)
    ∧ (∀ k va, (s.owner k).admitted = true → s.mgmt.bringup ≠ .fwfail → s.packetBytes k va.toNat = none → ∃ t, exec (.ldb k va) s = .next t ∧ GroupsKept s t ∧ BytesKept s t ∧ (t.owner k).ldbst = 3)
    ∧ (∀ k va bs, (s.owner k).admitted = true → s.mgmt.bringup ≠ .fwfail → s.packetBytes k va.toNat = some bs → let p := Packet.of bs
      let q := (mget (s.owner k).queues p.prio).getD { packets := [], written := 0, taken := 0 }
      ∃ t, exec (.ldb k va) s = .next t ∧ GroupsKept s t ∧ (∀ a, t.host.read a = s.host.read a)
        ∧ (packetOk bs true = false → (t.owner k).ldbst = 2 ∧ (∀ a, t.mem.read a = s.mem.read a) ∧ (t.owner k).queues = (s.owner k).queues)
        ∧ (packetOk bs true = true → 2 ^ (s.owner k).record.lq ≤ q.packets.length →
          (t.owner k).ldbst = 1 ∧ (∀ a, t.mem.read a = s.mem.read a) ∧ (t.owner k).queues = (s.owner k).queues)
        ∧ (packetOk bs true = true → q.packets.length < 2 ^ (s.owner k).record.lq → (t.owner k).ldbst = 0
          ∧ mget (t.owner k).queues p.prio = some { packets := q.packets ++ [p], written := q.written + 1, taken := q.taken }
          ∧ t.mem.readN (((s.owner k).record.queues[p.prio]?).getD 0 + 128 * (q.written % 2 ^ (s.owner k).record.lq)) bs.length = bs))
    ∧ (∀ k vpn c op o, (s.owner k).resident = true → (s.owner k).dies.flatMap (fun d => (d.2.merge.filter (fun e => e.vpn == vpn)).flatMap (fun e => e.waiters)) = [(c, op)] →
      c < 2048 → (s.core c).halt = none → s.op? c op = some o →
      (∃ t, exec (.fansResume k vpn) s = .next t ∧ GroupsKept s t ∧ BytesKept s t ∧ (∀ d, ∀ e ∈ ((t.owner k).die d).merge, e.vpn ≠ vpn) ∧ PagesAt t c op vpn .start)
      ∧ ∀ x : Bool, (∃ n, o.kind = .copyRead n) ∨ (∃ n, o.kind = .copyWrite n) → ∃ t o', exec (if x then .fansNomap k vpn else .fansFrameUnavailable k vpn) s = .next t
        ∧ GroupsKept s t ∧ BytesKept s t ∧ (∀ d, ∀ e ∈ ((t.owner k).die d).merge, e.vpn ≠ vpn) ∧ t.op? c op = some o'
        ∧ o'.failed = some (if x then 0x20 else 0x29, o.faultAddress vpn) ∧ o'.lines = [])
    ∧ (∀ k c h, (s.owner k).resident = true → (s.core c).owner = some k → (s.core c).halt = some h → ∃ t, exec (.crel k c) s = .next t
      ∧ (∀ x, t.group? c x = none) ∧ (t.core c).team = none ∧ (t.core c).halt = none ∧ (t.core c).owner = some k ∧ (∀ n, n ≠ c → t.core n = s.core n)
      ∧ (∀ a, t.mem.read a = s.mem.read a) ∧ ∀ a, t.host.read a = s.host.read a)
    ∧ (∀ k c, (s.owner k).resident = true → (s.core c).halt = none → exec (.crel k c) s = .next s)
    ∧ (∀ k c x g, (s.owner k).resident = true → (s.core c).owner = some k → s.group? c x = some g → g.wait = some .debug → (s.owner k).debugWaits c x = false →
      ∃ t g', exec (.dres k c x) s = .next t ∧ BytesKept s t ∧ SeatsKept s t c x ∧ t.group? c x = some g' ∧ SpecialKept g g' ∧ AllRegsKept g g'
        ∧ g'.threads = g.threads ∧ g'.pc = g.pc ∧ g'.wait = none ∧ g'.wake = s.now c + 1)
    ∧ ColdReset s .coldReset .ready ∧ ColdReset s .coldResetUnsigned .fwfail
    ∧ ∃ t, exec .hotReset s = .next t ∧ t.owners = [] ∧ t.cores = [] ∧ t.mem = [] ∧ t.l2 = [] ∧ t.cycle = s.cycle ∧ t.mgmt.gtime = s.mgmt.gtime
      ∧ t.mgmt.table = 0xFFFFFFFFFFFFFFFF ∧ t.mgmt.bringup = s.mgmt.bringup ∧ t.mgmt.device = s.mgmt.device ∧ t.host = s.host
      ∧ t.fab.lost = s.fab.lost ∧ t.fab.dead = s.fab.dead ∧ t.fab.gen = s.fab.gen

namespace Sys2Proof.Claims

/-- A request of the mailbox with the bytes `ask` is answered with the bytes `bs`, and both join the transcript. -/
def Responds (s : State) (i : Instr) (ask bs : List Byte) : Prop :=
  ∃ t, exec i s = .next t ∧ GroupsKept s t ∧ BytesKept s t ∧ t.outbox = s.outbox ++ [.spdm bs] ∧ t.mgmt.spdm.transcript = s.mgmt.spdm.transcript ++ ask ++ bs

/-- The value of a measurement (R352): firmware, fuse configuration, the admission record of an owner. -/
def Measured (s : State) (i : Nat) (v : List Byte) : Prop :=
  (i = 1 → v = leBytes 48 (Config.firmwareDigest s.mgmt.boots).toNat) ∧ (i = 2 → v = leBytes 48 (Config.fuseConfig 0).toNat)
    ∧ (3 ≤ i → (s.owner (i - 3)).admitted = true → v = sha384 (s.owner (i - 3)).record.raw)
    ∧ (3 ≤ i → (s.owner (i - 3)).admitted = false → v = List.replicate 48 0)

end Sys2Proof.Claims

/-- R352: attestation. A connection is ready after `GET_VERSION`, `GET_CAPABILITIES` and `NEGOTIATE_ALGORITHMS` in that order; it then gives the digest and the portions of the
certificate chain, a signed challenge, and the measurements, signed where the requester sends a nonce; any other request is answered with an error. (The byte codes of the messages are the model's:
the spec names the protocol; notes/assumptions/9.md.) -/
def Obligations.Attestation : Prop :=
  ∀ s : State, let x := s.mgmt.spdm
    let ready := x.version = true ∧ x.capabilities = true ∧ x.algorithms = true
    let certificates := (List.range Config.certificateBytes).map Config.certificate
    (∃ t, exec .getVersion s = .next t ∧ t.outbox = s.outbox ++ [.spdm [0x10, 0x04, 0, 0, 0, 1, 0x00, 0x12]]
      ∧ t.mgmt.spdm = { version := true, capabilities := false, algorithms := false, transcript := [0x10, 0x84, 0, 0] ++ [0x10, 0x04, 0, 0, 0, 1, 0x00, 0x12] })
    ∧ (x.version = true → ∃ t bs, exec .getCapabilities s = .next t ∧ t.outbox = s.outbox ++ [.spdm bs] ∧ bs.take 4 = [0x12, 0x61, 0, 0]
      ∧ t.mgmt.spdm = { x with capabilities := true, transcript := x.transcript ++ [0x12, 0xE1, 0, 0] ++ bs })
    ∧ (∀ a h, x.version = true → x.capabilities = true → ∃ t bs, exec (.negotiateAlgorithms a h) s = .next t ∧ t.outbox = s.outbox ++ [.spdm bs] ∧ bs.take 4 = [0x12, 0x63, 0, 0]
      ∧ t.mgmt.spdm = { x with algorithms := a.testBit 7 && h.testBit 1, transcript := x.transcript ++ ([0x12, 0xE3, 0, 0] ++ leBytes 4 a ++ leBytes 4 h) ++ bs })
    ∧ (ready → Responds s .getDigests [0x12, 0x81, 0, 0] ([0x12, 0x01, 0, 1] ++ sha384 certificates))
    ∧ (∀ o n, ready → o < Config.certificateBytes → let part := (certificates.drop o).take n
      Responds s (.getCertificate o n) ([0x12, 0x82, 0, 0] ++ leBytes 2 o ++ leBytes 2 n) ([0x12, 0x02, 0, 0] ++ leBytes 2 part.length ++ leBytes 2 (Config.certificateBytes - o - part.length) ++ part))
    ∧ (∀ n, ready → ∃ own, own.length = 32 ∧ let msg := [0x12, 0x03, 0, 1] ++ sha384 certificates ++ own ++ [0, 0]
      let ask := [0x12, 0x83, 0, 0] ++ leBytes 32 n.toNat
      Responds s (.challenge n) ask (msg ++ leBytes 96 (Config.signature s.mgmt.boots (x.transcript ++ ask ++ msg)).toNat))
    ∧ (∀ i, ready → 1 ≤ i → i ≤ 10 → ∃ head v own, Measured s i v ∧ head.take 4 = [0x12, 0x60, 0, 0] ∧ let msg := head ++ v ++ own
      Responds s (.getMeasurements ⟨i, none⟩) [0x12, 0xE0, 0, BitVec.ofNat 8 i] msg
        ∧ ∀ n, let ask := [0x12, 0xE0, 1, BitVec.ofNat 8 i] ++ leBytes 32 n.toNat
          Responds s (.getMeasurements ⟨i, some n⟩) ask (msg ++ leBytes 96 (Config.signature s.mgmt.boots (x.transcript ++ ask ++ msg)).toNat))
    ∧ (ready → ∃ rest, Responds s (.getMeasurements ⟨0, none⟩) [0x12, 0xE0, 0, 0] ([0x12, 0x60, 10, 0] ++ rest))
    ∧ (ready → ∃ rest, Responds s (.getMeasurements ⟨255, none⟩) [0x12, 0xE0, 0, 0xFF] ([0x12, 0x60, 0, 0, 10] ++ rest))
    ∧ (∀ i, ready → 10 < i → i ≠ 255 → Responds s (.getMeasurements ⟨i, none⟩) [0x12, 0xE0, 0, BitVec.ofNat 8 i] [0x12, 0x7F, 1, 0])
    ∧ (¬ready → ∀ p ∈ ([(.getDigests, [0x12, 0x81, 0, 0]), (.getCertificate 0 0, [0x12, 0x82, 0, 0, 0, 0, 0, 0]), (.challenge 0, [0x12, 0x83, 0, 0] ++ leBytes 32 0),
      (.getMeasurements ⟨0, none⟩, [0x12, 0xE0, 0, 0])] : List (Instr × List Byte)), Responds s p.1 p.2 [0x12, 0x7F, 4, 0])
    ∧ ∀ code, Responds s (.unsupportedRequest code) [] [0x12, 0x7F, 7, BitVec.ofNat 8 code]

namespace Sys2Proof.Claims

/-- Nothing holds group `g` of a seat back, and it holds the line `x` of its PC, which passes its checks. -/
structure Plays (s : State) (core seat : Nat) (g : Group) (x : CodeLine) : Prop where
  seated : s.group? core seat = some g
  parked : (s.core core).parkedOps seat g.uid = []
  awake : g.wake ≤ s.now core
  quiet : g.mmx = [] ∧ g.wait = none
  free : s.tokenWaits core seat g = false ∧ (s.core core).kept seat g.uid = false
  region : g.region ≠ none ∨ s.regionFree core = true
  line : g.heldLine (s.now core) = some x
  checks : g.checkLine x = .ok

/-- Core `core` comes to issue from slot `slotOf g.pc` of the line `x` for group `g` of a seat: the quadrant is next in this cycle, and the seat holds its slot. -/
structure Comes (s : State) (core quad seat : Nat) (g : Group) (x : CodeLine) : Prop where
  stage : s.sched.stage = .issue
  cur : s.sched.cur = none
  next : s.nextQuad = some (core, quad)
  holds : (s.cycle % 4 ≠ 0 ∧ ((s.core core).quad quad).ended = false ∧ ∃ at_, ((s.core core).quad quad).holder = some (seat, at_))
    ∨ (s.cycle % 4 = 0 ∧ ((s.core core).quad quad).nextSeat = some seat)
  plays : Plays s core seat g x

/-- The quadrant comes once more at the end of the cycle's issue, for the `EVWAIT` of its group (R188). -/
structure ComesLate (s : State) (core quad seat : Nat) (g : Group) (x : CodeLine) : Prop where
  stage : s.sched.stage = .issue
  cur : s.sched.cur = none
  next : s.nextQuad = none
  late : s.sched.late.head? = some (core, quad)
  holds : ((s.core core).quad quad).ended = false ∧ ∃ at_, ((s.core core).quad quad).holder = some (seat, at_)
  plays : Plays s core seat g x

/-- From `s` to `t` the machine has only come to issue: no byte changes, no register, no PC, no other group; a group that waited for a
region id has one (R276). -/
structure OnlyComes (s t : State) (core quad seat : Nat) (g : Group) : Prop where
  issuer : t.sched.cur = some { core := core, quad := quad, seat := seat, snap := none }
  bytes : BytesKept s t
  seats : SeatsKept s t core seat
  cycle : t.cycle = s.cycle
  group : ∃ g', t.group? core seat = some g' ∧ GroupKept { g with region := g'.region } g' ∧ (g.region ≠ none → g'.region = g.region) ∧ AllRegsKept g g' ∧ g'.pc = g.pc

end Sys2Proof.Claims

/-- R43, R121, R122 and R130: a step runs what it has decoded. When a quadrant comes to issue and the slot at its group's PC, alone in its issue, holds the word of an
instruction, the step is `exec` of that instruction at the state as it stands; when the two slots of a pair hold two instructions, the step is `exec` of
the first, and the second is the next to run. An `EVWAIT` is put off to the end of the cycle's issue, and the step there is `exec` of it (R188). -/
def Sys2Proof.Claims.OneDecoded : Prop :=
  ∀ (s : State) (core quad seat : Nat) (g : Group) (x : CodeLine), Comes s core quad seat g x →
    (∀ i, (g.issuePcs x.bytes).length = 1 → decode (slotWord x.bytes (slotOf g.pc)) = .ok i → (∀ f, i ≠ .evwait f) →
      ∃ t, step s = exec i t ∧ t.sched.pair = s.sched.pair ∧ OnlyComes s t core quad seat g)
    ∧ (∀ i j c d, (g.issuePcs x.bytes).length ≠ 1 → g.decodeAt x.bytes = .two i j → g.region ≠ none →
      s.ctx? { core := core, quad := quad, seat := seat, snap := none } = some c →
      s.ctx? { core := core, quad := quad, seat := seat, snap := some (s.core core, s.owner (s.ownerOf core)) } = some d →
      x.checked = true → s.cycle % 4 ≠ 0 → precheck i c = none → precheck j d = none → s.ready i c = true → s.ready j d = true →
      ∃ t snap, step s = exec i t ∧ t.sched.pair = some (j, snap) ∧ OnlyComes s t core quad seat g)

/-- R188: at the end of the cycle's issue the step is `exec` of what the group that comes once more holds. -/
def Sys2Proof.Claims.LateDecoded : Prop :=
  ∀ (s : State) (core quad seat : Nat) (g : Group) (x : CodeLine) (i : Instr), ComesLate s core quad seat g x →
    (g.issuePcs x.bytes).length = 1 → decode (slotWord x.bytes (slotOf g.pc)) = .ok i →
      ∃ t, step s = exec i t ∧ t.sched.pair = s.sched.pair ∧ OnlyComes s t core quad seat g

/-- R44 and R122: the second instruction of a pair runs after the first, which has caused no trap and no fault and waits for no read before its effect, with the operands as they stood before it. -/
def Sys2Proof.Claims.PairHigher : Prop :=
  ∀ (s : State) (u : Issuing) (j : Instr) (c : Core) (o : Owner) (g0 g : Group), s.sched.stage = .issue → s.sched.cur = some u → s.sched.pair = some (j, (c, o)) →
    c.group? u.seat = some g0 → s.group? u.core u.seat = some g →
    ((g.uid = g0.uid ∧ g.handling = g0.handling ∧ (s.core u.core).faults.length = c.faults.length ∧ s.probing u.core g = false) →
      step s = exec j { s with sched := { s.sched with pair := none, cur := some { u with snap := some (c, o) } } })
    ∧ (¬(g.uid = g0.uid ∧ g.handling = g0.handling ∧ (s.core u.core).faults.length = c.faults.length ∧ s.probing u.core g = false) →
      step s = .next { s with sched := { s.sched with pair := none, cur := none } })

/-- R43, R44, R121, R122, R130 and R188: a step runs the instruction, or in turn the two instructions of a pair, that it has decoded. -/
def Obligations.StepRunsDecoded : Prop := OneDecoded ∧ LateDecoded ∧ PairHigher

namespace Sys2Proof.Claims

/-- A header without a guard. -/
def plainHdr (sub : BitVec 8) : Hdr := { sub := sub, guard := none, nwb := false }

/-- The words that the spec works out to the bit (R124, R131, R156, R179, R211, R223), each with the instruction that it stands for. -/
def workedWords : List (IWord × Instr) :=
  [(0x0100000000C0202000000000, .iadd { hdr := plainHdr 0, dst := .v 3, a := .v 1, b := .v 2, c := .v 0, ty := .s32, rm := .rn, sat := false, opt := 0 }),
   (0x320000000140603001800000, .fmul { hdr := plainHdr 0, dst := .v 5, a := .v 3, b := .v 3, c := .v 0, ty := .f32, rm := .rn, sat := false, opt := 0 }),
   (0x018000000180C00000000001, .iaddImm { hdr := plainHdr 0x80, dst := .v 6, a := .v 6, b := .v 0, ty := .s32, imm := 1 }),
   (0x600081010000000007FFFFFD, .bra { hdr := { sub := 0, guard := some { reg := .s 2, bit := 0, neg := false }, nwb := false }, dst := .v 0, a := .v 0, b := .v 0,
                                       live := 0, jn := 0, off := 0x7FFFFFD }),
   (0x680000000000000000000000, .exit { hdr := plainHdr 0, dst := .v 0, a := .v 0, b := .v 0, live := 0, jn := 0, off := 0 }),
   (0x50000000010050900041B000, .cvt { hdr := plainHdr 0, dst := .v 4, a := .v 2, b := .s 9, c := .v 0, ty := .s32, rm := .sr, sat := false, opt := 0x1B000 }),
   (0x7D000000008080603A130008, .atcas { hdr := plainHdr 0, dst := .v 2, addr := .v 4, data := .v 6, c := .v 7, size := 2, sem := 1, hint := 3, off := 8 }),
   (0x9D00000050A110A003010000, .tld { hdr := plainHdr 0, dst := .h 2, a := .s 8, b := .s 10, c := .v 0, org := 0, fmta := 0xC, fmtb := 0, scs := 1, xmod := 0 }),
   (0xB00000000028543003300000, .mma { hdr := plainHdr 0, dst := .v 0, a := .h 2, b := .h 3, c := .v 0, org := 0, fmta := 0xC, fmtb := 0xC, scs := 0, xmod := 0 })]

end Sys2Proof.Claims

/-- R124, R125, R126 and R131: every word that the spec works out to the bit decodes to the instruction it stands for. -/
def Obligations.DecodeWords : Prop := ∀ p ∈ workedWords, decode p.1 = .ok p.2

/-- R116, R124, R131 and R132: decoding and encoding agree. The word of every well-formed instruction decodes to it, with every operand at every value that the encoding admits; and a
word that decodes is the word of what it decodes to, which is well-formed: no second word means the same. -/
def Obligations.DecodeEncode : Prop :=
  (∀ (i : Instr) (r : Row), row? i = some r → i.wf = true → decode (encode i) = .ok i)
    ∧ ∀ (w : IWord) (i : Instr), decode w = .ok i → encode i = w ∧ i.wf = true ∧ (row? i).isSome = true

/-- R15, R23, R308, R309, R337, R351: the machine right after cold reset. The turn table is all house in force and for the next session, no owner is admitted, no core holds a
team, the L2 holds no line, the link remap generation is zero, and the time base and the cycle count begin. (That the device stands READY is the model's choice:
notes/assumptions/7.md.) -/
def Obligations.ResetValues : Prop :=
  let s := State.reset
  s.mgmt.table = 0xFFFFFFFFFFFFFFFF ∧ s.mgmt.nextTable = 0xFFFFFFFFFFFFFFFF ∧ s.mgmt.gtime = 0 ∧ s.cycle = 0 ∧ s.mgmt.bringup = .ready ∧ s.mgmt.switch = none
    ∧ (∀ k, (s.owner k).admitted = false ∧ (s.owner k).resident = false ∧ (s.owner k).oclk = 0) ∧ (∀ n, (s.core n).team = none) ∧ (∀ n x, s.group? n x = none) ∧ s.l2 = []
    ∧ s.fab.gen = 0 ∧ s.fab.lost = [] ∧ s.fab.dead = [] ∧ (∀ n slot, sget 0 ((s.core n).slots.map (fun p => (p.1, p.2.gen.toNat))) slot = 0)

namespace Sys2Proof.Claims

/-- The numbers of a table strictly rise. -/
def Rising {α : Type} (m : Map α) : Prop := m.Pairwise (fun a b => a.1 < b.1)

/-- The form of a core: its scratchpad is in canonical form, its seats rise, and a group has at most one thread in a lane. -/
def CoreForm (c : Core) : Prop :=
  c.sp.wf = true ∧ Rising c.seats ∧ ∀ x g, c.group? x = some g → g.lanes.Nodup

/-- The form of an owner: that of the cores which it has saved, by their numbers. -/
def OwnerForm (o : Owner) : Prop := Rising o.saved ∧ ∀ p ∈ o.saved, CoreForm p.2

/-- The form of the machine: device memory and host memory are in canonical form, owners and cores stand by their numbers, each in its form, and so do a core and
an owner as they stood before the pair that issues. -/
def Form (s : State) : Prop :=
  s.mem.wf = true ∧ s.host.wf = true ∧ Rising s.cores ∧ Rising s.owners ∧ (∀ p ∈ s.cores, CoreForm p.2) ∧ (∀ p ∈ s.owners, OwnerForm p.2)
    ∧ (∀ u x, s.sched.cur = some u → u.snap = some x → CoreForm x.1 ∧ OwnerForm x.2) ∧ ∀ i x, s.sched.pair = some (i, x) → CoreForm x.1 ∧ OwnerForm x.2

end Sys2Proof.Claims

/-- The machine has its form after reset. -/
def Obligations.FormAtReset : Prop := Form State.reset

/-- Every step keeps the form of the machine: the canonical form of all memories (equal memories are equal data), owners, cores and seats by their numbers, and at most
one thread in a lane of a group. -/
def Obligations.FormKept : Prop := ∀ s t : State, Form s → step s = .next t → Form t
end

