-- ==== Sys2Proof/Laws/Map.lean ====
section
/-! SUPPORT. The laws of tables, sparse stores and memory: what a read gives after a write, and that every operation of memory keeps the canonical
form. -/

namespace Sys2Proof.Machine

/-! ### Tables -/

@[simp] theorem mget_mset {α : Type} (m : Map α) (k j : Nat) (v : α) : mget (mset m k v) j = if k = j then some v else mget m j := by
  induction m with
  | nil => simp [mset, mget]
  | cons p t ih =>
    obtain ⟨i, w⟩ := p
    simp only [mset]
    split
    · simp only [mget]
    · split
      · rename_i h
        subst h
        simp only [mget]
        split <;> rfl
      · rename_i h1 h2
        simp only [mget, ih]
        split
        · rename_i h3
          subst h3
          simp [h2]
        · rfl

theorem mget_mset_ne {α : Type} (m : Map α) (k j : Nat) (v : α) (h : k ≠ j) : mget (mset m k v) j = mget m j := by simp [h]

@[simp] theorem mget_mdel {α : Type} (m : Map α) (k j : Nat) : mget (mdel m k) j = if k = j then none else mget m j := by
  induction m with
  | nil => simp [mdel, mget]
  | cons p t ih =>
    obtain ⟨i, w⟩ := p
    simp only [mdel] at ih ⊢
    by_cases hi : i = k
    · subst hi
      simp only [List.filter, bne_self_eq_false, ih, mget]
      split <;> rfl
    · have : (i != k) = true := by simp [hi]
      simp only [List.filter, this, mget, ih]
      split
      · rename_i h
        subst h
        simp [Ne.symm hi]
      · rfl

@[simp] theorem mget_mmod {α : Type} (m : Map α) (k j : Nat) (f : α → α) :
    mget (mmod m k f) j = if k = j then (mget m j).map f else mget m j := by
  induction m with
  | nil => simp [mmod, mget]
  | cons p t ih =>
    obtain ⟨i, w⟩ := p
    simp only [mmod, List.map] at ih ⊢
    by_cases hi : i = k
    · subst hi
      simp only [if_pos, mget, ih]
      split <;> simp_all
    · simp only [if_neg hi, mget, ih]
      split
      · rename_i h
        subst h
        simp [Ne.symm hi]
      · rfl

/-! ### Sparse stores -/

theorem sget_eq_mget {α : Type} (d : α) (m : List (Nat × α)) (k : Nat) : sget d m k = (mget m k).getD d := by
  induction m with
  | nil => rfl
  | cons p t ih =>
    obtain ⟨i, w⟩ := p
    simp only [sget, mget, ih]
    split <;> rfl

@[simp] theorem sget_sset {α : Type} [DecidableEq α] (d : α) (m : List (Nat × α)) (k j : Nat) (v : α) :
    sget d (sset d m k v) j = if k = j then v else sget d m j := by
  simp only [sset, sget_eq_mget]
  split
  · rename_i h
    subst h
    rw [mget_mdel]
    split <;> rfl
  · rw [mget_mset]
    split <;> rfl

/-! ### The canonical form -/

/-- Indexes strictly rise. -/
def rising {α : Type} (m : List (Nat × α)) : Prop := m.Pairwise (fun a b => a.1 < b.1)

theorem swf_iff {α : Type} [DecidableEq α] (d : α) (m : List (Nat × α)) : swf d m = true ↔ rising m ∧ ∀ p ∈ m, p.2 ≠ d := by
  induction m with
  | nil => simp [swf, rising]
  | cons p t ih =>
    obtain ⟨i, w⟩ := p
    cases t with
    | nil => simp [swf, rising]
    | cons q u =>
      obtain ⟨k, x⟩ := q
      simp only [swf, Bool.and_eq_true, bne_iff_ne, decide_eq_true_eq, ih, rising, List.pairwise_cons, List.mem_cons, forall_eq_or_imp]
      constructor
      · rintro ⟨⟨hw, hik⟩, ⟨hk, hu⟩, hx, hd⟩
        exact ⟨⟨⟨hik, fun a ha => Nat.lt_trans hik (hk a ha)⟩, hk, hu⟩, hw, hx, hd⟩
      · rintro ⟨⟨⟨hik, _⟩, hk, hu⟩, hw, hx, hd⟩
        exact ⟨⟨hw, hik⟩, ⟨hk, hu⟩, hx, hd⟩

theorem mem_mset {α : Type} (m : Map α) (k : Nat) (v : α) (p : Nat × α) (h : p ∈ mset m k v) : p = (k, v) ∨ p ∈ m := by
  induction m with
  | nil => simpa [mset] using h
  | cons q t ih =>
    obtain ⟨i, w⟩ := q
    simp only [mset] at h
    split at h
    · simpa using h
    · split at h
      · rcases List.mem_cons.1 h with h | h
        · exact .inl h
        · exact .inr (List.mem_cons_of_mem _ h)
      · rcases List.mem_cons.1 h with h | h
        · exact .inr (by simp [h])
        · rcases ih h with h | h
          · exact .inl h
          · exact .inr (List.mem_cons_of_mem _ h)

theorem rising_mset {α : Type} (m : Map α) (k : Nat) (v : α) (h : rising m) : rising (mset m k v) := by
  induction m with
  | nil => simp [mset, rising]
  | cons q t ih =>
    obtain ⟨i, w⟩ := q
    simp only [rising, List.pairwise_cons] at h
    simp only [mset]
    split
    · rename_i hk
      simp only [rising, List.pairwise_cons, List.mem_cons, forall_eq_or_imp]
      exact ⟨⟨hk, fun a ha => Nat.lt_trans hk (h.1 a ha)⟩, h.1, h.2⟩
    · split
      · rename_i hk
        subst hk
        exact List.pairwise_cons.2 ⟨h.1, h.2⟩
      · rename_i h1 h2
        refine List.pairwise_cons.2 ⟨fun a ha => ?_, ih h.2⟩
        rcases mem_mset t k v a ha with ha | ha
        · subst ha
          show i < k
          omega
        · exact h.1 a ha

theorem sset_swf {α : Type} [DecidableEq α] (d : α) (m : List (Nat × α)) (k : Nat) (v : α) (h : swf d m = true) : swf d (sset d m k v) = true := by
  rw [swf_iff] at h ⊢
  simp only [sset]
  split
  · exact ⟨h.1.filter _, fun p hp => h.2 p (List.mem_filter.1 hp).1⟩
  · rename_i hv
    refine ⟨rising_mset m k v h.1, fun p hp => ?_⟩
    rcases mem_mset m k v p hp with hp | hp
    · subst hp
      exact hv
    · exact h.2 p hp

theorem swrite_swf {α : Type} [DecidableEq α] (d : α) (m : List (Nat × α)) (k : Nat) (vs : List α) (h : swf d m = true) :
    swf d (swrite d m k vs) = true := by
  induction vs generalizing m k with
  | nil => exact h
  | cons v vs ih => exact ih _ _ (sset_swf d m k v h)

/-! ### Memory -/

theorem Memory.read_write (m : Memory) (a b : Nat) (x : Byte) : (m.write a x).read b = if a = b then x else m.read b := sget_sset _ _ _ _ _

theorem Memory.write_wf (m : Memory) (a : Nat) (x : Byte) (h : m.wf = true) : (m.write a x).wf = true := sset_swf _ _ _ _ h

theorem Memory.read_writeN (m : Memory) (a b : Nat) (bs : List Byte) :
    (m.writeN a bs).read b = if a ≤ b ∧ b < a + bs.length then (bs[b - a]?).getD 0 else m.read b := by
  induction bs generalizing m a with
  | nil => simp [Memory.writeN] <;> omega
  | cons x xs ih =>
    simp only [Memory.writeN, ih, Memory.read_write, List.length_cons]
    by_cases h1 : a = b
    · subst h1
      rw [if_neg (by omega), if_pos rfl, if_pos (by omega)]
      simp
    · by_cases h2 : a ≤ b ∧ b < a + (xs.length + 1)
      · have h3 : a + 1 ≤ b ∧ b < a + 1 + xs.length := by omega
        have h4 : b - a = (b - (a + 1)) + 1 := by omega
        rw [if_pos h2, if_pos h3, h4, List.getElem?_cons_succ]
      · have h3 : ¬(a + 1 ≤ b ∧ b < a + 1 + xs.length) := by omega
        rw [if_neg h2, if_neg h3, if_neg h1]

/-- A write of bytes leaves every byte outside them as it was. -/
theorem Memory.read_writeN_out (m : Memory) (a b : Nat) (bs : List Byte) (h : b < a ∨ a + bs.length ≤ b) : (m.writeN a bs).read b = m.read b := by
  rw [Memory.read_writeN, if_neg (by omega)]

theorem Memory.writeN_wf (m : Memory) (a : Nat) (bs : List Byte) (h : m.wf = true) : (m.writeN a bs).wf = true := by
  induction bs generalizing m a with
  | nil => exact h
  | cons x xs ih => exact ih _ _ (Memory.write_wf m a x h)

theorem Memory.writeMask_wf (m : Memory) (a : Nat) (bs : MaskedLine) (h : m.wf = true) : (m.writeMask a bs).wf = true := by
  induction bs generalizing m a with
  | nil => exact h
  | cons x xs ih => exact ih _ _ (Memory.write_wf m _ _ h)

theorem Memory.writeMask_out (m : Memory) (a b : Nat) (bs : MaskedLine) (h : ∀ x ∈ bs, a + x.off ≠ b) : (m.writeMask a bs).read b = m.read b := by
  induction bs generalizing m with
  | nil => rfl
  | cons x xs ih =>
    rw [Memory.writeMask, ih _ (fun y hy => h y (List.mem_cons_of_mem _ hy)), Memory.read_write, if_neg (h x (by simp))]

/-- What was written is read back, byte for byte. -/
theorem Memory.readN_writeN (m : Memory) (a : Nat) (bs : List Byte) : (m.writeN a bs).readN a bs.length = bs := by
  suffices h : ∀ (n : Memory) (c : Nat) (xs : List Byte), (∀ i, i < xs.length → n.read (c + i) = (xs[i]?).getD 0) → n.readN c xs.length = xs by
    exact h _ _ _ (fun i hi => by rw [Memory.read_writeN, if_pos (by omega), Nat.add_sub_cancel_left])
  intro n c xs hx
  induction xs generalizing c with
  | nil => rfl
  | cons x xs ih =>
    have h0 := hx 0 (by simp)
    simp only [Nat.add_zero, List.getElem?_cons_zero, Option.getD_some] at h0
    rw [List.length_cons, Memory.readN, h0, ih (c + 1) (fun i hi => by
      have h := hx (i + 1) (by simpa using hi)
      rw [List.getElem?_cons_succ] at h
      rw [Nat.add_assoc, Nat.add_comm 1 i, h])]

end Sys2Proof.Machine
end

