-- ==== Sys2Proof/Laws/State.lean ====
section
/-! SUPPORT. The laws of the state's parts: what each update of an owner, a core, a quadrant, a group or a register leaves, field by field, and what
is read after it. -/

namespace Sys2Proof.Machine

/-! ### Fields of the state -/

@[simp] theorem State.setOwner_cycle (s : State) (k : Nat) (o : Owner) : (s.setOwner k o).cycle = s.cycle := rfl
@[simp] theorem State.setOwner_sched (s : State) (k : Nat) (o : Owner) : (s.setOwner k o).sched = s.sched := rfl
@[simp] theorem State.setOwner_mgmt (s : State) (k : Nat) (o : Owner) : (s.setOwner k o).mgmt = s.mgmt := rfl
@[simp] theorem State.setOwner_cores (s : State) (k : Nat) (o : Owner) : (s.setOwner k o).cores = s.cores := rfl
@[simp] theorem State.setOwner_l2 (s : State) (k : Nat) (o : Owner) : (s.setOwner k o).l2 = s.l2 := rfl
@[simp] theorem State.setOwner_hbm (s : State) (k : Nat) (o : Owner) : (s.setOwner k o).hbm = s.hbm := rfl
@[simp] theorem State.setOwner_walks (s : State) (k : Nat) (o : Owner) : (s.setOwner k o).walks = s.walks := rfl
@[simp] theorem State.setOwner_mem (s : State) (k : Nat) (o : Owner) : (s.setOwner k o).mem = s.mem := rfl
@[simp] theorem State.setOwner_host (s : State) (k : Nat) (o : Owner) : (s.setOwner k o).host = s.host := rfl
@[simp] theorem State.setOwner_races (s : State) (k : Nat) (o : Owner) : (s.setOwner k o).races = s.races := rfl
@[simp] theorem State.setOwner_errors (s : State) (k : Nat) (o : Owner) : (s.setOwner k o).errors = s.errors := rfl
@[simp] theorem State.setOwner_fab (s : State) (k : Nat) (o : Owner) : (s.setOwner k o).fab = s.fab := rfl
@[simp] theorem State.setOwner_inbox (s : State) (k : Nat) (o : Owner) : (s.setOwner k o).inbox = s.inbox := rfl
@[simp] theorem State.setOwner_outbox (s : State) (k : Nat) (o : Owner) : (s.setOwner k o).outbox = s.outbox := rfl
@[simp] theorem State.setOwner_free (s : State) (k : Nat) (o : Owner) : (s.setOwner k o).free = s.free := rfl
@[simp] theorem State.modOwner_cycle (s : State) (k : Nat) (f : Owner → Owner) : (s.modOwner k f).cycle = s.cycle := rfl
@[simp] theorem State.modOwner_sched (s : State) (k : Nat) (f : Owner → Owner) : (s.modOwner k f).sched = s.sched := rfl
@[simp] theorem State.modOwner_mgmt (s : State) (k : Nat) (f : Owner → Owner) : (s.modOwner k f).mgmt = s.mgmt := rfl
@[simp] theorem State.modOwner_cores (s : State) (k : Nat) (f : Owner → Owner) : (s.modOwner k f).cores = s.cores := rfl
@[simp] theorem State.modOwner_l2 (s : State) (k : Nat) (f : Owner → Owner) : (s.modOwner k f).l2 = s.l2 := rfl
@[simp] theorem State.modOwner_hbm (s : State) (k : Nat) (f : Owner → Owner) : (s.modOwner k f).hbm = s.hbm := rfl
@[simp] theorem State.modOwner_walks (s : State) (k : Nat) (f : Owner → Owner) : (s.modOwner k f).walks = s.walks := rfl
@[simp] theorem State.modOwner_mem (s : State) (k : Nat) (f : Owner → Owner) : (s.modOwner k f).mem = s.mem := rfl
@[simp] theorem State.modOwner_host (s : State) (k : Nat) (f : Owner → Owner) : (s.modOwner k f).host = s.host := rfl
@[simp] theorem State.modOwner_races (s : State) (k : Nat) (f : Owner → Owner) : (s.modOwner k f).races = s.races := rfl
@[simp] theorem State.modOwner_errors (s : State) (k : Nat) (f : Owner → Owner) : (s.modOwner k f).errors = s.errors := rfl
@[simp] theorem State.modOwner_fab (s : State) (k : Nat) (f : Owner → Owner) : (s.modOwner k f).fab = s.fab := rfl
@[simp] theorem State.modOwner_inbox (s : State) (k : Nat) (f : Owner → Owner) : (s.modOwner k f).inbox = s.inbox := rfl
@[simp] theorem State.modOwner_outbox (s : State) (k : Nat) (f : Owner → Owner) : (s.modOwner k f).outbox = s.outbox := rfl
@[simp] theorem State.modOwner_free (s : State) (k : Nat) (f : Owner → Owner) : (s.modOwner k f).free = s.free := rfl
@[simp] theorem State.setCore_cycle (s : State) (n : Nat) (c : Core) : (s.setCore n c).cycle = s.cycle := rfl
@[simp] theorem State.setCore_sched (s : State) (n : Nat) (c : Core) : (s.setCore n c).sched = s.sched := rfl
@[simp] theorem State.setCore_mgmt (s : State) (n : Nat) (c : Core) : (s.setCore n c).mgmt = s.mgmt := rfl
@[simp] theorem State.setCore_owners (s : State) (n : Nat) (c : Core) : (s.setCore n c).owners = s.owners := rfl
@[simp] theorem State.setCore_l2 (s : State) (n : Nat) (c : Core) : (s.setCore n c).l2 = s.l2 := rfl
@[simp] theorem State.setCore_hbm (s : State) (n : Nat) (c : Core) : (s.setCore n c).hbm = s.hbm := rfl
@[simp] theorem State.setCore_walks (s : State) (n : Nat) (c : Core) : (s.setCore n c).walks = s.walks := rfl
@[simp] theorem State.setCore_mem (s : State) (n : Nat) (c : Core) : (s.setCore n c).mem = s.mem := rfl
@[simp] theorem State.setCore_host (s : State) (n : Nat) (c : Core) : (s.setCore n c).host = s.host := rfl
@[simp] theorem State.setCore_races (s : State) (n : Nat) (c : Core) : (s.setCore n c).races = s.races := rfl
@[simp] theorem State.setCore_errors (s : State) (n : Nat) (c : Core) : (s.setCore n c).errors = s.errors := rfl
@[simp] theorem State.setCore_fab (s : State) (n : Nat) (c : Core) : (s.setCore n c).fab = s.fab := rfl
@[simp] theorem State.setCore_inbox (s : State) (n : Nat) (c : Core) : (s.setCore n c).inbox = s.inbox := rfl
@[simp] theorem State.setCore_outbox (s : State) (n : Nat) (c : Core) : (s.setCore n c).outbox = s.outbox := rfl
@[simp] theorem State.setCore_free (s : State) (n : Nat) (c : Core) : (s.setCore n c).free = s.free := rfl
@[simp] theorem State.modCore_cycle (s : State) (n : Nat) (f : Core → Core) : (s.modCore n f).cycle = s.cycle := rfl
@[simp] theorem State.modCore_sched (s : State) (n : Nat) (f : Core → Core) : (s.modCore n f).sched = s.sched := rfl
@[simp] theorem State.modCore_mgmt (s : State) (n : Nat) (f : Core → Core) : (s.modCore n f).mgmt = s.mgmt := rfl
@[simp] theorem State.modCore_owners (s : State) (n : Nat) (f : Core → Core) : (s.modCore n f).owners = s.owners := rfl
@[simp] theorem State.modCore_l2 (s : State) (n : Nat) (f : Core → Core) : (s.modCore n f).l2 = s.l2 := rfl
@[simp] theorem State.modCore_hbm (s : State) (n : Nat) (f : Core → Core) : (s.modCore n f).hbm = s.hbm := rfl
@[simp] theorem State.modCore_walks (s : State) (n : Nat) (f : Core → Core) : (s.modCore n f).walks = s.walks := rfl
@[simp] theorem State.modCore_mem (s : State) (n : Nat) (f : Core → Core) : (s.modCore n f).mem = s.mem := rfl
@[simp] theorem State.modCore_host (s : State) (n : Nat) (f : Core → Core) : (s.modCore n f).host = s.host := rfl
@[simp] theorem State.modCore_races (s : State) (n : Nat) (f : Core → Core) : (s.modCore n f).races = s.races := rfl
@[simp] theorem State.modCore_errors (s : State) (n : Nat) (f : Core → Core) : (s.modCore n f).errors = s.errors := rfl
@[simp] theorem State.modCore_fab (s : State) (n : Nat) (f : Core → Core) : (s.modCore n f).fab = s.fab := rfl
@[simp] theorem State.modCore_inbox (s : State) (n : Nat) (f : Core → Core) : (s.modCore n f).inbox = s.inbox := rfl
@[simp] theorem State.modCore_outbox (s : State) (n : Nat) (f : Core → Core) : (s.modCore n f).outbox = s.outbox := rfl
@[simp] theorem State.modCore_free (s : State) (n : Nat) (f : Core → Core) : (s.modCore n f).free = s.free := rfl
@[simp] theorem State.modGroup_cycle (s : State) (n seat : Nat) (f : Group → Group) : (s.modGroup n seat f).cycle = s.cycle := rfl
@[simp] theorem State.modGroup_sched (s : State) (n seat : Nat) (f : Group → Group) : (s.modGroup n seat f).sched = s.sched := rfl
@[simp] theorem State.modGroup_mgmt (s : State) (n seat : Nat) (f : Group → Group) : (s.modGroup n seat f).mgmt = s.mgmt := rfl
@[simp] theorem State.modGroup_owners (s : State) (n seat : Nat) (f : Group → Group) : (s.modGroup n seat f).owners = s.owners := rfl
@[simp] theorem State.modGroup_l2 (s : State) (n seat : Nat) (f : Group → Group) : (s.modGroup n seat f).l2 = s.l2 := rfl
@[simp] theorem State.modGroup_hbm (s : State) (n seat : Nat) (f : Group → Group) : (s.modGroup n seat f).hbm = s.hbm := rfl
@[simp] theorem State.modGroup_walks (s : State) (n seat : Nat) (f : Group → Group) : (s.modGroup n seat f).walks = s.walks := rfl
@[simp] theorem State.modGroup_mem (s : State) (n seat : Nat) (f : Group → Group) : (s.modGroup n seat f).mem = s.mem := rfl
@[simp] theorem State.modGroup_host (s : State) (n seat : Nat) (f : Group → Group) : (s.modGroup n seat f).host = s.host := rfl
@[simp] theorem State.modGroup_races (s : State) (n seat : Nat) (f : Group → Group) : (s.modGroup n seat f).races = s.races := rfl
@[simp] theorem State.modGroup_errors (s : State) (n seat : Nat) (f : Group → Group) : (s.modGroup n seat f).errors = s.errors := rfl
@[simp] theorem State.modGroup_fab (s : State) (n seat : Nat) (f : Group → Group) : (s.modGroup n seat f).fab = s.fab := rfl
@[simp] theorem State.modGroup_inbox (s : State) (n seat : Nat) (f : Group → Group) : (s.modGroup n seat f).inbox = s.inbox := rfl
@[simp] theorem State.modGroup_outbox (s : State) (n seat : Nat) (f : Group → Group) : (s.modGroup n seat f).outbox = s.outbox := rfl
@[simp] theorem State.modGroup_free (s : State) (n seat : Nat) (f : Group → Group) : (s.modGroup n seat f).free = s.free := rfl
@[simp] theorem State.modQuad_cycle (s : State) (n q : Nat) (f : Quad → Quad) : (s.modQuad n q f).cycle = s.cycle := rfl
@[simp] theorem State.modQuad_sched (s : State) (n q : Nat) (f : Quad → Quad) : (s.modQuad n q f).sched = s.sched := rfl
@[simp] theorem State.modQuad_mgmt (s : State) (n q : Nat) (f : Quad → Quad) : (s.modQuad n q f).mgmt = s.mgmt := rfl
@[simp] theorem State.modQuad_owners (s : State) (n q : Nat) (f : Quad → Quad) : (s.modQuad n q f).owners = s.owners := rfl
@[simp] theorem State.modQuad_l2 (s : State) (n q : Nat) (f : Quad → Quad) : (s.modQuad n q f).l2 = s.l2 := rfl
@[simp] theorem State.modQuad_hbm (s : State) (n q : Nat) (f : Quad → Quad) : (s.modQuad n q f).hbm = s.hbm := rfl
@[simp] theorem State.modQuad_walks (s : State) (n q : Nat) (f : Quad → Quad) : (s.modQuad n q f).walks = s.walks := rfl
@[simp] theorem State.modQuad_mem (s : State) (n q : Nat) (f : Quad → Quad) : (s.modQuad n q f).mem = s.mem := rfl
@[simp] theorem State.modQuad_host (s : State) (n q : Nat) (f : Quad → Quad) : (s.modQuad n q f).host = s.host := rfl
@[simp] theorem State.modQuad_races (s : State) (n q : Nat) (f : Quad → Quad) : (s.modQuad n q f).races = s.races := rfl
@[simp] theorem State.modQuad_errors (s : State) (n q : Nat) (f : Quad → Quad) : (s.modQuad n q f).errors = s.errors := rfl
@[simp] theorem State.modQuad_fab (s : State) (n q : Nat) (f : Quad → Quad) : (s.modQuad n q f).fab = s.fab := rfl
@[simp] theorem State.modQuad_inbox (s : State) (n q : Nat) (f : Quad → Quad) : (s.modQuad n q f).inbox = s.inbox := rfl
@[simp] theorem State.modQuad_outbox (s : State) (n q : Nat) (f : Quad → Quad) : (s.modQuad n q f).outbox = s.outbox := rfl
@[simp] theorem State.modQuad_free (s : State) (n q : Nat) (f : Quad → Quad) : (s.modQuad n q f).free = s.free := rfl
@[simp] theorem State.modTeam_cycle (s : State) (n : Nat) (f : Team → Team) : (s.modTeam n f).cycle = s.cycle := rfl
@[simp] theorem State.modTeam_sched (s : State) (n : Nat) (f : Team → Team) : (s.modTeam n f).sched = s.sched := rfl
@[simp] theorem State.modTeam_mgmt (s : State) (n : Nat) (f : Team → Team) : (s.modTeam n f).mgmt = s.mgmt := rfl
@[simp] theorem State.modTeam_owners (s : State) (n : Nat) (f : Team → Team) : (s.modTeam n f).owners = s.owners := rfl
@[simp] theorem State.modTeam_l2 (s : State) (n : Nat) (f : Team → Team) : (s.modTeam n f).l2 = s.l2 := rfl
@[simp] theorem State.modTeam_hbm (s : State) (n : Nat) (f : Team → Team) : (s.modTeam n f).hbm = s.hbm := rfl
@[simp] theorem State.modTeam_walks (s : State) (n : Nat) (f : Team → Team) : (s.modTeam n f).walks = s.walks := rfl
@[simp] theorem State.modTeam_mem (s : State) (n : Nat) (f : Team → Team) : (s.modTeam n f).mem = s.mem := rfl
@[simp] theorem State.modTeam_host (s : State) (n : Nat) (f : Team → Team) : (s.modTeam n f).host = s.host := rfl
@[simp] theorem State.modTeam_races (s : State) (n : Nat) (f : Team → Team) : (s.modTeam n f).races = s.races := rfl
@[simp] theorem State.modTeam_errors (s : State) (n : Nat) (f : Team → Team) : (s.modTeam n f).errors = s.errors := rfl
@[simp] theorem State.modTeam_fab (s : State) (n : Nat) (f : Team → Team) : (s.modTeam n f).fab = s.fab := rfl
@[simp] theorem State.modTeam_inbox (s : State) (n : Nat) (f : Team → Team) : (s.modTeam n f).inbox = s.inbox := rfl
@[simp] theorem State.modTeam_outbox (s : State) (n : Nat) (f : Team → Team) : (s.modTeam n f).outbox = s.outbox := rfl
@[simp] theorem State.modTeam_free (s : State) (n : Nat) (f : Team → Team) : (s.modTeam n f).free = s.free := rfl

/-! ### Fields of a core -/

@[simp] theorem Core.setQuad_owner (c : Core) (q : Nat) (x : Quad) : (c.setQuad q x).owner = c.owner := rfl
@[simp] theorem Core.setQuad_team (c : Core) (q : Nat) (x : Quad) : (c.setQuad q x).team = c.team := rfl
@[simp] theorem Core.setQuad_seats (c : Core) (q : Nat) (x : Quad) : (c.setQuad q x).seats = c.seats := rfl
@[simp] theorem Core.setQuad_sp (c : Core) (q : Nat) (x : Quad) : (c.setQuad q x).sp = c.sp := rfl
@[simp] theorem Core.setQuad_spEmpty (c : Core) (q : Nat) (x : Quad) : (c.setQuad q x).spEmpty = c.spEmpty := rfl
@[simp] theorem Core.setQuad_before (c : Core) (q : Nat) (x : Quad) : (c.setQuad q x).before = c.before := rfl
@[simp] theorem Core.setQuad_spRace (c : Core) (q : Nat) (x : Quad) : (c.setQuad q x).spRace = c.spRace := rfl
@[simp] theorem Core.setQuad_spBad (c : Core) (q : Nat) (x : Quad) : (c.setQuad q x).spBad = c.spBad := rfl
@[simp] theorem Core.setQuad_spRaceBad (c : Core) (q : Nat) (x : Quad) : (c.setQuad q x).spRaceBad = c.spRaceBad := rfl
@[simp] theorem Core.setQuad_slots (c : Core) (q : Nat) (x : Quad) : (c.setQuad q x).slots = c.slots := rfl
@[simp] theorem Core.setQuad_l1 (c : Core) (q : Nat) (x : Quad) : (c.setQuad q x).l1 = c.l1 := rfl
@[simp] theorem Core.setQuad_tlb (c : Core) (q : Nat) (x : Quad) : (c.setQuad q x).tlb = c.tlb := rfl
@[simp] theorem Core.setQuad_wc (c : Core) (q : Nat) (x : Quad) : (c.setQuad q x).wc = c.wc := rfl
@[simp] theorem Core.setQuad_rwc (c : Core) (q : Nat) (x : Quad) : (c.setQuad q x).rwc = c.rwc := rfl
@[simp] theorem Core.setQuad_ops (c : Core) (q : Nat) (x : Quad) : (c.setQuad q x).ops = c.ops := rfl
@[simp] theorem Core.setQuad_nextOp (c : Core) (q : Nat) (x : Quad) : (c.setQuad q x).nextOp = c.nextOp := rfl
@[simp] theorem Core.setQuad_nextUid (c : Core) (q : Nat) (x : Quad) : (c.setQuad q x).nextUid = c.nextUid := rfl
@[simp] theorem Core.setQuad_useClock (c : Core) (q : Nat) (x : Quad) : (c.setQuad q x).useClock = c.useClock := rfl
@[simp] theorem Core.setQuad_injected (c : Core) (q : Nat) (x : Quad) : (c.setQuad q x).injected = c.injected := rfl
@[simp] theorem Core.setQuad_copyLast (c : Core) (q : Nat) (x : Quad) : (c.setQuad q x).copyLast = c.copyLast := rfl
@[simp] theorem Core.setQuad_demands (c : Core) (q : Nat) (x : Quad) : (c.setQuad q x).demands = c.demands := rfl
@[simp] theorem Core.setQuad_mailWaits (c : Core) (q : Nat) (x : Quad) : (c.setQuad q x).mailWaits = c.mailWaits := rfl
@[simp] theorem Core.setQuad_halt (c : Core) (q : Nat) (x : Quad) : (c.setQuad q x).halt = c.halt := rfl
@[simp] theorem Core.setQuad_faults (c : Core) (q : Nat) (x : Quad) : (c.setQuad q x).faults = c.faults := rfl
@[simp] theorem Core.setQuad_dumpbase (c : Core) (q : Nat) (x : Quad) : (c.setQuad q x).dumpbase = c.dumpbase := rfl
@[simp] theorem Core.setQuad_haltDue (c : Core) (q : Nat) (x : Quad) : (c.setQuad q x).haltDue = c.haltDue := rfl
@[simp] theorem Core.modQuad_owner (c : Core) (q : Nat) (f : Quad → Quad) : (c.modQuad q f).owner = c.owner := rfl
@[simp] theorem Core.modQuad_team (c : Core) (q : Nat) (f : Quad → Quad) : (c.modQuad q f).team = c.team := rfl
@[simp] theorem Core.modQuad_seats (c : Core) (q : Nat) (f : Quad → Quad) : (c.modQuad q f).seats = c.seats := rfl
@[simp] theorem Core.modQuad_sp (c : Core) (q : Nat) (f : Quad → Quad) : (c.modQuad q f).sp = c.sp := rfl
@[simp] theorem Core.modQuad_spEmpty (c : Core) (q : Nat) (f : Quad → Quad) : (c.modQuad q f).spEmpty = c.spEmpty := rfl
@[simp] theorem Core.modQuad_before (c : Core) (q : Nat) (f : Quad → Quad) : (c.modQuad q f).before = c.before := rfl
@[simp] theorem Core.modQuad_spRace (c : Core) (q : Nat) (f : Quad → Quad) : (c.modQuad q f).spRace = c.spRace := rfl
@[simp] theorem Core.modQuad_spBad (c : Core) (q : Nat) (f : Quad → Quad) : (c.modQuad q f).spBad = c.spBad := rfl
@[simp] theorem Core.modQuad_spRaceBad (c : Core) (q : Nat) (f : Quad → Quad) : (c.modQuad q f).spRaceBad = c.spRaceBad := rfl
@[simp] theorem Core.modQuad_slots (c : Core) (q : Nat) (f : Quad → Quad) : (c.modQuad q f).slots = c.slots := rfl
@[simp] theorem Core.modQuad_l1 (c : Core) (q : Nat) (f : Quad → Quad) : (c.modQuad q f).l1 = c.l1 := rfl
@[simp] theorem Core.modQuad_tlb (c : Core) (q : Nat) (f : Quad → Quad) : (c.modQuad q f).tlb = c.tlb := rfl
@[simp] theorem Core.modQuad_wc (c : Core) (q : Nat) (f : Quad → Quad) : (c.modQuad q f).wc = c.wc := rfl
@[simp] theorem Core.modQuad_rwc (c : Core) (q : Nat) (f : Quad → Quad) : (c.modQuad q f).rwc = c.rwc := rfl
@[simp] theorem Core.modQuad_ops (c : Core) (q : Nat) (f : Quad → Quad) : (c.modQuad q f).ops = c.ops := rfl
@[simp] theorem Core.modQuad_nextOp (c : Core) (q : Nat) (f : Quad → Quad) : (c.modQuad q f).nextOp = c.nextOp := rfl
@[simp] theorem Core.modQuad_nextUid (c : Core) (q : Nat) (f : Quad → Quad) : (c.modQuad q f).nextUid = c.nextUid := rfl
@[simp] theorem Core.modQuad_useClock (c : Core) (q : Nat) (f : Quad → Quad) : (c.modQuad q f).useClock = c.useClock := rfl
@[simp] theorem Core.modQuad_injected (c : Core) (q : Nat) (f : Quad → Quad) : (c.modQuad q f).injected = c.injected := rfl
@[simp] theorem Core.modQuad_copyLast (c : Core) (q : Nat) (f : Quad → Quad) : (c.modQuad q f).copyLast = c.copyLast := rfl
@[simp] theorem Core.modQuad_demands (c : Core) (q : Nat) (f : Quad → Quad) : (c.modQuad q f).demands = c.demands := rfl
@[simp] theorem Core.modQuad_mailWaits (c : Core) (q : Nat) (f : Quad → Quad) : (c.modQuad q f).mailWaits = c.mailWaits := rfl
@[simp] theorem Core.modQuad_halt (c : Core) (q : Nat) (f : Quad → Quad) : (c.modQuad q f).halt = c.halt := rfl
@[simp] theorem Core.modQuad_faults (c : Core) (q : Nat) (f : Quad → Quad) : (c.modQuad q f).faults = c.faults := rfl
@[simp] theorem Core.modQuad_dumpbase (c : Core) (q : Nat) (f : Quad → Quad) : (c.modQuad q f).dumpbase = c.dumpbase := rfl
@[simp] theorem Core.modQuad_haltDue (c : Core) (q : Nat) (f : Quad → Quad) : (c.modQuad q f).haltDue = c.haltDue := rfl
@[simp] theorem Core.setGroup_owner (c : Core) (x : Nat) (g : Group) : (c.setGroup x g).owner = c.owner := rfl
@[simp] theorem Core.setGroup_team (c : Core) (x : Nat) (g : Group) : (c.setGroup x g).team = c.team := rfl
@[simp] theorem Core.setGroup_quads (c : Core) (x : Nat) (g : Group) : (c.setGroup x g).quads = c.quads := rfl
@[simp] theorem Core.setGroup_sp (c : Core) (x : Nat) (g : Group) : (c.setGroup x g).sp = c.sp := rfl
@[simp] theorem Core.setGroup_spEmpty (c : Core) (x : Nat) (g : Group) : (c.setGroup x g).spEmpty = c.spEmpty := rfl
@[simp] theorem Core.setGroup_before (c : Core) (x : Nat) (g : Group) : (c.setGroup x g).before = c.before := rfl
@[simp] theorem Core.setGroup_spRace (c : Core) (x : Nat) (g : Group) : (c.setGroup x g).spRace = c.spRace := rfl
@[simp] theorem Core.setGroup_spBad (c : Core) (x : Nat) (g : Group) : (c.setGroup x g).spBad = c.spBad := rfl
@[simp] theorem Core.setGroup_spRaceBad (c : Core) (x : Nat) (g : Group) : (c.setGroup x g).spRaceBad = c.spRaceBad := rfl
@[simp] theorem Core.setGroup_slots (c : Core) (x : Nat) (g : Group) : (c.setGroup x g).slots = c.slots := rfl
@[simp] theorem Core.setGroup_l1 (c : Core) (x : Nat) (g : Group) : (c.setGroup x g).l1 = c.l1 := rfl
@[simp] theorem Core.setGroup_tlb (c : Core) (x : Nat) (g : Group) : (c.setGroup x g).tlb = c.tlb := rfl
@[simp] theorem Core.setGroup_wc (c : Core) (x : Nat) (g : Group) : (c.setGroup x g).wc = c.wc := rfl
@[simp] theorem Core.setGroup_rwc (c : Core) (x : Nat) (g : Group) : (c.setGroup x g).rwc = c.rwc := rfl
@[simp] theorem Core.setGroup_ops (c : Core) (x : Nat) (g : Group) : (c.setGroup x g).ops = c.ops := rfl
@[simp] theorem Core.setGroup_nextOp (c : Core) (x : Nat) (g : Group) : (c.setGroup x g).nextOp = c.nextOp := rfl
@[simp] theorem Core.setGroup_nextUid (c : Core) (x : Nat) (g : Group) : (c.setGroup x g).nextUid = c.nextUid := rfl
@[simp] theorem Core.setGroup_useClock (c : Core) (x : Nat) (g : Group) : (c.setGroup x g).useClock = c.useClock := rfl
@[simp] theorem Core.setGroup_injected (c : Core) (x : Nat) (g : Group) : (c.setGroup x g).injected = c.injected := rfl
@[simp] theorem Core.setGroup_copyLast (c : Core) (x : Nat) (g : Group) : (c.setGroup x g).copyLast = c.copyLast := rfl
@[simp] theorem Core.setGroup_demands (c : Core) (x : Nat) (g : Group) : (c.setGroup x g).demands = c.demands := rfl
@[simp] theorem Core.setGroup_mailWaits (c : Core) (x : Nat) (g : Group) : (c.setGroup x g).mailWaits = c.mailWaits := rfl
@[simp] theorem Core.setGroup_halt (c : Core) (x : Nat) (g : Group) : (c.setGroup x g).halt = c.halt := rfl
@[simp] theorem Core.setGroup_faults (c : Core) (x : Nat) (g : Group) : (c.setGroup x g).faults = c.faults := rfl
@[simp] theorem Core.setGroup_dumpbase (c : Core) (x : Nat) (g : Group) : (c.setGroup x g).dumpbase = c.dumpbase := rfl
@[simp] theorem Core.setGroup_haltDue (c : Core) (x : Nat) (g : Group) : (c.setGroup x g).haltDue = c.haltDue := rfl
@[simp] theorem Core.modTeam_owner (c : Core) (f : Team → Team) : (c.modTeam f).owner = c.owner := rfl
@[simp] theorem Core.modTeam_seats (c : Core) (f : Team → Team) : (c.modTeam f).seats = c.seats := rfl
@[simp] theorem Core.modTeam_quads (c : Core) (f : Team → Team) : (c.modTeam f).quads = c.quads := rfl
@[simp] theorem Core.modTeam_sp (c : Core) (f : Team → Team) : (c.modTeam f).sp = c.sp := rfl
@[simp] theorem Core.modTeam_spEmpty (c : Core) (f : Team → Team) : (c.modTeam f).spEmpty = c.spEmpty := rfl
@[simp] theorem Core.modTeam_before (c : Core) (f : Team → Team) : (c.modTeam f).before = c.before := rfl
@[simp] theorem Core.modTeam_spRace (c : Core) (f : Team → Team) : (c.modTeam f).spRace = c.spRace := rfl
@[simp] theorem Core.modTeam_spBad (c : Core) (f : Team → Team) : (c.modTeam f).spBad = c.spBad := rfl
@[simp] theorem Core.modTeam_spRaceBad (c : Core) (f : Team → Team) : (c.modTeam f).spRaceBad = c.spRaceBad := rfl
@[simp] theorem Core.modTeam_slots (c : Core) (f : Team → Team) : (c.modTeam f).slots = c.slots := rfl
@[simp] theorem Core.modTeam_l1 (c : Core) (f : Team → Team) : (c.modTeam f).l1 = c.l1 := rfl
@[simp] theorem Core.modTeam_tlb (c : Core) (f : Team → Team) : (c.modTeam f).tlb = c.tlb := rfl
@[simp] theorem Core.modTeam_wc (c : Core) (f : Team → Team) : (c.modTeam f).wc = c.wc := rfl
@[simp] theorem Core.modTeam_rwc (c : Core) (f : Team → Team) : (c.modTeam f).rwc = c.rwc := rfl
@[simp] theorem Core.modTeam_ops (c : Core) (f : Team → Team) : (c.modTeam f).ops = c.ops := rfl
@[simp] theorem Core.modTeam_nextOp (c : Core) (f : Team → Team) : (c.modTeam f).nextOp = c.nextOp := rfl
@[simp] theorem Core.modTeam_nextUid (c : Core) (f : Team → Team) : (c.modTeam f).nextUid = c.nextUid := rfl
@[simp] theorem Core.modTeam_useClock (c : Core) (f : Team → Team) : (c.modTeam f).useClock = c.useClock := rfl
@[simp] theorem Core.modTeam_injected (c : Core) (f : Team → Team) : (c.modTeam f).injected = c.injected := rfl
@[simp] theorem Core.modTeam_copyLast (c : Core) (f : Team → Team) : (c.modTeam f).copyLast = c.copyLast := rfl
@[simp] theorem Core.modTeam_demands (c : Core) (f : Team → Team) : (c.modTeam f).demands = c.demands := rfl
@[simp] theorem Core.modTeam_mailWaits (c : Core) (f : Team → Team) : (c.modTeam f).mailWaits = c.mailWaits := rfl
@[simp] theorem Core.modTeam_halt (c : Core) (f : Team → Team) : (c.modTeam f).halt = c.halt := rfl
@[simp] theorem Core.modTeam_faults (c : Core) (f : Team → Team) : (c.modTeam f).faults = c.faults := rfl
@[simp] theorem Core.modTeam_dumpbase (c : Core) (f : Team → Team) : (c.modTeam f).dumpbase = c.dumpbase := rfl
@[simp] theorem Core.modTeam_haltDue (c : Core) (f : Team → Team) : (c.modTeam f).haltDue = c.haltDue := rfl
@[simp] theorem Core.addOp_owner (c : Core) (o : MemOp) : (c.addOp o).owner = c.owner := rfl
@[simp] theorem Core.addOp_team (c : Core) (o : MemOp) : (c.addOp o).team = c.team := rfl
@[simp] theorem Core.addOp_seats (c : Core) (o : MemOp) : (c.addOp o).seats = c.seats := rfl
@[simp] theorem Core.addOp_quads (c : Core) (o : MemOp) : (c.addOp o).quads = c.quads := rfl
@[simp] theorem Core.addOp_sp (c : Core) (o : MemOp) : (c.addOp o).sp = c.sp := rfl
@[simp] theorem Core.addOp_spEmpty (c : Core) (o : MemOp) : (c.addOp o).spEmpty = c.spEmpty := rfl
@[simp] theorem Core.addOp_before (c : Core) (o : MemOp) : (c.addOp o).before = c.before := rfl
@[simp] theorem Core.addOp_spRace (c : Core) (o : MemOp) : (c.addOp o).spRace = c.spRace := rfl
@[simp] theorem Core.addOp_spBad (c : Core) (o : MemOp) : (c.addOp o).spBad = c.spBad := rfl
@[simp] theorem Core.addOp_spRaceBad (c : Core) (o : MemOp) : (c.addOp o).spRaceBad = c.spRaceBad := rfl
@[simp] theorem Core.addOp_slots (c : Core) (o : MemOp) : (c.addOp o).slots = c.slots := rfl
@[simp] theorem Core.addOp_l1 (c : Core) (o : MemOp) : (c.addOp o).l1 = c.l1 := rfl
@[simp] theorem Core.addOp_tlb (c : Core) (o : MemOp) : (c.addOp o).tlb = c.tlb := rfl
@[simp] theorem Core.addOp_wc (c : Core) (o : MemOp) : (c.addOp o).wc = c.wc := rfl
@[simp] theorem Core.addOp_rwc (c : Core) (o : MemOp) : (c.addOp o).rwc = c.rwc := rfl
@[simp] theorem Core.addOp_nextUid (c : Core) (o : MemOp) : (c.addOp o).nextUid = c.nextUid := rfl
@[simp] theorem Core.addOp_useClock (c : Core) (o : MemOp) : (c.addOp o).useClock = c.useClock := rfl
@[simp] theorem Core.addOp_injected (c : Core) (o : MemOp) : (c.addOp o).injected = c.injected := rfl
@[simp] theorem Core.addOp_copyLast (c : Core) (o : MemOp) : (c.addOp o).copyLast = c.copyLast := rfl
@[simp] theorem Core.addOp_demands (c : Core) (o : MemOp) : (c.addOp o).demands = c.demands := rfl
@[simp] theorem Core.addOp_mailWaits (c : Core) (o : MemOp) : (c.addOp o).mailWaits = c.mailWaits := rfl
@[simp] theorem Core.addOp_halt (c : Core) (o : MemOp) : (c.addOp o).halt = c.halt := rfl
@[simp] theorem Core.addOp_faults (c : Core) (o : MemOp) : (c.addOp o).faults = c.faults := rfl
@[simp] theorem Core.addOp_dumpbase (c : Core) (o : MemOp) : (c.addOp o).dumpbase = c.dumpbase := rfl
@[simp] theorem Core.addOp_haltDue (c : Core) (o : MemOp) : (c.addOp o).haltDue = c.haltDue := rfl
@[simp] theorem Core.setSlot_owner (c : Core) (n : Nat) (x : Slot) : (c.setSlot n x).owner = c.owner := rfl
@[simp] theorem Core.setSlot_team (c : Core) (n : Nat) (x : Slot) : (c.setSlot n x).team = c.team := rfl
@[simp] theorem Core.setSlot_seats (c : Core) (n : Nat) (x : Slot) : (c.setSlot n x).seats = c.seats := rfl
@[simp] theorem Core.setSlot_quads (c : Core) (n : Nat) (x : Slot) : (c.setSlot n x).quads = c.quads := rfl
@[simp] theorem Core.setSlot_sp (c : Core) (n : Nat) (x : Slot) : (c.setSlot n x).sp = c.sp := rfl
@[simp] theorem Core.setSlot_spEmpty (c : Core) (n : Nat) (x : Slot) : (c.setSlot n x).spEmpty = c.spEmpty := rfl
@[simp] theorem Core.setSlot_before (c : Core) (n : Nat) (x : Slot) : (c.setSlot n x).before = c.before := rfl
@[simp] theorem Core.setSlot_spRace (c : Core) (n : Nat) (x : Slot) : (c.setSlot n x).spRace = c.spRace := rfl
@[simp] theorem Core.setSlot_spBad (c : Core) (n : Nat) (x : Slot) : (c.setSlot n x).spBad = c.spBad := rfl
@[simp] theorem Core.setSlot_spRaceBad (c : Core) (n : Nat) (x : Slot) : (c.setSlot n x).spRaceBad = c.spRaceBad := rfl
@[simp] theorem Core.setSlot_l1 (c : Core) (n : Nat) (x : Slot) : (c.setSlot n x).l1 = c.l1 := rfl
@[simp] theorem Core.setSlot_tlb (c : Core) (n : Nat) (x : Slot) : (c.setSlot n x).tlb = c.tlb := rfl
@[simp] theorem Core.setSlot_wc (c : Core) (n : Nat) (x : Slot) : (c.setSlot n x).wc = c.wc := rfl
@[simp] theorem Core.setSlot_rwc (c : Core) (n : Nat) (x : Slot) : (c.setSlot n x).rwc = c.rwc := rfl
@[simp] theorem Core.setSlot_ops (c : Core) (n : Nat) (x : Slot) : (c.setSlot n x).ops = c.ops := rfl
@[simp] theorem Core.setSlot_nextOp (c : Core) (n : Nat) (x : Slot) : (c.setSlot n x).nextOp = c.nextOp := rfl
@[simp] theorem Core.setSlot_nextUid (c : Core) (n : Nat) (x : Slot) : (c.setSlot n x).nextUid = c.nextUid := rfl
@[simp] theorem Core.setSlot_useClock (c : Core) (n : Nat) (x : Slot) : (c.setSlot n x).useClock = c.useClock := rfl
@[simp] theorem Core.setSlot_injected (c : Core) (n : Nat) (x : Slot) : (c.setSlot n x).injected = c.injected := rfl
@[simp] theorem Core.setSlot_copyLast (c : Core) (n : Nat) (x : Slot) : (c.setSlot n x).copyLast = c.copyLast := rfl
@[simp] theorem Core.setSlot_demands (c : Core) (n : Nat) (x : Slot) : (c.setSlot n x).demands = c.demands := rfl
@[simp] theorem Core.setSlot_mailWaits (c : Core) (n : Nat) (x : Slot) : (c.setSlot n x).mailWaits = c.mailWaits := rfl
@[simp] theorem Core.setSlot_halt (c : Core) (n : Nat) (x : Slot) : (c.setSlot n x).halt = c.halt := rfl
@[simp] theorem Core.setSlot_faults (c : Core) (n : Nat) (x : Slot) : (c.setSlot n x).faults = c.faults := rfl
@[simp] theorem Core.setSlot_dumpbase (c : Core) (n : Nat) (x : Slot) : (c.setSlot n x).dumpbase = c.dumpbase := rfl
@[simp] theorem Core.setSlot_haltDue (c : Core) (n : Nat) (x : Slot) : (c.setSlot n x).haltDue = c.haltDue := rfl
@[simp] theorem Core.modSlot_owner (c : Core) (n : Nat) (f : Slot → Slot) : (c.modSlot n f).owner = c.owner := rfl
@[simp] theorem Core.modSlot_team (c : Core) (n : Nat) (f : Slot → Slot) : (c.modSlot n f).team = c.team := rfl
@[simp] theorem Core.modSlot_seats (c : Core) (n : Nat) (f : Slot → Slot) : (c.modSlot n f).seats = c.seats := rfl
@[simp] theorem Core.modSlot_quads (c : Core) (n : Nat) (f : Slot → Slot) : (c.modSlot n f).quads = c.quads := rfl
@[simp] theorem Core.modSlot_sp (c : Core) (n : Nat) (f : Slot → Slot) : (c.modSlot n f).sp = c.sp := rfl
@[simp] theorem Core.modSlot_spEmpty (c : Core) (n : Nat) (f : Slot → Slot) : (c.modSlot n f).spEmpty = c.spEmpty := rfl
@[simp] theorem Core.modSlot_before (c : Core) (n : Nat) (f : Slot → Slot) : (c.modSlot n f).before = c.before := rfl
@[simp] theorem Core.modSlot_spRace (c : Core) (n : Nat) (f : Slot → Slot) : (c.modSlot n f).spRace = c.spRace := rfl
@[simp] theorem Core.modSlot_spBad (c : Core) (n : Nat) (f : Slot → Slot) : (c.modSlot n f).spBad = c.spBad := rfl
@[simp] theorem Core.modSlot_spRaceBad (c : Core) (n : Nat) (f : Slot → Slot) : (c.modSlot n f).spRaceBad = c.spRaceBad := rfl
@[simp] theorem Core.modSlot_l1 (c : Core) (n : Nat) (f : Slot → Slot) : (c.modSlot n f).l1 = c.l1 := rfl
@[simp] theorem Core.modSlot_tlb (c : Core) (n : Nat) (f : Slot → Slot) : (c.modSlot n f).tlb = c.tlb := rfl
@[simp] theorem Core.modSlot_wc (c : Core) (n : Nat) (f : Slot → Slot) : (c.modSlot n f).wc = c.wc := rfl
@[simp] theorem Core.modSlot_rwc (c : Core) (n : Nat) (f : Slot → Slot) : (c.modSlot n f).rwc = c.rwc := rfl
@[simp] theorem Core.modSlot_ops (c : Core) (n : Nat) (f : Slot → Slot) : (c.modSlot n f).ops = c.ops := rfl
@[simp] theorem Core.modSlot_nextOp (c : Core) (n : Nat) (f : Slot → Slot) : (c.modSlot n f).nextOp = c.nextOp := rfl
@[simp] theorem Core.modSlot_nextUid (c : Core) (n : Nat) (f : Slot → Slot) : (c.modSlot n f).nextUid = c.nextUid := rfl
@[simp] theorem Core.modSlot_useClock (c : Core) (n : Nat) (f : Slot → Slot) : (c.modSlot n f).useClock = c.useClock := rfl
@[simp] theorem Core.modSlot_injected (c : Core) (n : Nat) (f : Slot → Slot) : (c.modSlot n f).injected = c.injected := rfl
@[simp] theorem Core.modSlot_copyLast (c : Core) (n : Nat) (f : Slot → Slot) : (c.modSlot n f).copyLast = c.copyLast := rfl
@[simp] theorem Core.modSlot_demands (c : Core) (n : Nat) (f : Slot → Slot) : (c.modSlot n f).demands = c.demands := rfl
@[simp] theorem Core.modSlot_mailWaits (c : Core) (n : Nat) (f : Slot → Slot) : (c.modSlot n f).mailWaits = c.mailWaits := rfl
@[simp] theorem Core.modSlot_halt (c : Core) (n : Nat) (f : Slot → Slot) : (c.modSlot n f).halt = c.halt := rfl
@[simp] theorem Core.modSlot_faults (c : Core) (n : Nat) (f : Slot → Slot) : (c.modSlot n f).faults = c.faults := rfl
@[simp] theorem Core.modSlot_dumpbase (c : Core) (n : Nat) (f : Slot → Slot) : (c.modSlot n f).dumpbase = c.dumpbase := rfl
@[simp] theorem Core.modSlot_haltDue (c : Core) (n : Nat) (f : Slot → Slot) : (c.modSlot n f).haltDue = c.haltDue := rfl
@[simp] theorem Core.modGroup_owner (c : Core) (x : Nat) (f : Group → Group) : (c.modGroup x f).owner = c.owner := by
  unfold Core.modGroup; split <;> rfl
@[simp] theorem Core.modGroup_team (c : Core) (x : Nat) (f : Group → Group) : (c.modGroup x f).team = c.team := by
  unfold Core.modGroup; split <;> rfl
@[simp] theorem Core.modGroup_quads (c : Core) (x : Nat) (f : Group → Group) : (c.modGroup x f).quads = c.quads := by
  unfold Core.modGroup; split <;> rfl
@[simp] theorem Core.modGroup_sp (c : Core) (x : Nat) (f : Group → Group) : (c.modGroup x f).sp = c.sp := by
  unfold Core.modGroup; split <;> rfl
@[simp] theorem Core.modGroup_spEmpty (c : Core) (x : Nat) (f : Group → Group) : (c.modGroup x f).spEmpty = c.spEmpty := by
  unfold Core.modGroup; split <;> rfl
@[simp] theorem Core.modGroup_before (c : Core) (x : Nat) (f : Group → Group) : (c.modGroup x f).before = c.before := by
  unfold Core.modGroup; split <;> rfl
@[simp] theorem Core.modGroup_spRace (c : Core) (x : Nat) (f : Group → Group) : (c.modGroup x f).spRace = c.spRace := by
  unfold Core.modGroup; split <;> rfl
@[simp] theorem Core.modGroup_spBad (c : Core) (x : Nat) (f : Group → Group) : (c.modGroup x f).spBad = c.spBad := by
  unfold Core.modGroup; split <;> rfl
@[simp] theorem Core.modGroup_spRaceBad (c : Core) (x : Nat) (f : Group → Group) : (c.modGroup x f).spRaceBad = c.spRaceBad := by
  unfold Core.modGroup; split <;> rfl
@[simp] theorem Core.modGroup_slots (c : Core) (x : Nat) (f : Group → Group) : (c.modGroup x f).slots = c.slots := by
  unfold Core.modGroup; split <;> rfl
@[simp] theorem Core.modGroup_l1 (c : Core) (x : Nat) (f : Group → Group) : (c.modGroup x f).l1 = c.l1 := by
  unfold Core.modGroup; split <;> rfl
@[simp] theorem Core.modGroup_tlb (c : Core) (x : Nat) (f : Group → Group) : (c.modGroup x f).tlb = c.tlb := by
  unfold Core.modGroup; split <;> rfl
@[simp] theorem Core.modGroup_wc (c : Core) (x : Nat) (f : Group → Group) : (c.modGroup x f).wc = c.wc := by
  unfold Core.modGroup; split <;> rfl
@[simp] theorem Core.modGroup_rwc (c : Core) (x : Nat) (f : Group → Group) : (c.modGroup x f).rwc = c.rwc := by
  unfold Core.modGroup; split <;> rfl
@[simp] theorem Core.modGroup_ops (c : Core) (x : Nat) (f : Group → Group) : (c.modGroup x f).ops = c.ops := by
  unfold Core.modGroup; split <;> rfl
@[simp] theorem Core.modGroup_nextOp (c : Core) (x : Nat) (f : Group → Group) : (c.modGroup x f).nextOp = c.nextOp := by
  unfold Core.modGroup; split <;> rfl
@[simp] theorem Core.modGroup_nextUid (c : Core) (x : Nat) (f : Group → Group) : (c.modGroup x f).nextUid = c.nextUid := by
  unfold Core.modGroup; split <;> rfl
@[simp] theorem Core.modGroup_useClock (c : Core) (x : Nat) (f : Group → Group) : (c.modGroup x f).useClock = c.useClock := by
  unfold Core.modGroup; split <;> rfl
@[simp] theorem Core.modGroup_injected (c : Core) (x : Nat) (f : Group → Group) : (c.modGroup x f).injected = c.injected := by
  unfold Core.modGroup; split <;> rfl
@[simp] theorem Core.modGroup_copyLast (c : Core) (x : Nat) (f : Group → Group) : (c.modGroup x f).copyLast = c.copyLast := by
  unfold Core.modGroup; split <;> rfl
@[simp] theorem Core.modGroup_demands (c : Core) (x : Nat) (f : Group → Group) : (c.modGroup x f).demands = c.demands := by
  unfold Core.modGroup; split <;> rfl
@[simp] theorem Core.modGroup_mailWaits (c : Core) (x : Nat) (f : Group → Group) : (c.modGroup x f).mailWaits = c.mailWaits := by
  unfold Core.modGroup; split <;> rfl
@[simp] theorem Core.modGroup_halt (c : Core) (x : Nat) (f : Group → Group) : (c.modGroup x f).halt = c.halt := by
  unfold Core.modGroup; split <;> rfl
@[simp] theorem Core.modGroup_faults (c : Core) (x : Nat) (f : Group → Group) : (c.modGroup x f).faults = c.faults := by
  unfold Core.modGroup; split <;> rfl
@[simp] theorem Core.modGroup_dumpbase (c : Core) (x : Nat) (f : Group → Group) : (c.modGroup x f).dumpbase = c.dumpbase := by
  unfold Core.modGroup; split <;> rfl
@[simp] theorem Core.modGroup_haltDue (c : Core) (x : Nat) (f : Group → Group) : (c.modGroup x f).haltDue = c.haltDue := by
  unfold Core.modGroup; split <;> rfl

/-! ### Fields of a group -/

@[simp] theorem Group.setVreg_threads (g : Group) (r l : Nat) (w : Word) : (g.setVreg r l w).threads = g.threads := rfl
@[simp] theorem Group.setVreg_pc (g : Group) (r l : Nat) (w : Word) : (g.setVreg r l w).pc = g.pc := rfl
@[simp] theorem Group.setVreg_sregs (g : Group) (r l : Nat) (w : Word) : (g.setVreg r l w).sregs = g.sregs := rfl
@[simp] theorem Group.setVreg_allot (g : Group) (r l : Nat) (w : Word) : (g.setVreg r l w).allot = g.allot := rfl
@[simp] theorem Group.setVreg_hperm (g : Group) (r l : Nat) (w : Word) : (g.setVreg r l w).hperm = g.hperm := rfl
@[simp] theorem Group.setVreg_origins (g : Group) (r l : Nat) (w : Word) : (g.setVreg r l w).origins = g.origins := rfl
@[simp] theorem Group.setVreg_handles (g : Group) (r l : Nat) (w : Word) : (g.setVreg r l w).handles = g.handles := rfl
@[simp] theorem Group.setVreg_marks (g : Group) (r l : Nat) (w : Word) : (g.setVreg r l w).marks = g.marks := rfl
@[simp] theorem Group.setVreg_lines (g : Group) (r l : Nat) (w : Word) : (g.setVreg r l w).lines = g.lines := rfl
@[simp] theorem Group.setVreg_tcheck (g : Group) (r l : Nat) (w : Word) : (g.setVreg r l w).tcheck = g.tcheck := rfl
@[simp] theorem Group.setVreg_trapv (g : Group) (r l : Nat) (w : Word) : (g.setVreg r l w).trapv = g.trapv := rfl
@[simp] theorem Group.setVreg_trapc (g : Group) (r l : Nat) (w : Word) : (g.setVreg r l w).trapc = g.trapc := rfl
@[simp] theorem Group.setVreg_trapa (g : Group) (r l : Nat) (w : Word) : (g.setVreg r l w).trapa = g.trapa := rfl
@[simp] theorem Group.setVreg_trapm (g : Group) (r l : Nat) (w : Word) : (g.setVreg r l w).trapm = g.trapm := rfl
@[simp] theorem Group.setVreg_handling (g : Group) (r l : Nat) (w : Word) : (g.setVreg r l w).handling = g.handling := rfl
@[simp] theorem Group.setVreg_mmx (g : Group) (r l : Nat) (w : Word) : (g.setVreg r l w).mmx = g.mmx := rfl
@[simp] theorem Group.setVreg_segsp (g : Group) (r l : Nat) (w : Word) : (g.setVreg r l w).segsp = g.segsp := rfl
@[simp] theorem Group.setVreg_segst (g : Group) (r l : Nat) (w : Word) : (g.setVreg r l w).segst = g.segst := rfl
@[simp] theorem Group.setVreg_seggl (g : Group) (r l : Nat) (w : Word) : (g.setVreg r l w).seggl = g.seggl := rfl
@[simp] theorem Group.setVreg_rcnt (g : Group) (r l : Nat) (w : Word) : (g.setVreg r l w).rcnt = g.rcnt := rfl
@[simp] theorem Group.setVreg_late (g : Group) (r l : Nat) (w : Word) : (g.setVreg r l w).late = g.late := rfl
@[simp] theorem Group.setVreg_acqDue (g : Group) (r l : Nat) (w : Word) : (g.setVreg r l w).acqDue = g.acqDue := rfl
@[simp] theorem Group.setVreg_pass (g : Group) (r l : Nat) (w : Word) : (g.setVreg r l w).pass = g.pass := rfl
@[simp] theorem Group.setVreg_csn (g : Group) (r l : Nat) (w : Word) : (g.setVreg r l w).csn = g.csn := rfl
@[simp] theorem Group.setVreg_region (g : Group) (r l : Nat) (w : Word) : (g.setVreg r l w).region = g.region := rfl
@[simp] theorem Group.setVreg_wait (g : Group) (r l : Nat) (w : Word) : (g.setVreg r l w).wait = g.wait := rfl
@[simp] theorem Group.setVreg_wake (g : Group) (r l : Nat) (w : Word) : (g.setVreg r l w).wake = g.wake := rfl
@[simp] theorem Group.setVreg_fpe (g : Group) (r l : Nat) (w : Word) : (g.setVreg r l w).fpe = g.fpe := rfl
@[simp] theorem Group.setVreg_faultWord (g : Group) (r l : Nat) (w : Word) : (g.setVreg r l w).faultWord = g.faultWord := rfl
@[simp] theorem Group.setVreg_uid (g : Group) (r l : Nat) (w : Word) : (g.setVreg r l w).uid = g.uid := rfl
@[simp] theorem Group.setVreg_half (g : Group) (r l : Nat) (w : Word) : (g.setVreg r l w).half = g.half := rfl
@[simp] theorem Group.setVreg_reads (g : Group) (r l : Nat) (w : Word) : (g.setVreg r l w).reads = g.reads := rfl
@[simp] theorem Group.setVreg_remote (g : Group) (r l : Nat) (w : Word) : (g.setVreg r l w).remote = g.remote := rfl
@[simp] theorem Group.setSreg_threads (g : Group) (r : Nat) (w : Word) : (g.setSreg r w).threads = g.threads := rfl
@[simp] theorem Group.setSreg_pc (g : Group) (r : Nat) (w : Word) : (g.setSreg r w).pc = g.pc := rfl
@[simp] theorem Group.setSreg_vregs (g : Group) (r : Nat) (w : Word) : (g.setSreg r w).vregs = g.vregs := rfl
@[simp] theorem Group.setSreg_allot (g : Group) (r : Nat) (w : Word) : (g.setSreg r w).allot = g.allot := rfl
@[simp] theorem Group.setSreg_hperm (g : Group) (r : Nat) (w : Word) : (g.setSreg r w).hperm = g.hperm := rfl
@[simp] theorem Group.setSreg_origins (g : Group) (r : Nat) (w : Word) : (g.setSreg r w).origins = g.origins := rfl
@[simp] theorem Group.setSreg_handles (g : Group) (r : Nat) (w : Word) : (g.setSreg r w).handles = g.handles := rfl
@[simp] theorem Group.setSreg_marks (g : Group) (r : Nat) (w : Word) : (g.setSreg r w).marks = g.marks := rfl
@[simp] theorem Group.setSreg_lines (g : Group) (r : Nat) (w : Word) : (g.setSreg r w).lines = g.lines := rfl
@[simp] theorem Group.setSreg_tcheck (g : Group) (r : Nat) (w : Word) : (g.setSreg r w).tcheck = g.tcheck := rfl
@[simp] theorem Group.setSreg_trapv (g : Group) (r : Nat) (w : Word) : (g.setSreg r w).trapv = g.trapv := rfl
@[simp] theorem Group.setSreg_trapc (g : Group) (r : Nat) (w : Word) : (g.setSreg r w).trapc = g.trapc := rfl
@[simp] theorem Group.setSreg_trapa (g : Group) (r : Nat) (w : Word) : (g.setSreg r w).trapa = g.trapa := rfl
@[simp] theorem Group.setSreg_trapm (g : Group) (r : Nat) (w : Word) : (g.setSreg r w).trapm = g.trapm := rfl
@[simp] theorem Group.setSreg_handling (g : Group) (r : Nat) (w : Word) : (g.setSreg r w).handling = g.handling := rfl
@[simp] theorem Group.setSreg_mmx (g : Group) (r : Nat) (w : Word) : (g.setSreg r w).mmx = g.mmx := rfl
@[simp] theorem Group.setSreg_segsp (g : Group) (r : Nat) (w : Word) : (g.setSreg r w).segsp = g.segsp := rfl
@[simp] theorem Group.setSreg_segst (g : Group) (r : Nat) (w : Word) : (g.setSreg r w).segst = g.segst := rfl
@[simp] theorem Group.setSreg_seggl (g : Group) (r : Nat) (w : Word) : (g.setSreg r w).seggl = g.seggl := rfl
@[simp] theorem Group.setSreg_rcnt (g : Group) (r : Nat) (w : Word) : (g.setSreg r w).rcnt = g.rcnt := rfl
@[simp] theorem Group.setSreg_late (g : Group) (r : Nat) (w : Word) : (g.setSreg r w).late = g.late := rfl
@[simp] theorem Group.setSreg_acqDue (g : Group) (r : Nat) (w : Word) : (g.setSreg r w).acqDue = g.acqDue := rfl
@[simp] theorem Group.setSreg_pass (g : Group) (r : Nat) (w : Word) : (g.setSreg r w).pass = g.pass := rfl
@[simp] theorem Group.setSreg_csn (g : Group) (r : Nat) (w : Word) : (g.setSreg r w).csn = g.csn := rfl
@[simp] theorem Group.setSreg_region (g : Group) (r : Nat) (w : Word) : (g.setSreg r w).region = g.region := rfl
@[simp] theorem Group.setSreg_wait (g : Group) (r : Nat) (w : Word) : (g.setSreg r w).wait = g.wait := rfl
@[simp] theorem Group.setSreg_wake (g : Group) (r : Nat) (w : Word) : (g.setSreg r w).wake = g.wake := rfl
@[simp] theorem Group.setSreg_fpe (g : Group) (r : Nat) (w : Word) : (g.setSreg r w).fpe = g.fpe := rfl
@[simp] theorem Group.setSreg_faultWord (g : Group) (r : Nat) (w : Word) : (g.setSreg r w).faultWord = g.faultWord := rfl
@[simp] theorem Group.setSreg_uid (g : Group) (r : Nat) (w : Word) : (g.setSreg r w).uid = g.uid := rfl
@[simp] theorem Group.setSreg_half (g : Group) (r : Nat) (w : Word) : (g.setSreg r w).half = g.half := rfl
@[simp] theorem Group.setSreg_reads (g : Group) (r : Nat) (w : Word) : (g.setSreg r w).reads = g.reads := rfl
@[simp] theorem Group.setSreg_remote (g : Group) (r : Nat) (w : Word) : (g.setSreg r w).remote = g.remote := rfl
@[simp] theorem Group.markRegs_threads (g : Group) (o : Opd) (n last : Nat) : (g.markRegs o n last).threads = g.threads := rfl
@[simp] theorem Group.markRegs_pc (g : Group) (o : Opd) (n last : Nat) : (g.markRegs o n last).pc = g.pc := rfl
@[simp] theorem Group.markRegs_vregs (g : Group) (o : Opd) (n last : Nat) : (g.markRegs o n last).vregs = g.vregs := rfl
@[simp] theorem Group.markRegs_sregs (g : Group) (o : Opd) (n last : Nat) : (g.markRegs o n last).sregs = g.sregs := rfl
@[simp] theorem Group.markRegs_allot (g : Group) (o : Opd) (n last : Nat) : (g.markRegs o n last).allot = g.allot := rfl
@[simp] theorem Group.markRegs_hperm (g : Group) (o : Opd) (n last : Nat) : (g.markRegs o n last).hperm = g.hperm := rfl
@[simp] theorem Group.markRegs_origins (g : Group) (o : Opd) (n last : Nat) : (g.markRegs o n last).origins = g.origins := rfl
@[simp] theorem Group.markRegs_handles (g : Group) (o : Opd) (n last : Nat) : (g.markRegs o n last).handles = g.handles := rfl
@[simp] theorem Group.markRegs_lines (g : Group) (o : Opd) (n last : Nat) : (g.markRegs o n last).lines = g.lines := rfl
@[simp] theorem Group.markRegs_tcheck (g : Group) (o : Opd) (n last : Nat) : (g.markRegs o n last).tcheck = g.tcheck := rfl
@[simp] theorem Group.markRegs_trapv (g : Group) (o : Opd) (n last : Nat) : (g.markRegs o n last).trapv = g.trapv := rfl
@[simp] theorem Group.markRegs_trapc (g : Group) (o : Opd) (n last : Nat) : (g.markRegs o n last).trapc = g.trapc := rfl
@[simp] theorem Group.markRegs_trapa (g : Group) (o : Opd) (n last : Nat) : (g.markRegs o n last).trapa = g.trapa := rfl
@[simp] theorem Group.markRegs_trapm (g : Group) (o : Opd) (n last : Nat) : (g.markRegs o n last).trapm = g.trapm := rfl
@[simp] theorem Group.markRegs_handling (g : Group) (o : Opd) (n last : Nat) : (g.markRegs o n last).handling = g.handling := rfl
@[simp] theorem Group.markRegs_mmx (g : Group) (o : Opd) (n last : Nat) : (g.markRegs o n last).mmx = g.mmx := rfl
@[simp] theorem Group.markRegs_segsp (g : Group) (o : Opd) (n last : Nat) : (g.markRegs o n last).segsp = g.segsp := rfl
@[simp] theorem Group.markRegs_segst (g : Group) (o : Opd) (n last : Nat) : (g.markRegs o n last).segst = g.segst := rfl
@[simp] theorem Group.markRegs_seggl (g : Group) (o : Opd) (n last : Nat) : (g.markRegs o n last).seggl = g.seggl := rfl
@[simp] theorem Group.markRegs_rcnt (g : Group) (o : Opd) (n last : Nat) : (g.markRegs o n last).rcnt = g.rcnt := rfl
@[simp] theorem Group.markRegs_late (g : Group) (o : Opd) (n last : Nat) : (g.markRegs o n last).late = g.late := rfl
@[simp] theorem Group.markRegs_acqDue (g : Group) (o : Opd) (n last : Nat) : (g.markRegs o n last).acqDue = g.acqDue := rfl
@[simp] theorem Group.markRegs_pass (g : Group) (o : Opd) (n last : Nat) : (g.markRegs o n last).pass = g.pass := rfl
@[simp] theorem Group.markRegs_csn (g : Group) (o : Opd) (n last : Nat) : (g.markRegs o n last).csn = g.csn := rfl
@[simp] theorem Group.markRegs_region (g : Group) (o : Opd) (n last : Nat) : (g.markRegs o n last).region = g.region := rfl
@[simp] theorem Group.markRegs_wait (g : Group) (o : Opd) (n last : Nat) : (g.markRegs o n last).wait = g.wait := rfl
@[simp] theorem Group.markRegs_wake (g : Group) (o : Opd) (n last : Nat) : (g.markRegs o n last).wake = g.wake := rfl
@[simp] theorem Group.markRegs_fpe (g : Group) (o : Opd) (n last : Nat) : (g.markRegs o n last).fpe = g.fpe := rfl
@[simp] theorem Group.markRegs_faultWord (g : Group) (o : Opd) (n last : Nat) : (g.markRegs o n last).faultWord = g.faultWord := rfl
@[simp] theorem Group.markRegs_uid (g : Group) (o : Opd) (n last : Nat) : (g.markRegs o n last).uid = g.uid := rfl
@[simp] theorem Group.markRegs_half (g : Group) (o : Opd) (n last : Nat) : (g.markRegs o n last).half = g.half := rfl
@[simp] theorem Group.markRegs_reads (g : Group) (o : Opd) (n last : Nat) : (g.markRegs o n last).reads = g.reads := rfl
@[simp] theorem Group.markRegs_remote (g : Group) (o : Opd) (n last : Nat) : (g.markRegs o n last).remote = g.remote := rfl
@[simp] theorem Group.markRegs_bad (g : Group) (o : Opd) (n last : Nat) : (g.markRegs o n last).bad = g.bad := rfl
@[simp] theorem Group.markOp_threads (g : Group) (o : Opd) (n op : Nat) : (g.markOp o n op).threads = g.threads := rfl
@[simp] theorem Group.markOp_pc (g : Group) (o : Opd) (n op : Nat) : (g.markOp o n op).pc = g.pc := rfl
@[simp] theorem Group.markOp_vregs (g : Group) (o : Opd) (n op : Nat) : (g.markOp o n op).vregs = g.vregs := rfl
@[simp] theorem Group.markOp_sregs (g : Group) (o : Opd) (n op : Nat) : (g.markOp o n op).sregs = g.sregs := rfl
@[simp] theorem Group.markOp_allot (g : Group) (o : Opd) (n op : Nat) : (g.markOp o n op).allot = g.allot := rfl
@[simp] theorem Group.markOp_hperm (g : Group) (o : Opd) (n op : Nat) : (g.markOp o n op).hperm = g.hperm := rfl
@[simp] theorem Group.markOp_origins (g : Group) (o : Opd) (n op : Nat) : (g.markOp o n op).origins = g.origins := rfl
@[simp] theorem Group.markOp_handles (g : Group) (o : Opd) (n op : Nat) : (g.markOp o n op).handles = g.handles := rfl
@[simp] theorem Group.markOp_lines (g : Group) (o : Opd) (n op : Nat) : (g.markOp o n op).lines = g.lines := rfl
@[simp] theorem Group.markOp_tcheck (g : Group) (o : Opd) (n op : Nat) : (g.markOp o n op).tcheck = g.tcheck := rfl
@[simp] theorem Group.markOp_trapv (g : Group) (o : Opd) (n op : Nat) : (g.markOp o n op).trapv = g.trapv := rfl
@[simp] theorem Group.markOp_trapc (g : Group) (o : Opd) (n op : Nat) : (g.markOp o n op).trapc = g.trapc := rfl
@[simp] theorem Group.markOp_trapa (g : Group) (o : Opd) (n op : Nat) : (g.markOp o n op).trapa = g.trapa := rfl
@[simp] theorem Group.markOp_trapm (g : Group) (o : Opd) (n op : Nat) : (g.markOp o n op).trapm = g.trapm := rfl
@[simp] theorem Group.markOp_handling (g : Group) (o : Opd) (n op : Nat) : (g.markOp o n op).handling = g.handling := rfl
@[simp] theorem Group.markOp_mmx (g : Group) (o : Opd) (n op : Nat) : (g.markOp o n op).mmx = g.mmx := rfl
@[simp] theorem Group.markOp_segsp (g : Group) (o : Opd) (n op : Nat) : (g.markOp o n op).segsp = g.segsp := rfl
@[simp] theorem Group.markOp_segst (g : Group) (o : Opd) (n op : Nat) : (g.markOp o n op).segst = g.segst := rfl
@[simp] theorem Group.markOp_seggl (g : Group) (o : Opd) (n op : Nat) : (g.markOp o n op).seggl = g.seggl := rfl
@[simp] theorem Group.markOp_rcnt (g : Group) (o : Opd) (n op : Nat) : (g.markOp o n op).rcnt = g.rcnt := rfl
@[simp] theorem Group.markOp_late (g : Group) (o : Opd) (n op : Nat) : (g.markOp o n op).late = g.late := rfl
@[simp] theorem Group.markOp_acqDue (g : Group) (o : Opd) (n op : Nat) : (g.markOp o n op).acqDue = g.acqDue := rfl
@[simp] theorem Group.markOp_pass (g : Group) (o : Opd) (n op : Nat) : (g.markOp o n op).pass = g.pass := rfl
@[simp] theorem Group.markOp_csn (g : Group) (o : Opd) (n op : Nat) : (g.markOp o n op).csn = g.csn := rfl
@[simp] theorem Group.markOp_region (g : Group) (o : Opd) (n op : Nat) : (g.markOp o n op).region = g.region := rfl
@[simp] theorem Group.markOp_wait (g : Group) (o : Opd) (n op : Nat) : (g.markOp o n op).wait = g.wait := rfl
@[simp] theorem Group.markOp_wake (g : Group) (o : Opd) (n op : Nat) : (g.markOp o n op).wake = g.wake := rfl
@[simp] theorem Group.markOp_fpe (g : Group) (o : Opd) (n op : Nat) : (g.markOp o n op).fpe = g.fpe := rfl
@[simp] theorem Group.markOp_faultWord (g : Group) (o : Opd) (n op : Nat) : (g.markOp o n op).faultWord = g.faultWord := rfl
@[simp] theorem Group.markOp_uid (g : Group) (o : Opd) (n op : Nat) : (g.markOp o n op).uid = g.uid := rfl
@[simp] theorem Group.markOp_half (g : Group) (o : Opd) (n op : Nat) : (g.markOp o n op).half = g.half := rfl
@[simp] theorem Group.markOp_reads (g : Group) (o : Opd) (n op : Nat) : (g.markOp o n op).reads = g.reads := rfl
@[simp] theorem Group.markOp_remote (g : Group) (o : Opd) (n op : Nat) : (g.markOp o n op).remote = g.remote := rfl
@[simp] theorem Group.markOp_bad (g : Group) (o : Opd) (n op : Nat) : (g.markOp o n op).bad = g.bad := rfl
@[simp] theorem Group.collect_bad (g : Group) (pc : Nat) (xs : List (Nat × Exc)) : (g.collect pc xs).bad = g.bad := by
  simp only [Group.collect]; split; · rfl
  split <;> rfl
@[simp] theorem Group.collect_threads (g : Group) (pc : Nat) (xs : List (Nat × Exc)) : (g.collect pc xs).threads = g.threads := by
  simp only [Group.collect]; split; · rfl
  · split <;> rfl
@[simp] theorem Group.collect_pc (g : Group) (pc : Nat) (xs : List (Nat × Exc)) : (g.collect pc xs).pc = g.pc := by
  simp only [Group.collect]; split; · rfl
  · split <;> rfl
@[simp] theorem Group.collect_vregs (g : Group) (pc : Nat) (xs : List (Nat × Exc)) : (g.collect pc xs).vregs = g.vregs := by
  simp only [Group.collect]; split; · rfl
  · split <;> rfl
@[simp] theorem Group.collect_sregs (g : Group) (pc : Nat) (xs : List (Nat × Exc)) : (g.collect pc xs).sregs = g.sregs := by
  simp only [Group.collect]; split; · rfl
  · split <;> rfl
@[simp] theorem Group.collect_allot (g : Group) (pc : Nat) (xs : List (Nat × Exc)) : (g.collect pc xs).allot = g.allot := by
  simp only [Group.collect]; split; · rfl
  · split <;> rfl
@[simp] theorem Group.collect_hperm (g : Group) (pc : Nat) (xs : List (Nat × Exc)) : (g.collect pc xs).hperm = g.hperm := by
  simp only [Group.collect]; split; · rfl
  · split <;> rfl
@[simp] theorem Group.collect_origins (g : Group) (pc : Nat) (xs : List (Nat × Exc)) : (g.collect pc xs).origins = g.origins := by
  simp only [Group.collect]; split; · rfl
  · split <;> rfl
@[simp] theorem Group.collect_handles (g : Group) (pc : Nat) (xs : List (Nat × Exc)) : (g.collect pc xs).handles = g.handles := by
  simp only [Group.collect]; split; · rfl
  · split <;> rfl
@[simp] theorem Group.collect_marks (g : Group) (pc : Nat) (xs : List (Nat × Exc)) : (g.collect pc xs).marks = g.marks := by
  simp only [Group.collect]; split; · rfl
  · split <;> rfl
@[simp] theorem Group.collect_lines (g : Group) (pc : Nat) (xs : List (Nat × Exc)) : (g.collect pc xs).lines = g.lines := by
  simp only [Group.collect]; split; · rfl
  · split <;> rfl
@[simp] theorem Group.collect_tcheck (g : Group) (pc : Nat) (xs : List (Nat × Exc)) : (g.collect pc xs).tcheck = g.tcheck := by
  simp only [Group.collect]; split; · rfl
  · split <;> rfl
@[simp] theorem Group.collect_trapv (g : Group) (pc : Nat) (xs : List (Nat × Exc)) : (g.collect pc xs).trapv = g.trapv := by
  simp only [Group.collect]; split; · rfl
  · split <;> rfl
@[simp] theorem Group.collect_trapc (g : Group) (pc : Nat) (xs : List (Nat × Exc)) : (g.collect pc xs).trapc = g.trapc := by
  simp only [Group.collect]; split; · rfl
  · split <;> rfl
@[simp] theorem Group.collect_trapa (g : Group) (pc : Nat) (xs : List (Nat × Exc)) : (g.collect pc xs).trapa = g.trapa := by
  simp only [Group.collect]; split; · rfl
  · split <;> rfl
@[simp] theorem Group.collect_trapm (g : Group) (pc : Nat) (xs : List (Nat × Exc)) : (g.collect pc xs).trapm = g.trapm := by
  simp only [Group.collect]; split; · rfl
  · split <;> rfl
@[simp] theorem Group.collect_handling (g : Group) (pc : Nat) (xs : List (Nat × Exc)) : (g.collect pc xs).handling = g.handling := by
  simp only [Group.collect]; split; · rfl
  · split <;> rfl
@[simp] theorem Group.collect_mmx (g : Group) (pc : Nat) (xs : List (Nat × Exc)) : (g.collect pc xs).mmx = g.mmx := by
  simp only [Group.collect]; split; · rfl
  · split <;> rfl
@[simp] theorem Group.collect_segsp (g : Group) (pc : Nat) (xs : List (Nat × Exc)) : (g.collect pc xs).segsp = g.segsp := by
  simp only [Group.collect]; split; · rfl
  · split <;> rfl
@[simp] theorem Group.collect_segst (g : Group) (pc : Nat) (xs : List (Nat × Exc)) : (g.collect pc xs).segst = g.segst := by
  simp only [Group.collect]; split; · rfl
  · split <;> rfl
@[simp] theorem Group.collect_seggl (g : Group) (pc : Nat) (xs : List (Nat × Exc)) : (g.collect pc xs).seggl = g.seggl := by
  simp only [Group.collect]; split; · rfl
  · split <;> rfl
@[simp] theorem Group.collect_rcnt (g : Group) (pc : Nat) (xs : List (Nat × Exc)) : (g.collect pc xs).rcnt = g.rcnt := by
  simp only [Group.collect]; split; · rfl
  · split <;> rfl
@[simp] theorem Group.collect_late (g : Group) (pc : Nat) (xs : List (Nat × Exc)) : (g.collect pc xs).late = g.late := by
  simp only [Group.collect]; split; · rfl
  · split <;> rfl
@[simp] theorem Group.collect_acqDue (g : Group) (pc : Nat) (xs : List (Nat × Exc)) : (g.collect pc xs).acqDue = g.acqDue := by
  simp only [Group.collect]; split; · rfl
  · split <;> rfl
@[simp] theorem Group.collect_pass (g : Group) (pc : Nat) (xs : List (Nat × Exc)) : (g.collect pc xs).pass = g.pass := by
  simp only [Group.collect]; split; · rfl
  · split <;> rfl
@[simp] theorem Group.collect_csn (g : Group) (pc : Nat) (xs : List (Nat × Exc)) : (g.collect pc xs).csn = g.csn := by
  simp only [Group.collect]; split; · rfl
  · split <;> rfl
@[simp] theorem Group.collect_region (g : Group) (pc : Nat) (xs : List (Nat × Exc)) : (g.collect pc xs).region = g.region := by
  simp only [Group.collect]; split; · rfl
  · split <;> rfl
@[simp] theorem Group.collect_wait (g : Group) (pc : Nat) (xs : List (Nat × Exc)) : (g.collect pc xs).wait = g.wait := by
  simp only [Group.collect]; split; · rfl
  · split <;> rfl
@[simp] theorem Group.collect_wake (g : Group) (pc : Nat) (xs : List (Nat × Exc)) : (g.collect pc xs).wake = g.wake := by
  simp only [Group.collect]; split; · rfl
  · split <;> rfl
@[simp] theorem Group.collect_faultWord (g : Group) (pc : Nat) (xs : List (Nat × Exc)) : (g.collect pc xs).faultWord = g.faultWord := by
  simp only [Group.collect]; split; · rfl
  · split <;> rfl
@[simp] theorem Group.collect_uid (g : Group) (pc : Nat) (xs : List (Nat × Exc)) : (g.collect pc xs).uid = g.uid := by
  simp only [Group.collect]; split; · rfl
  · split <;> rfl
@[simp] theorem Group.collect_half (g : Group) (pc : Nat) (xs : List (Nat × Exc)) : (g.collect pc xs).half = g.half := by
  simp only [Group.collect]; split; · rfl
  · split <;> rfl
@[simp] theorem Group.collect_reads (g : Group) (pc : Nat) (xs : List (Nat × Exc)) : (g.collect pc xs).reads = g.reads := by
  simp only [Group.collect]; split; · rfl
  · split <;> rfl
@[simp] theorem Group.collect_remote (g : Group) (pc : Nat) (xs : List (Nat × Exc)) : (g.collect pc xs).remote = g.remote := by
  simp only [Group.collect]; split; · rfl
  · split <;> rfl

/-! ### Parts after an update -/

@[simp] theorem State.core_setCore (s : State) (n m : Nat) (c : Core) : (s.setCore n c).core m = if n = m then c else s.core m := by
  simp only [State.core, State.setCore, mget_mset]
  split <;> rfl

@[simp] theorem State.core_modCore (s : State) (n m : Nat) (f : Core → Core) : (s.modCore n f).core m = if n = m then f (s.core n) else s.core m :=
  State.core_setCore _ _ _ _

@[simp] theorem State.core_setOwner (s : State) (k m : Nat) (o : Owner) : (s.setOwner k o).core m = s.core m := rfl

@[simp] theorem State.core_modOwner (s : State) (k m : Nat) (f : Owner → Owner) : (s.modOwner k f).core m = s.core m := rfl

@[simp] theorem State.owner_setOwner (s : State) (k j : Nat) (o : Owner) : (s.setOwner k o).owner j = if k = j then o else s.owner j := by
  simp only [State.owner, State.setOwner, mget_mset]
  split <;> rfl

@[simp] theorem State.owner_modOwner (s : State) (k j : Nat) (f : Owner → Owner) : (s.modOwner k f).owner j = if k = j then f (s.owner k) else s.owner j :=
  State.owner_setOwner _ _ _ _

@[simp] theorem State.owner_setCore (s : State) (n j : Nat) (c : Core) : (s.setCore n c).owner j = s.owner j := rfl

@[simp] theorem State.owner_modCore (s : State) (n j : Nat) (f : Core → Core) : (s.modCore n f).owner j = s.owner j := rfl

@[simp] theorem State.owner_modGroup (s : State) (n x j : Nat) (f : Group → Group) : (s.modGroup n x f).owner j = s.owner j := rfl

@[simp] theorem State.owner_modQuad (s : State) (n q j : Nat) (f : Quad → Quad) : (s.modQuad n q f).owner j = s.owner j := rfl

@[simp] theorem State.core_modGroup (s : State) (n m x : Nat) (f : Group → Group) :
    (s.modGroup n x f).core m = if n = m then (s.core n).modGroup x f else s.core m := State.core_modCore _ _ _ _

@[simp] theorem State.core_modQuad (s : State) (n m q : Nat) (f : Quad → Quad) :
    (s.modQuad n q f).core m = if n = m then (s.core n).modQuad q f else s.core m := State.core_modCore _ _ _ _

@[simp] theorem State.core_modTeam (s : State) (n m : Nat) (f : Team → Team) :
    (s.modTeam n f).core m = if n = m then (s.core n).modTeam f else s.core m := State.core_modCore _ _ _ _

@[simp] theorem Core.group?_setGroup (c : Core) (x y : Nat) (g : Group) : (c.setGroup x g).group? y = if x = y then some g else c.group? y := by
  simp only [Core.group?, Core.setGroup, mget_mset]
  by_cases h : x = y <;> simp [h]

@[simp] theorem Core.group?_setQuad (c : Core) (q y : Nat) (x : Quad) : (c.setQuad q x).group? y = c.group? y := rfl

@[simp] theorem Core.group?_modQuad (c : Core) (q y : Nat) (f : Quad → Quad) : (c.modQuad q f).group? y = c.group? y := rfl

@[simp] theorem Core.group?_modTeam (c : Core) (y : Nat) (f : Team → Team) : (c.modTeam f).group? y = c.group? y := rfl

@[simp] theorem Core.group?_addOp (c : Core) (o : MemOp) (y : Nat) : (c.addOp o).group? y = c.group? y := rfl

@[simp] theorem Core.group?_modSlot (c : Core) (n y : Nat) (f : Slot → Slot) : (c.modSlot n f).group? y = c.group? y := rfl

@[simp] theorem Core.group?_modGroup (c : Core) (x y : Nat) (f : Group → Group) :
    (c.modGroup x f).group? y = if x = y then (c.group? x).map f else c.group? y := by
  unfold Core.modGroup
  split
  · rename_i g hg
    rw [Core.group?_setGroup, hg]
    rfl
  · rename_i hg
    split
    · rename_i hxy
      rw [← hxy, hg]
      rfl
    · rfl

@[simp] theorem State.group?_modGroup (s : State) (n m x y : Nat) (f : Group → Group) :
    (s.modGroup n x f).group? m y = if n = m ∧ x = y then (s.group? n x).map f else s.group? m y := by
  simp only [State.group?, State.core_modGroup]
  by_cases hn : n = m
  · subst hn
    by_cases hx : x = y <;> simp [hx]
  · simp [hn]

@[simp] theorem State.group?_modQuad (s : State) (n m q y : Nat) (f : Quad → Quad) : (s.modQuad n q f).group? m y = s.group? m y := by
  simp only [State.group?, State.core_modQuad]
  split
  · rename_i h
    subst h
    rfl
  · rfl

@[simp] theorem State.group?_modTeam (s : State) (n m y : Nat) (f : Team → Team) : (s.modTeam n f).group? m y = s.group? m y := by
  simp only [State.group?, State.core_modTeam]
  split
  · rename_i h
    subst h
    rfl
  · rfl

@[simp] theorem State.group?_modOwner (s : State) (k m y : Nat) (f : Owner → Owner) : (s.modOwner k f).group? m y = s.group? m y := rfl

@[simp] theorem Core.quad_setQuad (c : Core) (q p : Nat) (x : Quad) : (c.setQuad q x).quad p = if q = p then x else c.quad p := by
  simp only [Core.quad, Core.setQuad, mget_mset]
  split <;> rfl

@[simp] theorem Core.quad_modQuad (c : Core) (q p : Nat) (f : Quad → Quad) : (c.modQuad q f).quad p = if q = p then f (c.quad q) else c.quad p :=
  Core.quad_setQuad _ _ _ _

@[simp] theorem Core.quad_setGroup (c : Core) (x p : Nat) (g : Group) : (c.setGroup x g).quad p = c.quad p := rfl

@[simp] theorem Core.quad_modGroup (c : Core) (x p : Nat) (f : Group → Group) : (c.modGroup x f).quad p = c.quad p := by
  simp only [Core.quad, Core.modGroup_quads]

@[simp] theorem Core.quad_modTeam (c : Core) (p : Nat) (f : Team → Team) : (c.modTeam f).quad p = c.quad p := rfl

@[simp] theorem Core.quad_addOp (c : Core) (o : MemOp) (p : Nat) : (c.addOp o).quad p = c.quad p := rfl

@[simp] theorem Core.slot_modSlot (c : Core) (n m : Nat) (f : Slot → Slot) : (c.modSlot n f).slot m = if n = m then f (c.slot n) else c.slot m := by
  simp only [Core.slot, Core.modSlot, Core.setSlot, mget_mset]
  split <;> rfl

/-! ### Registers -/

theorem vkey_inj {r r' l l' : Nat} (hr : r < 1024) (hr' : r' < 1024) : vkey r l = vkey r' l' ↔ r = r' ∧ l = l' := by
  simp only [vkey]
  omega

theorem Group.vreg_setVreg (g : Group) (r l r' l' : Nat) (w : Word) :
    (g.setVreg r l w).vreg r' l' = if vkey r l = vkey r' l' then w else g.vreg r' l' := by
  simp only [Group.vreg, Group.setVreg, sget_sset]

theorem Group.vreg_setVreg_same (g : Group) (r l : Nat) (w : Word) : (g.setVreg r l w).vreg r l = w := by rw [Group.vreg_setVreg, if_pos rfl]

theorem Group.vreg_setVreg_ne (g : Group) (r l r' l' : Nat) (w : Word) (h : 1024 * l + r ≠ 1024 * l' + r') : (g.setVreg r l w).vreg r' l' = g.vreg r' l' := by
  rw [Group.vreg_setVreg, if_neg (show ¬vkey r l = vkey r' l' from h)]

@[simp] theorem Group.vreg_setSreg (g : Group) (r r' l : Nat) (w : Word) : (g.setSreg r w).vreg r' l = g.vreg r' l := rfl

@[simp] theorem Group.sreg_setSreg (g : Group) (r r' : Nat) (w : Word) : (g.setSreg r w).sreg r' = if r = r' then w else g.sreg r' := by
  simp only [Group.sreg, Group.setSreg, sget_sset]

@[simp] theorem Group.sreg_setVreg (g : Group) (r l r' : Nat) (w : Word) : (g.setVreg r l w).sreg r' = g.sreg r' := rfl

@[simp] theorem Group.vreg_markRegs (g : Group) (o : Opd) (n last r l : Nat) : (g.markRegs o n last).vreg r l = g.vreg r l := rfl

@[simp] theorem Group.sreg_markRegs (g : Group) (o : Opd) (n last r : Nat) : (g.markRegs o n last).sreg r = g.sreg r := rfl

@[simp] theorem Group.vreg_collect (g : Group) (pc r l : Nat) (xs : List (Nat × Exc)) : (g.collect pc xs).vreg r l = g.vreg r l := by
  simp only [Group.vreg, Group.collect_vregs]

@[simp] theorem Group.sreg_collect (g : Group) (pc r : Nat) (xs : List (Nat × Exc)) : (g.collect pc xs).sreg r = g.sreg r := by
  simp only [Group.sreg, Group.collect_sregs]

end Sys2Proof.Machine
end

