-- ==== Sys2Proof/Laws/Kept.lean ====
section
/-! SUPPORT. What the updates of a group, a quadrant and a core leave as it was: the frames of Safety.lean compose, and each update meets them. -/

namespace Sys2Proof.Machine

theorem GroupKept.refl (g : Group) : GroupKept g g := by constructor <;> first | rfl | exact fun _ h => h

theorem GroupKept.trans {g h k : Group} (a : GroupKept g h) (b : GroupKept h k) : GroupKept g k := by
  constructor
  · exact b.threads.trans a.threads
  · exact b.allot.trans a.allot
  · exact b.hperm.trans a.hperm
  · exact b.origins.trans a.origins
  · exact b.handles.trans a.handles
  · exact b.trapv.trans a.trapv
  · exact b.trapc.trans a.trapc
  · exact b.trapa.trans a.trapa
  · exact b.trapm.trans a.trapm
  · exact b.handling.trans a.handling
  · exact b.mmx.trans a.mmx
  · exact b.segsp.trans a.segsp
  · exact b.segst.trans a.segst
  · exact b.seggl.trans a.seggl
  · exact b.pass.trans a.pass
  · exact b.csn.trans a.csn
  · exact b.region.trans a.region
  · exact b.wait.trans a.wait
  · exact b.wake.trans a.wake
  · exact b.faultWord.trans a.faultWord
  · exact b.uid.trans a.uid
  · exact b.half.trans a.half
  · exact b.acqDue.trans a.acqDue
  · exact b.remote.trans a.remote
  · exact fun x h => a.bad x (b.bad x h)

theorem OutsideKept.refl (s : State) : OutsideKept s s := by constructor <;> intros <;> rfl

theorem OutsideKept.trans {s t v : State} (a : OutsideKept s t) (b : OutsideKept t v) : OutsideKept s v := by
  constructor
  · exact fun x => (b.mem x).trans (a.mem x)
  · exact fun x => (b.host x).trans (a.host x)
  · exact b.races.trans a.races
  · exact fun k => (b.owners k).trans (a.owners k)
  · exact b.mgmt.trans a.mgmt
  · exact b.cycle.trans a.cycle
  · exact b.fab.trans a.fab
  · exact b.l2.trans a.l2
  · exact b.hbm.trans a.hbm
  · exact b.walks.trans a.walks
  · exact b.errors.trans a.errors
  · exact b.inbox.trans a.inbox
  · exact b.outbox.trans a.outbox

theorem QuadKept.refl (q : Quad) : QuadKept q q := by constructor <;> rfl

theorem QuadKept.trans {p q r : Quad} (a : QuadKept p q) (b : QuadKept q r) : QuadKept p r := by
  constructor
  · exact b.rotation.trans a.rotation
  · exact b.holder.trans a.holder
  · exact b.engine.trans a.engine
  · exact b.origins.trans a.origins
  · exact b.copies.trans a.copies
  · exact b.done.trans a.done
  · exact b.enqueued.trans a.enqueued
  · exact b.completed.trans a.completed
  · exact b.seq.trans a.seq

theorem CoreKept.refl (x q : Nat) (c : Core) : CoreKept x q c c := by
  constructor <;> first | exact QuadKept.refl _ | exact Nat.le_refl _ | (intros; rfl)

theorem CoreKept.trans {x q : Nat} {c d e : Core} (a : CoreKept x q c d) (b : CoreKept x q d e) : CoreKept x q c e := by
  constructor
  · exact b.owner.trans a.owner
  · exact b.team.trans a.team
  · exact fun n => (b.sp n).trans (a.sp n)
  · exact b.spEmpty.trans a.spEmpty
  · exact b.before.trans a.before
  · exact b.spRace.trans a.spRace
  · exact b.spBad.trans a.spBad
  · exact b.spRaceBad.trans a.spRaceBad
  · exact b.slots.trans a.slots
  · exact b.l1.trans a.l1
  · exact b.wc.trans a.wc
  · exact b.rwc.trans a.rwc
  · exact b.demands.trans a.demands
  · exact b.mailWaits.trans a.mailWaits
  · exact b.halt.trans a.halt
  · exact b.faults.trans a.faults
  · exact b.dumpbase.trans a.dumpbase
  · exact fun n hn => (b.groups n hn).trans (a.groups n hn)
  · exact fun n hn => (b.quads n hn).trans (a.quads n hn)
  · exact a.quadKept.trans b.quadKept
  · exact fun n hn => (b.ops n (Nat.lt_of_lt_of_le hn a.nextOp)).trans (a.ops n hn)
  · exact Nat.le_trans a.nextOp b.nextOp

theorem ElseKept.refl (s : State) (n x q : Nat) : ElseKept s s n x q := ⟨.refl s, fun _ _ => rfl, .refl _ _ _⟩

theorem ElseKept.trans {s t v : State} {n x q : Nat} (a : ElseKept s t n x q) (b : ElseKept t v n x q) : ElseKept s v n x q :=
  ⟨a.outside.trans b.outside, fun m hm => (b.cores m hm).trans (a.cores m hm), a.core.trans b.core⟩

/-- A change of one core keeps what it keeps of that core. -/
theorem ElseKept.modCore {s : State} {n x q : Nat} {f : Core → Core} (h : CoreKept x q (s.core n) (f (s.core n))) : ElseKept s (s.modCore n f) n x q :=
  ⟨by constructor <;> intros <;> rfl, fun m hm => by rw [State.core_modCore, if_neg (Ne.symm hm)], by rw [State.core_modCore, if_pos rfl]; exact h⟩

theorem CoreKept.setGroup {x q : Nat} {c : Core} {g : Group} : CoreKept x q c (c.setGroup x g) := by
  constructor <;> first
    | exact QuadKept.refl _
    | exact Nat.le_refl _
    | (intro n hn; rw [Core.group?_setGroup, if_neg (Ne.symm hn)])
    | (intros; rfl)

theorem CoreKept.modGroup {x q : Nat} {c : Core} {f : Group → Group} : CoreKept x q c (c.modGroup x f) := by
  unfold Core.modGroup
  split
  · exact .setGroup
  · exact .refl _ _ _

theorem CoreKept.modQuad {x q : Nat} {c : Core} {f : Quad → Quad} (h : QuadKept (c.quad q) (f (c.quad q))) : CoreKept x q c (c.modQuad q f) := by
  constructor <;> first
    | (rw [Core.quad_modQuad, if_pos rfl]; exact h)
    | exact Nat.le_refl _
    | (intro n hn; rw [Core.quad_modQuad, if_neg (Ne.symm hn)])
    | (intros; rfl)

theorem ElseKept.modGroup {s : State} {n x q : Nat} {f : Group → Group} : ElseKept s (s.modGroup n x f) n x q := .modCore .modGroup

theorem ElseKept.modQuad {s : State} {n x q : Nat} {f : Quad → Quad} (h : QuadKept ((s.core n).quad q) (f ((s.core n).quad q))) :
    ElseKept s (s.modQuad n q f) n x q := .modCore (.modQuad h)

theorem CoreKept.addOp {x q : Nat} {c : Core} {o : MemOp} : CoreKept x q c (c.addOp o) := by
  constructor <;> first
    | exact QuadKept.refl _
    | exact Nat.le_succ _
    | (intro k hk; show mget (mset c.ops c.nextOp o) k = _; rw [mget_mset, if_neg (Nat.ne_of_gt hk)])
    | (intros; rfl)

end Sys2Proof.Machine
end

