-- ==== Sys2Proof/Laws/Issue.lean ====
section
/-! SUPPORT. What issuing does: the request of a code line, the count of retired instructions, the start of an instruction, and the one law of an
instruction that issues. -/

namespace Sys2Proof.Machine

/-- A request of a code line changes the group's lines alone, and may add the fetch. -/
theorem Core.requestLine_law (c : Core) (x line now q : Nat) (d : Bool) (g : Group) (h : c.group? x = some g) :
    ∃ ls, (c.requestLine x line now d).group? x = some { g with lines := ls } ∧ CoreKept x q c (c.requestLine x line now d)
      ∧ (c.requestLine x line now d).quads = c.quads := by
  unfold Core.requestLine
  rw [h]
  dsimp only
  split
  · exact ⟨g.lines, h, .refl _ _ _, rfl⟩
  · exact ⟨_, by rw [Core.group?_setGroup, if_pos rfl], CoreKept.addOp.trans .setGroup, rfl⟩

/-- A change of the group of a seat by its number changes that group, or nothing. -/
theorem State.modGroupOf_law (s : State) (n x uid q : Nat) (f : Group → Group) (g : Group) (h : s.group? n x = some g) :
    (s.modGroupOf n x uid f).group? n x = some (if g.uid = uid then f g else g) ∧ ElseKept s (s.modGroupOf n x uid f) n x q
      ∧ ((s.modGroupOf n x uid f).core n).quads = (s.core n).quads := by
  unfold State.modGroupOf State.groupOf Core.groupOf
  rw [show (s.core n).group? x = some g from h]
  dsimp only
  by_cases hu : g.uid = uid
  · simp only [hu, if_true]
    refine ⟨?_, ElseKept.modCore .setGroup, ?_⟩
    · simp only [State.group?, State.core_modCore, if_pos, Core.group?_setGroup]
    · rw [State.core_modCore, if_pos rfl, Core.setGroup_quads]
  · simp only [hu, if_false]
    exact ⟨h, .refl _ _ _ _, trivial⟩

/-- Retiring counts, and does nothing else. -/
theorem State.retiredAt_law (s : State) (n x uid last q : Nat) (g : Group) (h : s.group? n x = some g) :
    ∃ m ls, (s.retiredAt n x uid last).group? n x = some { g with rcnt := m, late := ls } ∧ ElseKept s (s.retiredAt n x uid last) n x q
      ∧ ((s.retiredAt n x uid last).core n).quads = (s.core n).quads := by
  unfold State.retiredAt
  obtain ⟨hg, hk, hq⟩ := State.modGroupOf_law s n x uid q _ g h
  rw [hg]
  refine (?_ : ∃ m ls, _ = _).elim fun m ⟨ls, e⟩ => ⟨m, ls, e, hk, hq⟩
  split
  · split
    · exact ⟨g.rcnt, g.late, rfl⟩
    · exact ⟨_, _, rfl⟩
  · exact ⟨g.rcnt, g.late, rfl⟩

/-- Asking for the next line changes the group's lines alone. -/
theorem State.askNext_law (s : State) (c : Ctx) (g : Group) (h : s.group? c.core c.seat = some g) (hp : g.pc = nextPc c.pc) :
    ∃ ls, (s.askNext c).group? c.core c.seat = some { g with lines := ls } ∧ ElseKept s (s.askNext c) c.core c.seat c.quad
      ∧ ((s.askNext c).core c.core).quads = (s.core c.core).quads := by
  unfold State.askNext
  split
  · split
    · exact ⟨g.lines, h, .refl _ _ _ _, rfl⟩
    · simp only [State.group?, State.core_modCore, if_pos, Core.askNext]
      generalize hco : (s.core c.core).modGroup c.seat _ = co
      have kco : CoreKept c.seat c.quad (s.core c.core) co := hco ▸ .modGroup
      have qco : co.quads = (s.core c.core).quads := by rw [← hco, Core.modGroup_quads]
      have gco : ∃ ls, co.group? c.seat = some { g with pc := c.pc, lines := ls } := by
        rw [← hco, Core.group?_modGroup, if_pos rfl, show (s.core c.core).group? c.seat = some g from h]
        exact ⟨_, rfl⟩
      obtain ⟨ls0, gco⟩ := gco
      obtain ⟨ls, hg, hk, hq⟩ := Core.requestLine_law co c.seat (c.pc / 64 * 64 + 64) c.now c.quad false _ gco
      refine ⟨ls, ?_, .modCore ?_, ?_⟩
      · rw [Core.group?_modGroup, if_pos rfl, hg, ← hp]
        rfl
      · rw [hco]
        exact kco.trans (hk.trans .modGroup)
      · rw [Core.modGroup_quads, hq, qco]
  · exact ⟨g.lines, h, .refl _ _ _ _, rfl⟩

/-- THE START OF AN INSTRUCTION (R119, R246, R287): the PC moves to the next slot; registers, latches, and the rest of the machine stay. -/
theorem State.begin_law (s : State) (i : Instr) (c : Ctx) (r : Row) (g : Group) (h : s.group? c.core c.seat = some g) :
    ∃ ls n ts rs, (s.begin i c r).group? c.core c.seat = some { g with pc := nextPc c.pc, tcheck := false, lines := ls, rcnt := n, late := ts, reads := rs }
      ∧ ElseKept s (s.begin i c r) c.core c.seat c.quad
      ∧ (((s.begin i c r).core c.core).quad c.quad).latches = ((s.core c.core).quad c.quad).latches := by
  unfold State.begin
  dsimp only
  generalize h1 : s.modGroup c.core c.seat (fun g => { g with pc := nextPc c.pc, tcheck := false, reads := if c.pc = c.first then none else g.reads }) = s1
  generalize hrs : (if c.pc = c.first then none else g.reads) = rs
  have g1 : s1.group? c.core c.seat = some { g with pc := nextPc c.pc, tcheck := false, reads := rs } := by
    rw [← h1, State.group?_modGroup, if_pos ⟨rfl, rfl⟩, h, ← hrs]
    rfl
  have k1 : ElseKept s s1 c.core c.seat c.quad := h1 ▸ .modGroup
  have q1 : (s1.core c.core).quads = (s.core c.core).quads := by rw [← h1, State.core_modGroup, if_pos rfl, Core.modGroup_quads]
  clear h1
  obtain ⟨ls, g2, k2, q2⟩ := State.askNext_law s1 c _ g1 rfl
  replace k2 := k1.trans k2
  replace q2 := q2.trans q1
  generalize s1.askNext c = s2 at *
  generalize h3 : s2.modQuad c.core c.quad (fun q => if 0 < r.fma then { q with fmaBusy := c.now + r.fma - 1 } else q) = s3
  have g3 : s3.group? c.core c.seat = some { g with pc := nextPc c.pc, tcheck := false, lines := ls, reads := rs } := by rw [← h3, State.group?_modQuad, g2]
  have k3 : ElseKept s s3 c.core c.seat c.quad := by
    rw [← h3]
    refine k2.trans (.modQuad ?_)
    split
    · constructor <;> rfl
    · exact .refl _
  have l3 : ((s3.core c.core).quad c.quad).latches = ((s.core c.core).quad c.quad).latches := by
    have : (s2.core c.core).quad c.quad = (s.core c.core).quad c.quad := by simp only [Core.quad, q2]
    rw [← h3, State.core_modQuad, if_pos rfl, Core.quad_modQuad, if_pos rfl]
    split
    · rw [← this]
    · rw [← this]
  clear h3
  split
  · exact ⟨ls, g.rcnt, g.late, rs, g3, k3, l3⟩
  · obtain ⟨n, ts, hg, hk, hq⟩ := State.retiredAt_law s3 c.core c.seat c.g.uid (retireEnd i r c.now) c.quad _ g3
    exact ⟨ls, n, ts, rs, hg, k3.trans hk, by simp only [Core.quad, hq] at l3 ⊢; exact l3⟩

/-- What an instruction recalls that issues again is what it read: its issuer stays. -/
theorem Ctx.recall_law (c : Ctx) :
    c.recall.core = c.core ∧ c.recall.quad = c.quad ∧ c.recall.seat = c.seat ∧ c.recall.owner = c.owner ∧ c.recall.now = c.now ∧ c.recall.pc = c.pc
      ∧ c.recall.first = c.first ∧ c.recall.g.threads = c.g.threads ∧ c.recall.g.uid = c.g.uid := by
  unfold Ctx.recall
  split
  · split <;> exact ⟨rfl, rfl, rfl, rfl, rfl, rfl, rfl, rfl, rfl⟩
  · exact ⟨rfl, rfl, rfl, rfl, rfl, rfl, rfl, rfl, rfl⟩

/-- The context names the core, quadrant and seat of the issuer. -/
theorem State.ctx?_law {s : State} {u : Issuing} {c : Ctx} (h : s.ctx? u = some c) :
    c.core = u.core ∧ c.quad = u.quad ∧ c.seat = u.seat ∧ c.owner = s.ownerOf u.core ∧ c.now = s.now u.core := by
  unfold State.ctx? at h
  dsimp only at h
  split at h
  · cases h
  · cases h
    obtain ⟨h1, h2, h3, h4, h5, _⟩ := Ctx.recall_law _
    exact ⟨h1, h2, h3, h4, h5⟩

/-- ISSUING (R44, R130, R133): an instruction that issues does what its effect does to the started state. -/
theorem issue_law {s : State} {i : Instr} {u : Issuing} {c : Ctx} {r : Row} {g : Group} (h : Issues s i u c r g) (eff : Ctx → State → Effect) :
    issue i eff s = .next (match eff c ((s.ordered i c).begin i c r) with | .ok t => t | .error t => s.raise u t) := by
  unfold issue
  rw [h.cur]
  dsimp only
  rw [h.ctx]
  dsimp only
  unfold State.issueAs
  rw [h.row]
  dsimp only
  rw [h.passes, h.solves]
  dsimp only [Option.or]
  rw [h.ready, h.effect]
  rfl

/-- An instruction that is no gated access, no `TOKW`, and orders nothing is started from the state as it stands (R76, R284). -/
theorem State.ordered_plain {s : State} {i : Instr} {c : Ctx} (hg : s.gated i c = false) (hd : s.drainScope i c = none) (ht : isTokw i = false) :
    s.ordered i c = s := by
  simp [State.ordered, State.gateAcquire, State.startDrains, hg, hd, ht]

theorem issue_ok {s : State} {i : Instr} {u : Issuing} {c : Ctx} {r : Row} {g : Group} (h : Issues s i u c r g) (hp : s.ordered i c = s)
    {eff : Ctx → State → Effect} {t : State} (he : eff c (s.begin i c r) = .ok t) : issue i eff s = .next t := by
  rw [issue_law h, hp, he]

end Sys2Proof.Machine
end

