-- ==== Sys2Proof/Laws/Alu.lean ====
section
/-! SUPPORT. Register instructions: what writing results by lane leaves in registers and latches, and the one law of a register instruction. -/

namespace Sys2Proof.Machine

@[simp] theorem lo32_pair (a b : Word) : lo32 (pair64 a b) = a := by
  unfold lo32 pair64
  ext i hi
  have h := BitVec.getLsbD_append (x := b) (y := a) (i := i)
  simp only [hi, ↓reduceIte] at h
  simp only [BitVec.getElem_extractLsb', Nat.zero_add]
  exact h

@[simp] theorem hi32_pair (a b : Word) : hi32 (pair64 a b) = b := by
  unfold hi32 pair64
  ext i hi
  have h := BitVec.getLsbD_append (x := b) (y := a) (i := 32 + i)
  simp only [show ¬(32 + i < 32) by omega, ↓reduceIte, Nat.add_sub_cancel_left] at h
  simp only [BitVec.getElem_extractLsb']
  exact h

theorem pair_lo_hi (d : DWord) : pair64 (lo32 d) (hi32 d) = d := by
  unfold pair64 lo32 hi32
  ext i hi
  simp only [BitVec.getElem_append, BitVec.getElem_extractLsb']
  split <;> simp_all

/-- A read after a write of the same operand in the same lane. -/
theorem Group.holds_writeOpd (g : Group) (o : Opd) (n l : Nat) (d : DWord) (ho : (regId? o).isSome = true) : (g.writeOpd o n l d).holds o n l = cutTo n d := by
  cases o with
  | v r =>
    simp only [Group.holds, Group.writeOpd, cutTo, Group.readReg]
    split
    · simp [Group.vreg_setVreg]
    · simp only [↓reduceIte]
      rw [Group.vreg_setVreg_ne _ _ _ _ _ _ (by omega), Group.vreg_setVreg_same, Group.vreg_setVreg_same]
      exact pair_lo_hi d
  | s r =>
    simp only [Group.holds, Group.writeOpd, cutTo, Group.readReg]
    split
    · simp
    · simp [pair_lo_hi]
  | h _ => cases ho
  | b _ => cases ho

/-- A write of a lane register leaves the other lanes as they were. -/
theorem Group.holds_writeOpd_ne (g : Group) (r : BitVec 8) (n l l' : Nat) (d : DWord) (h : l ≠ l') :
    (g.writeOpd (.v r) n l d).holds (.v r) n l' = g.holds (.v r) n l' := by
  simp only [Group.holds, Group.writeOpd, Group.readReg, ↓reduceIte]
  have hr := r.isLt
  split
  · rw [Group.vreg_setVreg_ne _ _ _ _ _ _ (by omega)]
  · rw [Group.vreg_setVreg_ne _ _ _ _ _ _ (by omega), Group.vreg_setVreg_ne _ _ _ _ _ _ (by omega), Group.vreg_setVreg_ne _ _ _ _ _ _ (by omega),
      Group.vreg_setVreg_ne _ _ _ _ _ _ (by omega)]

/-- The last result that a list has for a lane. -/
def lastFor : Results → Nat → Option DWord
  | [], _ => none
  | p :: ps, l => (lastFor ps l).or (if p.1 = l then some p.2 else none)

theorem lastFor_none (rs : Results) (l : Nat) (h : l ∉ rs.map Prod.fst) : lastFor rs l = none := by
  induction rs with
  | nil => rfl
  | cons q qs ih =>
    simp only [List.map_cons, List.mem_cons, not_or] at h
    simp only [lastFor, ih h.2, Ne.symm h.1, ↓reduceIte, Option.or_none]

theorem lastFor_of_eq (val : Nat → DWord) (rs : Results) (hv : ∀ p ∈ rs, p.2 = val p.1) (l : Nat) (hl : l ∈ rs.map Prod.fst) :
    lastFor rs l = some (val l) := by
  induction rs with
  | nil => cases hl
  | cons p ps ih =>
    simp only [lastFor]
    by_cases h : l ∈ ps.map Prod.fst
    · rw [ih (fun q hq => hv q (List.mem_cons_of_mem _ hq)) h]
      rfl
    · have hp : l = p.1 := by
        rcases List.mem_cons.1 hl with h' | h'
        · exact h'
        · exact absurd h' h
      rw [lastFor_none ps l h, hp, if_pos rfl, hv p (by simp)]
      rfl

/-- Results by lane: the last one for a lane stands in it. -/
theorem Group.holds_writeResults (r : BitVec 8) (n : Nat) (rs : Results) (g : Group) (l : Nat) :
    (g.writeResults (.v r) n rs).holds (.v r) n l = match lastFor rs l with | some d => cutTo n d | none => g.holds (.v r) n l := by
  induction rs generalizing g with
  | nil => rfl
  | cons p ps ih =>
    show (Group.writeResults (g.writeOpd (.v r) n p.1 p.2) (.v r) n ps).holds (.v r) n l = _
    rw [ih]
    simp only [lastFor]
    cases h : lastFor ps l with
    | some d => rfl
    | none =>
      by_cases he : p.1 = l
      · simp only [he, ↓reduceIte, Option.none_or]
        rw [← he, Group.holds_writeOpd _ _ _ _ _ rfl]
      · simp only [he, ↓reduceIte, Option.none_or]
        rw [Group.holds_writeOpd_ne _ _ _ _ _ _ he]

theorem RegsKept.refl (o : Opd) (n : Nat) (ls : List Nat) (g : Group) : RegsKept o n ls g g := ⟨fun _ _ _ _ => rfl, fun _ _ => rfl⟩

/-- Writing an operand of one or two registers in a lane leaves every other register. -/
theorem Group.kept_writeOpd (g : Group) (o : Opd) (n l : Nat) (ls : List Nat) (d : DWord) (hn : n = 1 ∨ n = 2) (hl : l ∈ ls) :
    RegsKept o n ls g (g.writeOpd o n l d) := by
  cases o with
  | v r =>
    have hr := r.isLt
    refine ⟨fun k j hk hc => ?_, fun k _ => ?_⟩
    · have : ¬((r.toNat ≤ k ∧ k < r.toNat + n) ∧ j = l) := fun h => hc ⟨⟨rfl, h.1⟩, h.2 ▸ hl⟩
      simp only [Group.writeOpd]
      rcases hn with rfl | rfl
      · simp only [↓reduceIte]
        rw [Group.vreg_setVreg_ne _ _ _ _ _ _ (by omega)]
      · simp only [show ¬(2 = 1) by omega, ↓reduceIte]
        rw [Group.vreg_setVreg_ne _ _ _ _ _ _ (by omega), Group.vreg_setVreg_ne _ _ _ _ _ _ (by omega)]
    · simp only [Group.writeOpd]
      split <;> rfl
  | s r =>
    refine ⟨fun k j _ _ => ?_, fun k hc => ?_⟩
    · simp only [Group.writeOpd]
      split <;> rfl
    · have : ¬(r.toNat ≤ k ∧ k < r.toNat + n) := fun h => hc ⟨rfl, h⟩
      simp only [Group.writeOpd]
      rcases hn with rfl | rfl
      · simp only [↓reduceIte, Group.sreg_setSreg]
        rw [if_neg (by omega)]
      · simp only [show ¬(2 = 1) by omega, ↓reduceIte, Group.sreg_setSreg]
        rw [if_neg (by omega), if_neg (by omega)]
  | h _ => exact .refl _ _ _ _
  | b _ => exact .refl _ _ _ _

theorem RegsKept.trans {o : Opd} {n : Nat} {ls : List Nat} {g h k : Group} (a : RegsKept o n ls g h) (b : RegsKept o n ls h k) : RegsKept o n ls g k :=
  ⟨fun x l hx hc => (b.1 x l hx hc).trans (a.1 x l hx hc), fun x hc => (b.2 x hc).trans (a.2 x hc)⟩

theorem Group.kept_writeResults (o : Opd) (n : Nat) (ls : List Nat) (hn : n = 1 ∨ n = 2) (rs : Results) (hl : ∀ p ∈ rs, p.1 ∈ ls) (g : Group) :
    RegsKept o n ls g (g.writeResults o n rs) := by
  induction rs generalizing g with
  | nil => exact .refl _ _ _ _
  | cons p ps ih =>
    exact (Group.kept_writeOpd g o n p.1 ls p.2 hn (hl p (by simp))).trans (ih (fun q hq => hl q (List.mem_cons_of_mem _ hq)) _)

theorem GroupKept.setVreg (g : Group) (r l : Nat) (w : Word) : GroupKept g (g.setVreg r l w) := by
  constructor <;> first | rfl | exact fun _ h => (List.mem_filter.mp h).1

theorem GroupKept.setSreg (g : Group) (r : Nat) (w : Word) : GroupKept g (g.setSreg r w) := by
  constructor <;> first | rfl | exact fun _ h => (List.mem_filter.mp h).1

theorem GroupKept.writeOpd (g : Group) (o : Opd) (n l : Nat) (d : DWord) : GroupKept g (g.writeOpd o n l d) := by
  cases o <;> simp only [Group.writeOpd] <;> (try split) <;> first
    | exact .refl _
    | exact .setVreg _ _ _ _
    | exact .setSreg _ _ _
    | exact (GroupKept.setVreg _ _ _ _).trans (.setVreg _ _ _ _)
    | exact (GroupKept.setSreg _ _ _).trans (.setSreg _ _ _)

theorem GroupKept.writeResults (o : Opd) (n : Nat) (rs : Results) (g : Group) : GroupKept g (g.writeResults o n rs) := by
  induction rs generalizing g with
  | nil => exact .refl _
  | cons p ps ih => exact (GroupKept.writeOpd g o n p.1 p.2).trans (ih _)

theorem GroupKept.collect (g : Group) (pc : Nat) (xs : List (Nat × Exc)) : GroupKept g (g.collect pc xs) := by constructor <;> simp

theorem mget_map_lane {α : Type} (f : Nat → Nat × α) (hf : ∀ x, (f x).1 = x) (ls : List Nat) (l : Nat) :
    mget (ls.map f) l = if l ∈ ls then some (f l).2 else none := by
  induction ls with
  | nil => rfl
  | cons x xs ih =>
    have : mget ((x :: xs).map f) l = if (f x).1 = l then some (f x).2 else mget (xs.map f) l := rfl
    rw [this, hf, ih]
    simp only [List.mem_cons]
    by_cases h : x = l
    · subst h
      simp
    · have h' : ¬l = x := fun e => h e.symm
      simp [h, h']

theorem list_singleton {α β : Type} {f : α → β} {xs : List α} {y : β} (h : xs.map f = [y]) : ∃ x, xs = [x] ∧ f x = y := by
  cases xs with
  | nil => cases h
  | cons x xs =>
    cases xs with
    | nil => exact ⟨x, rfl, by simpa using h⟩
    | cons z zs => simp at h

/-- A table that gives every lane of a list its value. -/
theorem mget_results (rs : Results) (val : Nat → DWord) (hv : ∀ p ∈ rs, p.2 = val p.1) (l : Nat) :
    mget rs l = if l ∈ rs.map Prod.fst then some (val l) else none := by
  induction rs with
  | nil => rfl
  | cons p ps ih =>
    simp only [mget, List.map_cons, List.mem_cons, ih (fun q hq => hv q (List.mem_cons_of_mem _ hq))]
    have hp := hv p (by simp)
    by_cases h : p.1 = l
    · subst h
      simp [hp]
    · have h' : ¬l = p.1 := fun e => h e.symm
      simp [h, h']

theorem Group.holds_congr {g h : Group} (hv : h.vregs = g.vregs) (hs : h.sregs = g.sregs) (o : Opd) (n l : Nat) : h.holds o n l = g.holds o n l := by
  cases o <;> simp only [Group.holds, Group.readReg, Group.vreg, Group.sreg, hv, hs]

/-- What a register instruction leaves of its group. -/
def aluGroup (c : Ctx) (r : Row) (rs : Results) (xs : List (Nat × Exc)) (g : Group) : Group :=
  if r.hdr.nwb then g.collect c.pc xs
  else ((g.collect c.pc xs).writeResults r.dst r.dk.words rs).markRegs r.dst r.dk.words (c.now + r.lat - 1)

theorem aluGroup_kept (c : Ctx) (r : Row) (rs : Results) (xs : List (Nat × Exc)) (g : Group) : GroupKept g (aluGroup c r rs xs g) := by
  unfold aluGroup
  split
  · exact .collect _ _ _
  · exact ((GroupKept.collect _ _ _).trans (.writeResults _ _ _ _)).trans (by constructor <;> first | rfl | exact fun _ h => h)

theorem writeResults_pc (o : Opd) (n : Nat) (rs : Results) (g : Group) : (g.writeResults o n rs).pc = g.pc := by
  induction rs generalizing g with
  | nil => rfl
  | cons p ps ih =>
    refine (ih (g.writeOpd o n p.1 p.2)).trans ?_
    cases o <;> simp only [Group.writeOpd] <;> (try split) <;> rfl

theorem aluGroup_pc (c : Ctx) (r : Row) (rs : Results) (xs : List (Nat × Exc)) (g : Group) : (aluGroup c r rs xs g).pc = g.pc := by
  unfold aluGroup
  split
  · simp
  · rw [Group.markRegs_pc, writeResults_pc, Group.collect_pc]

theorem State.writeAlu_group (s : State) (c : Ctx) (r : Row) (rs : Results) (xs : List (Nat × Exc)) (g : Group) (h : s.group? c.core c.seat = some g) :
    (s.writeAlu c r rs xs).group? c.core c.seat = some (aluGroup c r rs xs g) := by
  unfold State.writeAlu
  dsimp only
  have h1 : (s.modGroup c.core c.seat (fun g => if r.hdr.nwb = true then g.collect c.pc xs
      else ((g.collect c.pc xs).writeResults r.dst r.dk.words rs).markRegs r.dst r.dk.words (c.now + r.lat - 1))).group? c.core c.seat
        = some (aluGroup c r rs xs g) := by
    rw [State.group?_modGroup, if_pos ⟨rfl, rfl⟩, h]
    rfl
  split
  · rw [h1]
    dsimp only
    rw [State.group?_modQuad, h1]
  · exact h1

theorem State.writeAlu_else (s : State) (c : Ctx) (r : Row) (rs : Results) (xs : List (Nat × Exc)) :
    ElseKept s (s.writeAlu c r rs xs) c.core c.seat c.quad := by
  unfold State.writeAlu
  dsimp only
  split
  · split
    · exact ElseKept.modGroup.trans (.modQuad (by constructor <;> rfl))
    · exact .modGroup
  · exact .modGroup

theorem State.writeAlu_latches (s : State) (c : Ctx) (r : Row) (rs : Results) (xs : List (Nat × Exc)) (g : Group) (h : s.group? c.core c.seat = some g) :
    (((s.writeAlu c r rs xs).core c.core).quad c.quad).latches =
      if r.latch then mset ((s.core c.core).quad c.quad).latches (latchOf c.now) (latchValues (aluGroup c r rs xs g) r rs)
      else ((s.core c.core).quad c.quad).latches := by
  have hg := State.writeAlu_group s c r rs xs g h
  unfold State.writeAlu at hg ⊢
  dsimp only at hg ⊢
  split
  · rename_i hl
    rw [if_pos hl] at hg
    split
    · rename_i g' hg'
      rw [hg'] at hg
      dsimp only at hg
      rw [State.group?_modQuad, hg'] at hg
      cases hg
      rw [State.core_modQuad, if_pos rfl, Core.quad_modQuad, if_pos rfl, State.core_modGroup, if_pos rfl, Core.quad_modGroup]
    · rename_i hg'
      rw [State.group?_modGroup, if_pos ⟨rfl, rfl⟩, h] at hg'
      cases hg'
  · rw [State.core_modGroup, if_pos rfl, Core.quad_modGroup]

/-- What the destination holds after a register instruction. -/
theorem aluGroup_holds (c : Ctx) (r : Row) (rs : Results) (xs : List (Nat × Exc)) (g : Group) (val : Nat → DWord) (hd : (regId? r.dst).isSome = true)
    (hv : ∀ l ∈ rs.map Prod.fst, lastFor rs l = some (val l)) (hs : isS r.dst = true → rs.map Prod.fst = [c.lane0]) (hw : r.hdr.nwb = false) :
    ∀ l ∈ rs.map Prod.fst, (aluGroup c r rs xs g).holds r.dst r.dk.words l = cutTo r.dk.words (val l) := by
  intro l hl
  unfold aluGroup
  rw [hw]
  simp only [Bool.false_eq_true, ↓reduceIte]
  rw [Group.holds_congr (g := (g.collect c.pc xs).writeResults r.dst r.dk.words rs) (h := Group.markRegs _ _ _ _) rfl rfl]
  cases hdst : r.dst with
  | v n => rw [Group.holds_writeResults, hv l hl]
  | s n =>
    rw [hdst] at hs
    have hs := hs rfl
    obtain ⟨p, rfl, hp⟩ := list_singleton hs
    simp only [List.map_cons, List.map_nil, List.mem_singleton] at hl
    subst hl
    show ((g.collect c.pc xs).writeOpd (.s n) r.dk.words p.1 p.2).holds _ _ _ = _
    have := hv p.1 (by simp)
    simp only [lastFor, ↓reduceIte, Option.none_or, Option.some.injEq] at this
    rw [Group.holds_writeOpd _ _ _ _ _ rfl, this]
  | h n => rw [hdst] at hd; cases hd
  | b n => rw [hdst] at hd; cases hd

theorem aluGroup_regs (c : Ctx) (r : Row) (rs : Results) (xs : List (Nat × Exc)) (g : Group) (hn : r.dk.words = 1 ∨ r.dk.words = 2) :
    RegsKept r.dst (if r.hdr.nwb then 0 else r.dk.words) (rs.map Prod.fst) g (aluGroup c r rs xs g) := by
  unfold aluGroup
  split
  · exact ⟨fun _ _ _ _ => by simp, fun _ _ => by simp⟩
  · refine RegsKept.trans (h := g.collect c.pc xs) ⟨fun _ _ _ _ => by simp, fun _ _ => by simp⟩ ?_
    refine RegsKept.trans (Group.kept_writeResults r.dst r.dk.words _ hn rs (fun p hp => List.mem_map_of_mem hp) _) ⟨fun _ _ _ _ => by simp, fun _ _ => by simp⟩

/-- THE LAW OF A REGISTER INSTRUCTION: an instruction that issues and writes `val` by lane leaves what `RegisterResult` says. -/
theorem registerResult {s t : State} {i : Instr} {u : Issuing} {c : Ctx} {r : Row} {g : Group} (h : Issues s i u c r g) (rs : Results)
    (xs : List (Nat × Exc)) (val : Nat → DWord) (ht : t = (s.begin i c r).writeAlu c r rs xs) (hd : (regId? r.dst).isSome = true)
    (hn : r.dk.words = 1 ∨ r.dk.words = 2) (hv : ∀ l ∈ rs.map Prod.fst, lastFor rs l = some (val l))
    (hv' : r.latch = true → ∀ p ∈ rs, p.2 = val p.1) (hs : isS r.dst = true → rs.map Prod.fst = [c.lane0]) :
    ∃ g', RegisterResult s t u c r g (rs.map Prod.fst) val g' := by
  obtain ⟨hc, hq, hx, -, -⟩ := State.ctx?_law h.ctx
  have hg := h.seated
  rw [← hc, ← hx] at hg
  obtain ⟨ls, n, ts, rs', bg, bk, bl⟩ := State.begin_law s i c r g hg
  subst ht
  have wg := State.writeAlu_group _ c r rs xs _ bg
  have wl := State.writeAlu_latches _ c r rs xs _ bg
  generalize hgb : ({ g with pc := nextPc c.pc, tcheck := false, lines := ls, rcnt := n, late := ts, reads := rs' } : Group) = gb at *
  have kb : GroupKept g gb := by rw [← hgb]; constructor <;> first | rfl | exact fun _ h => h
  have hvr : gb.vregs = g.vregs := by rw [← hgb]
  have hs' : gb.sregs = g.sregs := by rw [← hgb]
  have rb : ∀ o n ls, RegsKept o n ls g gb := fun _ _ _ => ⟨fun _ _ _ _ => by simp only [Group.vreg, hvr], fun _ _ => by simp only [Group.sreg, hs']⟩
  have reg := (rb _ _ _).trans (aluGroup_regs c r rs xs gb hn)
  refine ⟨aluGroup c r rs xs gb, ?_, ?_, ?_, reg, kb.trans (aluGroup_kept _ _ _ _ _), ?_, ?_, ?_⟩
  · rw [← hc, ← hx]
    exact wg
  · rw [aluGroup_pc, ← hgb]
  · exact fun hw => aluGroup_holds c r rs xs gb val hd hv hs hw
  · rw [← hc, ← hx, ← hq]
    exact bk.trans (State.writeAlu_else _ _ _ _ _)
  · intro hl l hlane
    rw [← hc, ← hq, Quad.latch, wl, if_pos hl, mget_mset, if_pos (show latchOf c.now = c.now % 4 from rfl)]
    have hth : (aluGroup c r rs xs gb).lanes = g.lanes := by
      unfold Group.lanes
      rw [(aluGroup_kept c r rs xs gb).threads, kb.threads]
    simp only [Option.bind_some, latchValues, hth]
    cases hS : isS r.dst with
    | true =>
      obtain ⟨p, rfl, hp⟩ := list_singleton (hs hS)
      simp only [↓reduceIte]
      rw [mget_map_lane _ (fun _ => rfl), if_pos hlane]
      simp only [List.head?_cons, Option.map_some, Option.getD_some]
      rw [hv' hl p (by simp), hp]
    | false =>
      simp only [Bool.false_eq_true, ↓reduceIte]
      rw [mget_map_lane _ (fun x => by split <;> rfl), if_pos hlane, mget_results rs val (hv' hl) l]
      by_cases hm : l ∈ rs.map Prod.fst
      · simp only [hm, ↓reduceIte]
      · simp only [hm, ↓reduceIte]
        cases hdst : r.dst with
        | v n => rfl
        | s n => rw [hdst] at hS; cases hS
        | h n => rw [hdst] at hd; cases hd
        | b n => rw [hdst] at hd; cases hd
  · intro b hb l
    rw [← hc, ← hq, Quad.latch, wl, Quad.latch, ← bl]
    split
    · rename_i hl
      rw [mget_mset, if_neg (by unfold latchOf; exact fun e => hb hl e.symm)]
    · rfl

/-- A well-formed instruction with a register destination names a register (R125). -/
theorem dst_register {i : Instr} {r : Row} (hw : i.wf = true) (hr : row? i = some r) {n : Nat} (hk : r.dk = .reg n) : (regId? r.dst).isSome = true := by
  simp only [Instr.wf, Instr.operandsLegal, hr, Bool.and_eq_true] at hw
  have h := hw.1.2.1
  rw [hk] at h
  cases hd : r.dst with
  | v _ => rfl
  | s _ => rfl
  | h _ => rw [hd] at h; cases h
  | b _ => rw [hd] at h; cases h

/-- A register instruction with a result and exceptions in each lane in which it computes. -/
theorem aluExc_law {s : State} {i : Instr} {u : Issuing} {c : Ctx} {r : Row} {g : Group} (h : Issues s i u c r g) (hp : s.ordered i c = s) (f : Ctx → Nat → DWord × Exc)
    (hd : (regId? r.dst).isSome = true) (hn : r.dk.words = 1 ∨ r.dk.words = 2) :
    ∃ t g', aluExc i f s = .next t ∧ RegisterResult s t u c r g (c.aluLanes r) (fun l => (f c l).1) g' := by
  have he : aluEffect i f c (s.begin i c r) = .ok ((s.begin i c r).writeAlu c r (((c.aluLanes r).map (fun l => (l, f c l))).map (fun p => (p.1, p.2.1)))
      (((c.aluLanes r).map (fun l => (l, f c l))).map (fun p => (p.1, p.2.2)))) := by
    unfold aluEffect
    rw [h.row]
  have hm : (((c.aluLanes r).map (fun l => (l, f c l))).map (fun p => (p.1, p.2.1))).map Prod.fst = c.aluLanes r := by
    rw [List.map_map, List.map_map]
    exact List.map_id _
  have hv : ∀ p ∈ ((c.aluLanes r).map (fun l => (l, f c l))).map (fun p => (p.1, p.2.1)), p.2 = (f c p.1).1 := by
    intro p hp
    rw [List.map_map] at hp
    obtain ⟨l, -, rfl⟩ := List.mem_map.1 hp
    rfl
  obtain ⟨g', hr⟩ := registerResult h _ _ (fun l => (f c l).1) rfl hd hn (lastFor_of_eq _ _ hv) (fun _ => hv) (fun hS => by rw [hm, Ctx.aluLanes, if_pos hS])
  rw [hm] at hr
  exact ⟨_, g', issue_ok h hp he, hr⟩

theorem alu_law {s : State} {i : Instr} {u : Issuing} {c : Ctx} {r : Row} {g : Group} (h : Issues s i u c r g) (hp : s.ordered i c = s) (f : Ctx → Nat → DWord)
    (hd : (regId? r.dst).isSome = true) (hn : r.dk.words = 1 ∨ r.dk.words = 2) :
    ∃ t g', alu i f s = .next t ∧ RegisterResult s t u c r g (c.aluLanes r) (fun l => f c l) g' :=
  aluExc_law h hp (fun c l => (f c l, 0)) hd hn

end Sys2Proof.Machine
end

