-- ==== Sys2Proof/Tests/Slice0.lean ====
section
/-! SUPPORT. Small tests: words written out from the spec's encodings, one refused term for each check of WellFormed, results worked out by hand from the spec's rules, and states
that meet the hypotheses of the statements. -/

set_option Elab.async false

namespace Sys2Proof.Tests

open Sys2Proof Sys2Proof.Machine Sys2Proof.Claims

/-! ### Decoding: fields at the bits of R124, codes of R125 to R127 -/

/-- A word: major opcode, SUB, and the other fields as (lowest bit, value). -/
def word (opc sub : Nat) (fields : List (Nat × Nat)) : IWord := BitVec.ofNat 96 (opc * 2 ^ 88 + sub * 2 ^ 80 + (fields.map (fun f => f.2 * 2 ^ f.1)).sum)

/-- A word decodes to an instruction, and is the instruction's word. -/
def reads (p : IWord × Instr) : Bool := (match decode p.1 with | .ok i => decide (i = p.2) | .error _ => false) && encode p.2 == p.1

/-- A word is refused, by this name. -/
def refuses (p : IWord × Reject) : Bool := match decode p.1 with | .ok _ => false | .error e => decide (e = p.2)

def hdr (sub : BitVec 8) : Hdr := { sub := sub, guard := none, nwb := false }
/-- Guarded by bit 0 of a register. -/
def hdrIf (sub : BitVec 8) (r : Opd) : Hdr := { sub := sub, guard := some { reg := r, bit := 0, neg := false }, nwb := false }

def fa (sub : BitVec 8) (d a b c : Opd) (ty : Ty) (opt : BitVec 19) : FmtA :=
  { hdr := hdr sub, dst := d, a := a, b := b, c := c, ty := ty, rm := .rn, sat := false, opt := opt }
def fi (sub : BitVec 8) (d a b : Opd) (ty : Ty) (imm : BitVec 32) : FmtI := { hdr := hdr sub, dst := d, a := a, b := b, ty := ty, imm := imm }
def fb (sub : BitVec 8) (d a : Opd) (live : BitVec 6) (jn : BitVec 3) (off : BitVec 27) : FmtB :=
  { hdr := hdr sub, dst := d, a := a, b := .v 0, live := live, jn := jn, off := off }
def fm (sub : BitVec 8) (d a x c : Opd) (size : BitVec 3) (sem hint : BitVec 4) (off : BitVec 16) : FmtM :=
  { hdr := hdr sub, dst := d, addr := a, data := x, c := c, size := size, sem := sem, hint := hint, off := off }
def fx (sub : BitVec 8) (d a b c : Opd) (org : BitVec 1) (fmta fmtb : BitVec 4) (scs : BitVec 2) (xmod : BitVec 16) : FmtX :=
  { hdr := hdr sub, dst := d, a := a, b := b, c := c, org := org, fmta := fmta, fmtb := fmtb, scs := scs, xmod := xmod }
def fs (sub : BitVec 8) (d a b : Opd) (spr : BitVec 12) (smod : BitVec 15) : FmtS :=
  { hdr := hdr sub, dst := d, a := a, b := b, c := .v 0, spr := spr, smod := smod }

/-- The words that the spec works out to the bit. -/
theorem test_decode_worked_words : workedWords.all reads = true := by decide +kernel

/-- `SOLB.l2 0, s4, 1, 2` (R236): the words 0x0000_0120, 0x0020_8000 and 0xC000_0000, low first. -/
theorem test_decode_solb : reads (0xC00000000020800000000120, .solb (fx 0 (.v 0) (.s 4) (.v 0) (.v 0) 0 0 0 0 0x120)) = true := by decide +kernel

/-- The examples of the reference entries of R141 to R166. -/
theorem test_decode_arith :
    [(word 0x00 0 [], Instr.nop (fa 0 (.v 0) (.v 0) (.v 0) (.v 0) .s32 0)),
     (word 0x05 0x88 [(54, 7), (45, 4), (36, 5), (0, 100)], .imadImm (fi 0x88 (.v 7) (.v 4) (.v 5) .s32 100)),
     (word 0x0C 0x80 [(54, 8), (45, 8), (36, 3), (32, 1), (0, 256)], .amadImm (fi 0x80 (.v 8) (.v 8) (.v 3) .u32 256)),
     (word 0x0A 0xA0 [(54, 9), (45, 2), (32, 1), (0, 64)], .isetImm (fi 0xA0 (.v 9) (.v 2) (.v 0) .u32 64)),
     (word 0x22 0 [(54, 5), (45, 1), (36, 2), (27, 3), (23, 1), (0, 0xE8)], .bits (fa 0 (.v 5) (.v 1) (.v 2) (.v 3) .u32 0xE8)),
     (word 0x19 0x80 [(54, 10), (45, 10), (32, 2), (0, 7)], .shrImm (fi 0x80 (.v 10) (.v 10) (.v 0) .s64 7)),
     (word 0x1D 0 [(54, 2), (45, 4), (23, 2)], .clz (fa 0 (.v 2) (.v 4) (.v 0) (.v 0) .s64 0)),
     (word 0x20 0x80 [(54, 6), (45, 1), (0, 0x0504)], .bfxImm (fi 0x80 (.v 6) (.v 1) (.v 0) .s32 0x0504)),
     (word 0x2A 0x80 [(54, 12), (32, 2), (0, 0x40)], .movhImm (fi 0x80 (.v 12) (.v 0) (.v 0) .s64 0x40)),
     (word 0x29 0 [(54, 3), (45, 32), (36, 9)], .movi (fa 0 (.v 3) (.v 32) (.v 9) (.v 0) .s32 0)),
     (word 0x33 0x81 [(54, 5), (45, 1), (36, 2), (32, 3), (0, 0x3F000000)], .ffmaImm (fi 0x81 (.v 5) (.v 1) (.v 2) .f32 0x3F000000)),
     (word 0x35 0 [(54, 4), (45, 4), (36, 6), (23, 6)], .fmax (fa 0 (.v 4) (.v 4) (.v 6) (.v 0) .bf16x2 0)),
     (word 0x39 0 [(54, 3), (45, 10), (23, 4)], .fclass (fa 0 (.v 3) (.v 10) (.v 0) (.v 0) .f64 0)),
     (word 0x38 0 [(54, 8), (45, 2), (36, 2), (23, 3), (0, 7)], .fset (fa 0 (.v 8) (.v 2) (.v 2) (.v 0) .f32 7)),
     (word 0x41 0 [(54, 9), (45, 9), (23, 3)], .frsq (fa 0 (.v 9) (.v 9) (.v 0) (.v 0) .f32 0)),
     (word 0x59 0 [(54, 0x104), (45, 9), (0, 2)], .vote (fa 0 (.s 4) (.v 9) (.v 0) (.v 0) .s32 2)),
     (word 0x5A 0 [(54, 0x107), (45, 3), (23, 3)], .gred (fa 0 (.s 7) (.v 3) (.v 0) (.v 0) .f32 0))].all reads = true := by decide +kernel

/-- The examples of the reference entries of R168 to R195. -/
theorem test_decode_control :
    [(word 0x64 0 [(54, 20), (45, 16), (30, 24)], Instr.calli (fb 0 (.v 20) (.v 16) 24 0 0)),
     (word 0x67 0 [(30, 8), (27, 2)], .reform (fb 0 (.v 0) (.v 0) 8 2 0)),
     (word 0x69 1 [], .yieldDone (fb 1 (.v 0) (.v 0) 0 0 0)),
     (word 0x70 0 [(54, 0x105), (0, 1)], .barr (fs 0 (.s 5) (.v 0) (.v 0) 0 1)),
     (word 0x73 0 [(45, 0x108), (0, 0x12)], .barm (fs 0 (.v 0) (.s 8) (.v 0) 0 0x12)),
     (word 0x7C 9 [(45, 4), (36, 7), (24, 2), (20, 2), (16, 11)], .atomFadd (fm 9 (.v 0) (.v 4) (.v 7) (.v 0) 2 2 11 0)),
     (word 0x7E 5 [(54, 0x103), (45, 0x10A), (36, 0x10B), (24, 2), (20, 1), (16, 3)], .atf (fm 5 (.s 3) (.s 10) (.s 11) (.v 0) 2 1 3 0)),
     (word 0x76 0 [(54, 0x106), (0, 4 + 2 * 8 + 32)], .fence (fs 0 (.s 6) (.v 0) (.v 0) 0 52)),
     (word 0x77 0 [(0, 1 + 2 * 8 + 1 * 64)], .xfence (fs 0 (.v 0) (.v 0) (.v 0) 0 81)),
     (word 0x79 0 [(54, 0x10C)], .sysf (fs 0 (.s 12) (.v 0) (.v 0) 0 0)),
     (word 0xED 0 [(54, 0x103), (45, 0x114)], .launch (fs 0 (.s 3) (.s 20) (.v 0) 0 0)),
     (word 0xEE 0 [(45, 0x102), (0, 5)], .signal (fs 0 (.v 0) (.s 2) (.v 0) 0 5)),
     (word 0xE0 0 [(54, 4), (15, 0x012)], .mfs (fs 0 (.v 4) (.v 0) (.v 0) 0x012 0)),
     (word 0xE2 0 [(54, 0x101), (45, 0x106), (15, 0x041)], .mtsp (fs 0 (.s 1) (.s 6) (.v 0) 0x041 0)),
     (word 0xE3 0 [(0, 12 + 8 * 64 + 1 * 2048)], .acq (fs 0 (.v 0) (.v 0) (.v 0) 0 0xA0C)),
     (word 0xE6 0 [(71, 0x103), (66, 1), (64, 1), (0, 0x42)],
       .trap { fs 0 (.v 0) (.v 0) (.v 0) 0 0x42 with hdr := { sub := 0, guard := some { reg := .s 3, bit := 1, neg := false }, nwb := false } }),
     (word 0xEC 0 [(54, 0x104), (45, 0x105), (36, 0x106)], .tradea (fs 0 (.s 4) (.s 5) (.s 6) 0 0))].all reads = true := by decide +kernel

/-- The examples of the reference entries of R198 to R241. -/
theorem test_decode_memory_matrix :
    [(word 0x80 0 [(54, 5), (45, 2), (24, 1), (16, 1), (0, 0x10)], Instr.ld (fm 0 (.v 5) (.v 2) (.v 0) (.v 0) 1 0 1 0x10)),
     (word 0x83 0 [(45, 0x114), (36, 8), (27, 7), (24, 4)], .stg (fm 0 (.v 0) (.s 20) (.v 8) (.v 7) 4 0 0 0)),
     (word 0x84 0 [(54, 0x106), (45, 0x10A), (24, 3)], .ldi (fm 0 (.s 6) (.s 10) (.v 0) (.v 0) 3 0 0 0)),
     (word 0x85 0 [(45, 4), (16, 1), (0, 256)], .pref (fm 0 (.v 0) (.v 4) (.v 0) (.v 0) 0 0 1 256)),
     (word 0x91 0 [(54, 0x104), (45, 0x110), (36, 0x143), (27, 0x114)], .cptLd (fm 0 (.s 4) (.s 16) (.h 3) (.s 20) 0 0 0 0)),
     (word 0x94 0 [(54, 0x104), (45, 0x10A), (36, 0x10B), (27, 0x10C)], .cpx (fm 0 (.s 4) (.s 10) (.s 11) (.s 12) 0 0 0 0)),
     (word 0x9A 0 [(45, 0x141), (0, 3)], .hput (fx 0 (.v 0) (.h 1) (.v 0) (.v 0) 0 0 0 0 3)),
     (word 0x9D 1 [(45, 0x11E), (36, 0x11F), (27, 0x145), (22, 14)], .tst (fx 1 (.v 0) (.s 30) (.s 31) (.h 5) 0 14 0 0 0)),
     (word 0x9F 0 [(54, 0x144), (45, 0x100), (36, 0x107), (0, 1)], .tfill (fx 0 (.h 4) (.s 0) (.s 7) (.v 0) 0 0 0 0 1)),
     (word 0xA1 0 [(54, 0x10C), (45, 0x114)], .tqsteal (fm 0 (.s 12) (.s 20) (.v 0) (.v 0) 0 0 0 0)),
     (word 0xA3 0 [(54, 0x105), (36, 0x106), (16, 2)], .strg (fm 0 (.s 5) (.v 0) (.s 6) (.v 0) 0 0 2 0)),
     (word 0xA4 0 [(45, 0x118)], .coll (fm 0 (.v 0) (.s 24) (.v 0) (.v 0) 0 0 0 0)),
     (word 0xB4 0 [(45, 0x146), (36, 0x147), (26, 1), (0, 5)], .mmai (fx 0 (.v 0) (.h 6) (.h 7) (.v 0) 1 0 0 0 5)),
     (word 0xB9 0 [(54, 0x145), (27, 0x109), (22, 8), (18, 14), (0, 1)], .acst (fx 0 (.h 5) (.v 0) (.v 0) (.s 9) 0 8 14 0 1)),
     (word 0xBB 0 [(54, 10), (45, 2), (26, 1), (0, 1)], .acrd (fx 0 (.v 10) (.v 2) (.v 0) (.v 0) 1 0 0 0 1)),
     (word 0xC2 0 [(54, 0x114), (0, 1 + 1 * 4)], .solq (fx 0 (.s 20) (.v 0) (.v 0) (.v 0) 0 0 0 0 5)),
     (word 0xC3 0 [(0, 2)], .solx (fx 0 (.v 0) (.v 0) (.v 0) (.v 0) 0 0 0 0 2))].all reads = true := by decide +kernel

/-- What R125 to R127, R131 and R132 make illegal: unassigned opcodes and SUBs, reserved operand codes and types, a guard's fields without GEN, and fields that an entry does not
use. -/
theorem test_decode_refuses :
    [(word 0xA8 0 [], Reject.unassignedOpcode), (word 0xFF 0 [], .unassignedOpcode), (word 0x69 2 [], .unassignedSub),
     (word 0x01 0 [(54, 0x154)], .reservedOperand), (word 0x01 0 [(66, 1)], .badGuard), (word 0x01 0 [(23, 7)], .reservedMode), (word 0x01 0 [(20, 5)], .reservedMode),
     (word 0x00 0 [(0, 1)], .illFormed), (word 0x01 0 [(0, 1)], .illFormed), (word 0x01 0 [(23, 2), (54, 3)], .illFormed), (word 0x68 0 [(63, 1)], .illFormed),
     (word 0x80 0 [(54, 5), (45, 2), (24, 5)], .illFormed)].all refuses = true := by decide +kernel

/-! ### One refused term for each check of WellFormed -/

theorem test_fieldsLegal : (Instr.iadd (fa 0 (.v 3) (.v 1) (.v 2) (.v 0) .s32 1)).fieldsLegal = false ∧ (Instr.iadd (fa 0 (.v 3) (.v 1) (.v 2) (.v 0) .s32 1)).wf = false := by
  decide +kernel

theorem test_guardLegal : (Instr.barm { fs 0 (.v 0) (.s 8) (.v 0) 0 1 with hdr := hdrIf 0 (.v 1) }).guardLegal = false
    ∧ (Instr.barm { fs 0 (.v 0) (.s 8) (.v 0) 0 1 with hdr := hdrIf 0 (.v 1) }).wf = false := by decide +kernel

theorem test_nwbLegal : (Instr.iadd { fa 0 (.v 3) (.v 1) (.v 2) (.v 0) .s32 0 with hdr := { sub := 0, guard := none, nwb := true } }).nwbLegal = false
    ∧ (Instr.iadd { fa 0 (.v 3) (.v 1) (.v 2) (.v 0) .s32 0 with hdr := { sub := 0, guard := none, nwb := true } }).wf = false := by decide +kernel

theorem test_operandsLegal : (Instr.iadd (fa 0 (.v 3) (.v 2) (.v 4) (.v 0) .s64 0)).operandsLegal = false ∧ (Instr.iadd (fa 0 (.v 3) (.v 2) (.v 4) (.v 0) .s64 0)).wf = false := by
  decide +kernel

theorem test_scalarLegal : (Instr.iadd (fa 0 (.s 3) (.v 1) (.s 2) (.v 0) .s32 0)).scalarLegal = false ∧ (Instr.iadd (fa 0 (.s 3) (.v 1) (.s 2) (.v 0) .s32 0)).wf = false := by
  decide +kernel

/-! ### Results -/

/-- The group in seat 0 of core 0 issues. -/
def seat0 : Issuing := { core := 0, quad := 0, seat := 0, snap := none }

/-- Core 0 of owner 0 about to execute an instruction, for the group in seat 0: PC 0, 32 lanes, 16 lane registers, two handles. -/
def placed (i : Instr) : State :=
  let s := State.reset.withFetchWord 96 (encode i).toNat
  { s with sched := { s.sched with cur := some seat0 } }

/-- The group changed. -/
def grp (s : State) (f : Group → Group) : State := s.modGroup 0 0 f

/-- Lane registers of lane 0, and scalar registers. -/
def vset (xs : List (Nat × Word)) (g : Group) : Group := xs.foldl (fun g x => g.setVreg x.1 0 x.2) g
def sset' (xs : List (Nat × Word)) (g : Group) : Group := xs.foldl (fun g x => g.setSreg x.1 x.2) g

/-- The instruction issues, completes, and the next state is as tested. -/
def gives (s : State) (i : Instr) (p : State → Bool) : Bool := issuesNow s i && match exec i s with | .next t => p t | _ => false

/-- The group after a step. -/
def of (t : State) (p : Group → Bool) : Bool := match t.group? 0 0 with | some g => p g | none => false

/-- With these values in lane 0, an instruction leaves these lane registers in lane 0, and goes on behind itself. -/
def lane0 (i : Instr) (xs ys : List (Nat × Word)) : Bool :=
  gives (grp (placed i) (vset xs)) i (fun t => of t (fun g => ys.all (fun y => g.vreg y.1 0 == y.2) && g.pc == 12))

/-- R141: 2^32 − 1 + 1 wraps, and is held with `.sat` for S32's greatest number + 1; the high half of −1 · 2; an I form of minimum. -/
theorem test_int :
    lane0 (.iadd (fa 0 (.v 3) (.v 1) (.v 2) (.v 0) .s32 0)) [(1, 0xFFFFFFFF), (2, 1)] [(3, 0), (1, 0xFFFFFFFF)]
    && lane0 (.iadd { fa 0 (.v 3) (.v 1) (.v 2) (.v 0) .s32 0 with sat := true }) [(1, 0x7FFFFFFF), (2, 1)] [(3, 0x7FFFFFFF)]
    && lane0 (.isub { fa 0 (.v 3) (.v 1) (.v 2) (.v 0) .u32 0 with sat := true }) [(1, 1), (2, 2)] [(3, 0)]
    && lane0 (.imulh (fa 0 (.v 3) (.v 1) (.v 2) (.v 0) .s32 0)) [(1, 0xFFFFFFFF), (2, 2)] [(3, 0xFFFFFFFF)]
    && lane0 (.imulh (fa 0 (.v 3) (.v 1) (.v 2) (.v 0) .u32 0)) [(1, 0xFFFFFFFF), (2, 2)] [(3, 1)]
    && lane0 (.imad (fa 0 (.v 3) (.v 1) (.v 2) (.v 4) .s32 0)) [(1, 3), (2, 5), (4, 7)] [(3, 22)]
    && lane0 (.iminImm (fi 0x80 (.v 3) (.v 1) (.v 0) .s32 5)) [(1, 0xFFFFFFFE)] [(3, 0xFFFFFFFE)]
    && lane0 (.imax (fa 0 (.v 3) (.v 1) (.v 2) (.v 0) .u32 0)) [(1, 0xFFFFFFFE), (2, 5)] [(3, 0xFFFFFFFE)]
    && lane0 (.iabs (fa 0 (.v 3) (.v 1) (.v 0) (.v 0) .s32 0)) [(1, 0x80000000)] [(3, 0x80000000)]
    && lane0 (.ineg (fa 0 (.v 2) (.v 4) (.v 0) (.v 0) .s64 0)) [(4, 1), (5, 0)] [(2, 0xFFFFFFFF), (3, 0xFFFFFFFF)] = true := by decide +kernel

/-- R142 to R144: a signed offset to an address; signed and unsigned compares; majority by truth table. -/
theorem test_address_compare_logic :
    lane0 (.aadd (fa 0 (.v 2) (.v 4) (.v 1) (.v 0) .s32 0)) [(4, 0), (5, 1), (1, 0xFFFFFFFF)] [(2, 0xFFFFFFFF), (3, 0)]
    && lane0 (.amadImm (fi 0x80 (.v 2) (.v 4) (.v 1) .u32 256)) [(4, 8), (5, 0), (1, 3)] [(2, 776), (3, 0)]
    && lane0 (.iset (fa 0 (.v 3) (.v 1) (.v 2) (.v 0) .s32 2)) [(1, 0xFFFFFFFF), (2, 0)] [(3, 1)]
    && lane0 (.isetImm (fi 0xA0 (.v 3) (.v 1) (.v 0) .u32 64)) [(1, 0xFFFFFFFF)] [(3, 0)]
    && lane0 (.sel (fa 0 (.v 3) (.v 1) (.v 2) (.v 4) .s32 5)) [(1, 11), (2, 22), (4, 0x20)] [(3, 11)]
    && lane0 (.bits (fa 0 (.v 3) (.v 1) (.v 2) (.v 4) .u32 0xE8)) [(1, 0xC), (2, 0xA), (4, 0x6)] [(3, 0xE)]
    && lane0 (.andn (fa 0 (.v 3) (.v 1) (.v 2) (.v 0) .s32 0)) [(1, 0xFF), (2, 0x0F)] [(3, 0xF0)]
    && lane0 (.orImm (fi 0x80 (.v 2) (.v 4) (.v 0) .s64 0x80000000)) [(4, 1), (5, 0)] [(2, 0x80000001), (3, 0xFFFFFFFF)] = true := by decide +kernel

/-- R145 to R149: shifts by the width and more; a rotation; counts; the sign of a field; a field that goes beyond the word; a register chosen by index. -/
theorem test_shifts_fields_moves :
    lane0 (.shl (fa 0 (.v 3) (.v 1) (.v 2) (.v 0) .u32 0)) [(1, 1), (2, 32)] [(3, 0)]
    && lane0 (.sar (fa 0 (.v 3) (.v 1) (.v 2) (.v 0) .s32 0)) [(1, 0x80000000), (2, 40)] [(3, 0xFFFFFFFF)]
    && lane0 (.shrImm (fi 0x80 (.v 2) (.v 4) (.v 0) .s64 4)) [(4, 0), (5, 0x80000000)] [(2, 0), (3, 0x08000000)]
    && lane0 (.rot (fa 0 (.v 3) (.v 1) (.v 2) (.v 0) .u32 0)) [(1, 0x80000001), (2, 33)] [(3, 3)]
    && lane0 (.popc (fa 0 (.v 3) (.v 1) (.v 0) (.v 0) .u32 0)) [(1, 0xF00F)] [(3, 8)]
    && lane0 (.clz (fa 0 (.v 2) (.v 4) (.v 0) (.v 0) .s64 0)) [(4, 1), (5, 0)] [(2, 63)]
    && lane0 (.brev (fa 0 (.v 3) (.v 1) (.v 0) (.v 0) .u32 0)) [(1, 1)] [(3, 0x80000000)]
    && lane0 (.bfxImm (fi 0x80 (.v 3) (.v 1) (.v 0) .s32 0x0504)) [(1, 0x100)] [(3, 0xFFFFFFF0)]
    && lane0 (.bfi (fa 0 (.v 3) (.v 1) (.v 2) (.v 4) .u32 0)) [(1, 0xFF), (2, 0x081C), (4, 0)] [(3, 0xF0000000)]
    && lane0 (.movhImm (fi 0x80 (.v 2) (.v 0) (.v 0) .s64 0x40)) [(2, 7), (3, 9)] [(2, 7), (3, 0x40)]
    && lane0 (.movi (fa 0 (.v 3) (.v 4) (.v 1) (.v 0) .s32 0)) [(1, 2), (6, 99)] [(3, 99)] = true := by decide +kernel

/-- R150 to R154: 1 + 2; 1.5 · 2 + 0.25 with one rounding; the root of 4; −0 below +0; the class of +∞; 1 < 2; a NaN compare; 1 ÷ 2; 2^3. -/
theorem test_float :
    lane0 (.fadd (fa 0 (.v 3) (.v 1) (.v 2) (.v 0) .f32 0)) [(1, 0x3F800000), (2, 0x40000000)] [(3, 0x40400000)]
    && lane0 (.ffma (fa 0 (.v 3) (.v 1) (.v 2) (.v 4) .f32 0)) [(1, 0x3FC00000), (2, 0x40000000), (4, 0x3E800000)] [(3, 0x40500000)]
    && lane0 (.fmul (fa 0 (.v 3) (.v 1) (.v 2) (.v 0) .f32 0)) [(1, 0), (2, 0x7F800000)] [(3, 0x7FC00004)]
    && lane0 (.fsub (fa 0 (.v 3) (.v 1) (.v 2) (.v 0) .bf16x2 0)) [(1, 0x40003F80), (2, 0x3F803F80)] [(3, 0x3F800000)]
    && lane0 (.fsqrt (fa 0 (.v 3) (.v 1) (.v 0) (.v 0) .f32 0)) [(1, 0x40800000)] [(3, 0x40000000)]
    && lane0 (.fscale (fa 0 (.v 3) (.v 1) (.v 2) (.v 0) .f32 0)) [(1, 0x3F800000), (2, 3)] [(3, 0x41000000)]
    && lane0 (.fmin (fa 0 (.v 3) (.v 1) (.v 2) (.v 0) .f32 0)) [(1, 0), (2, 0x80000000)] [(3, 0x80000000)]
    && lane0 (.fmax (fa 0 (.v 3) (.v 1) (.v 2) (.v 0) .f32 0)) [(1, 0x7FC00000), (2, 0x3F800000)] [(3, 0x3F800000)]
    && lane0 (.fabs (fa 0 (.v 3) (.v 1) (.v 0) (.v 0) .f16x2 0)) [(1, 0xBC00FC00)] [(3, 0x3C007C00)]
    && lane0 (.fneg (fa 0 (.v 3) (.v 1) (.v 0) (.v 0) .f32 0)) [(1, 0x3F800000)] [(3, 0xBF800000)]
    && lane0 (.fclass (fa 0 (.v 3) (.v 1) (.v 0) (.v 0) .f32 0)) [(1, 0x7F800000)] [(3, 0x80)]
    && lane0 (.fset (fa 0 (.v 3) (.v 1) (.v 2) (.v 0) .f32 2)) [(1, 0x3F800000), (2, 0x40000000)] [(3, 1)]
    && lane0 (.fset (fa 0 (.v 3) (.v 1) (.v 1) (.v 0) .f32 7)) [(1, 0x7FC00000)] [(3, 1)]
    && lane0 (.frcp (fa 0 (.v 3) (.v 1) (.v 0) (.v 0) .f32 0)) [(1, 0x40000000)] [(3, 0x3F000000)]
    && lane0 (.fexp2 (fa 0 (.v 3) (.v 1) (.v 0) (.v 0) .f32 0)) [(1, 0x40400000)] [(3, 0x41000000)] = true := by decide +kernel

/-- R156 and R158: −1.5 to S32 towards zero; 1.0 to FP16; the 4-bit code 0x4 of FP4 is 2. -/
theorem test_conversions :
    lane0 (.cvt { fa 0 (.v 3) (.v 1) (.v 0) (.v 0) .s32 0x18000 with rm := .rz }) [(1, 0xBFC00000)] [(3, 0xFFFFFFFF)]
    && lane0 (.cvt (fa 0 (.v 3) (.v 1) (.v 0) (.v 0) .s32 0x1A800)) [(1, 0x3F800000)] [(3, 0x3C00)]
    && lane0 (.cvtu (fa 0 (.v 3) (.v 1) (.v 2) (.v 0) .s32 0x5800)) [(1, 0x40), (2, 1)] [(3, 0x40000000)] = true := by decide +kernel

/-- A value in lanes 0, 1 and 2 of v1. -/
def three (a b c : Word) (g : Group) : Group := ((g.setVreg 1 0 a).setVreg 1 1 b).setVreg 1 2 c

/-- R163 to R166: lane 1 of a shuffle by index 0; a ballot; a sum and a running sum that leaves out the lane itself. -/
theorem test_lanes :
    gives (grp (placed (.shfl (fa 0 (.v 3) (.v 1) (.v 2) (.v 0) .s32 0))) (three 5 6 7)) (.shfl (fa 0 (.v 3) (.v 1) (.v 2) (.v 0) .s32 0))
      (fun t => of t (fun g => g.vreg 3 1 == 5 && g.vreg 3 31 == 5))
    && gives (grp (placed (.vote (fa 0 (.s 4) (.v 1) (.v 0) (.v 0) .s32 2))) (three 1 0 1)) (.vote (fa 0 (.s 4) (.v 1) (.v 0) (.v 0) .s32 2)) (fun t => of t (fun g => g.sreg 4 == 5))
    && gives (grp (placed (.gred (fa 0 (.s 7) (.v 1) (.v 0) (.v 0) .s32 0))) (three 5 6 7)) (.gred (fa 0 (.s 7) (.v 1) (.v 0) (.v 0) .s32 0)) (fun t => of t (fun g => g.sreg 7 == 18))
    && gives (grp (placed (.gscan (fa 0 (.v 3) (.v 1) (.v 0) (.v 0) .s32 8))) (three 5 6 7)) (.gscan (fa 0 (.v 3) (.v 1) (.v 0) (.v 0) .s32 8))
      (fun t => of t (fun g => g.vreg 3 0 == 0 && g.vreg 3 2 == 11 && g.vreg 3 31 == 18)) = true := by decide +kernel

/-! ### States that meet the hypotheses of the statements -/

/-- The instruction issues, with a property of its context, row and group. -/
def issuing (s : State) (i : Instr) (p : Issuing → Ctx → Row → Group → Bool) : Bool :=
  match s.sched.cur with
  | none => false
  | some u =>
    match s.ctx? u, s.group? u.core u.seat, row? i with
    | some c, some g, some r => i.wf && (precheck i c).isNone && (s.solveCheck i c).isNone && s.ready i c && c.takesEffect i r && p u c r g
    | _, _, _ => false

theorem issuing_spec {s : State} {i : Instr} {p : Issuing → Ctx → Row → Group → Bool} (h : issuing s i p = true) :
    ∃ u c r g, Issues s i u c r g ∧ p u c r g = true := by
  unfold issuing at h
  split at h
  · cases h
  · rename_i u hu
    split at h
    · rename_i c g r hc hg hr
      simp only [Bool.and_eq_true, Option.isNone_iff_eq_none] at h
      obtain ⟨⟨⟨⟨⟨h1, h2⟩, h3⟩, h4⟩, h5⟩, h6⟩ := h
      exact ⟨u, c, r, g, ⟨hu, hc, hg, h1, hr, h2, h3, h4, h5⟩, h6⟩
    · cases h

theorem meets {s : State} {i : Instr} {P : Issuing → Ctx → Row → Group → Prop} (d : ∀ u c r g, Decidable (P u c r g))
    (h : issuing s i (fun u c r g => @decide _ (d u c r g)) = true) : ∃ u c r g, Issues s i u c r g ∧ P u c r g :=
  let ⟨u, c, r, g, a, b⟩ := issuing_spec h
  ⟨u, c, r, g, a, @of_decide_eq_true _ (d u c r g) b⟩

theorem issues_of {s : State} {i : Instr} (h : issuesNow s i = true) : ∃ u c r g, Issues s i u c r g := by
  have h' : issuing s i (fun _ _ _ _ => true) = true := by
    revert h
    unfold issuesNow issuing
    cases s.sched.cur with
    | none => exact id
    | some u => simp only [Bool.and_true]; exact id
  obtain ⟨u, c, r, g, a, _⟩ := issuing_spec h'
  exact ⟨u, c, r, g, a⟩

/-- Register instructions (`Integers` to `LaneOperations`): one of each family issues. -/
theorem witness_registers : ∀ p ∈ ([(.iadd (fa 0 (.v 3) (.v 1) (.v 2) (.v 0) .s32 0), intArith), (.aadd (fa 0 (.v 2) (.v 4) (.v 1) (.v 0) .s32 0), addressCompare),
      (.and (fa 0 (.v 3) (.v 1) (.v 2) (.v 0) .s32 0), logic), (.shl (fa 0 (.v 3) (.v 1) (.v 2) (.v 0) .u32 0), shifts), (.clz (fa 0 (.v 2) (.v 4) (.v 0) (.v 0) .s64 0), bitFields),
      (.mov (fa 0 (.v 3) (.v 1) (.v 0) (.v 0) .f32 0), moves), (.fadd (fa 0 (.v 3) (.v 1) (.v 2) (.v 0) .f32 0), floats),
      (.fmin (fa 0 (.v 3) (.v 1) (.v 2) (.v 0) .f32 0), floatCompare), (.fsin (fa 0 (.v 3) (.v 1) (.v 0) (.v 0) .f32 0), functionUnit),
      (.vote (fa 0 (.s 4) (.v 9) (.v 0) (.v 0) .s32 2), exchanges)] : List (Instr × Family)),
    ∃ s u c r g R, Issues s p.1 u c r g ∧ p.2 p.1 = some R := by
  have h : ∀ i ∈ ([.iadd (fa 0 (.v 3) (.v 1) (.v 2) (.v 0) .s32 0), .aadd (fa 0 (.v 2) (.v 4) (.v 1) (.v 0) .s32 0), .and (fa 0 (.v 3) (.v 1) (.v 2) (.v 0) .s32 0),
      .shl (fa 0 (.v 3) (.v 1) (.v 2) (.v 0) .u32 0), .clz (fa 0 (.v 2) (.v 4) (.v 0) (.v 0) .s64 0), .mov (fa 0 (.v 3) (.v 1) (.v 0) (.v 0) .f32 0),
      .fadd (fa 0 (.v 3) (.v 1) (.v 2) (.v 0) .f32 0), .fmin (fa 0 (.v 3) (.v 1) (.v 2) (.v 0) .f32 0), .fsin (fa 0 (.v 3) (.v 1) (.v 0) (.v 0) .f32 0),
      .vote (fa 0 (.s 4) (.v 9) (.v 0) (.v 0) .s32 2)] : List Instr), issuesNow (placed i) i = true := by decide +kernel
  intro p hp
  simp only [List.mem_cons, List.not_mem_nil, or_false] at hp h
  rcases hp with rfl | rfl | rfl | rfl | rfl | rfl | rfl | rfl | rfl | rfl <;>
    exact (let ⟨u, c, r, g, a⟩ := issues_of (h _ (by simp)); ⟨placed _, u, c, r, g, _, a, rfl⟩)

theorem witness_conversions : ∃ s u c r g R, Issues s (.cvt (fa 0 (.v 3) (.v 1) (.v 0) (.v 0) .s32 0x1A800)) u c r g
    ∧ conversions s (.cvt (fa 0 (.v 3) (.v 1) (.v 0) (.v 0) .s32 0x1A800)) = some R :=
  let ⟨u, c, r, g, a⟩ := issues_of (s := placed (.cvt (fa 0 (.v 3) (.v 1) (.v 0) (.v 0) .s32 0x1A800))) (by decide +kernel)
  ⟨_, u, c, r, g, _, a, rfl⟩

/-- `Moves`: v4 + j read with j = 2, and with j = 12, the first register beyond an allotment of 16; a `NOP`. -/
theorem witness_moves :
    (∃ u c r g, Issues (grp (placed (.movi (fa 0 (.v 3) (.v 4) (.s 1) (.v 0) .s32 0))) (sset' [(1, 2)])) (.movi (fa 0 (.v 3) (.v 4) (.s 1) (.v 0) .s32 0)) u c r g
      ∧ ∀ l ∈ c.aluLanes r, moviFine (fa 0 (.v 3) (.v 4) (.s 1) (.v 0) .s32 0) c l)
    ∧ (∃ u c r g, Issues (grp (placed (.movi (fa 0 (.v 3) (.v 4) (.s 1) (.v 0) .s32 0))) (sset' [(1, 12)])) (.movi (fa 0 (.v 3) (.v 4) (.s 1) (.v 0) .s32 0)) u c r g
      ∧ ∃ l ∈ c.aluLanes r, ¬moviFine (fa 0 (.v 3) (.v 4) (.s 1) (.v 0) .s32 0) c l)
    ∧ ∃ u c r g, Issues (placed (.nop (fa 0 (.v 0) (.v 0) (.v 0) (.v 0) .s32 0))) (.nop (fa 0 (.v 0) (.v 0) (.v 0) (.v 0) .s32 0)) u c r g :=
  ⟨meets (fun _ _ _ _ => by dsimp only [moviFine]; infer_instance) (by decide +kernel),
   meets (fun _ _ _ _ => by dsimp only [moviFine]; infer_instance) (by decide +kernel), issues_of (by decide +kernel)⟩

/-- `LaneOperations`: a reduction and a scan. -/
theorem witness_reductions : ∀ i ∈ [Instr.gred (fa 0 (.s 7) (.v 1) (.v 0) (.v 0) .s32 0), .gscan (fa 0 (.v 3) (.v 1) (.v 0) (.v 0) .s32 8)],
    ∃ s u c r g, Issues s i u c r g := by
  have h : ∀ i ∈ [Instr.gred (fa 0 (.s 7) (.v 1) (.v 0) (.v 0) .s32 0), .gscan (fa 0 (.v 3) (.v 1) (.v 0) (.v 0) .s32 8)], issuesNow (placed i) i = true := by decide +kernel
  exact fun i hi => let ⟨u, c, r, g, a⟩ := issues_of (h i hi); ⟨_, u, c, r, g, a⟩

/-- `IADD` with a guard that is false: bit 0 of s9, which is 0. -/
def off : Instr := .iadd { fa 0 (.v 3) (.v 1) (.v 2) (.v 0) .s32 0 with hdr := hdrIf 0 (.s 9) }

theorem witness_guardFalse : ∃ u c r g, IssuesOff (placed off) off u c r g := by
  have h : (match (placed off).ctx? seat0, (placed off).group? 0 0, row? off with
    | some c, some _, some r => off.wf && (precheck off c).isNone && ((placed off).solveCheck off c).isNone && (placed off).ready off c && c.g.lanes.all (fun l => !c.guard r.hdr.guard l)
    | _, _, _ => false) = true := by decide +kernel
  split at h
  · rename_i c g r hc hg hr
    simp only [Bool.and_eq_true, Option.isNone_iff_eq_none, List.all_eq_true, Bool.not_eq_true'] at h
    exact ⟨seat0, c, r, g, rfl, hc, hg, h.1.1.1.1, hr, h.1.1.1.2, h.1.1.2, h.1.2, h.2, fun f hf => by cases hf⟩
  · cases h

/-- Bit 0 of v9 set in these lanes. -/
def guardLanes (ls : List Nat) (g : Group) : Group := ls.foldl (fun g l => g.setVreg 9 l 1) g

/-- `BRA` three slots on, without a guard and with one that is true in one lane. -/
def bra3 : Instr := .bra (fb 0 (.v 0) (.v 0) 0 0 3)
def bra3If : Instr := .bra { fb 0 (.v 0) (.v 0) 0 0 3 with hdr := hdrIf 0 (.v 9) }

/-- `Branches`: `BRA` from slot 0 to slot 3, and with lanes that differ. -/
theorem witness_branches : (∃ u c r g, Issues (placed bra3) bra3 u c r g ∧ goesTo bra3 c 36)
    ∧ ∃ u c r g, Issues (grp (placed bra3If) (guardLanes [0])) bra3If u c r g ∧ disagrees bra3If c :=
  ⟨meets (fun _ _ _ _ => by dsimp only [bra3, goesTo, Agree, Slotted]; infer_instance) (by decide +kernel),
   meets (fun _ _ _ _ => by dsimp only [bra3If, disagrees, Agree]; infer_instance) (by decide +kernel)⟩

def brd : FmtB := { fb 0 (.v 0) (.v 0) 8 0 3 with hdr := hdrIf 0 (.v 9) }

/-- `DivergentBranch`: one lane goes, and 16 go of 32. -/
theorem witness_divergentBranch : ∀ ls ∈ [[0], List.range 16],
    ∃ u c r g, Issues (grp (placed (.brd brd)) (guardLanes ls)) (.brd brd) u c r g ∧ ¬Agree c brd.hdr.guard ∧ Slotted c.pc brd.off.toInt 36
      ∧ ((grp (placed (.brd brd)) (guardLanes ls)).core u.core).team.isSome = true ∧ c.g.handling = none := by
  intro ls hls
  simp only [List.mem_cons, List.not_mem_nil, or_false] at hls
  rcases hls with rfl | rfl <;>
    exact meets (fun _ _ _ _ => by dsimp only [Agree, Slotted]; infer_instance) (by decide +kernel)

theorem meetsB {s : State} {i : Instr} {P : Issuing → Ctx → Row → Group → Prop} (p : Issuing → Ctx → Row → Group → Bool) (h : issuing s i p = true)
    (hp : ∀ u c r g, p u c r g = true → P u c r g) : ∃ u c r g, Issues s i u c r g ∧ P u c r g :=
  let ⟨u, c, r, g, a, b⟩ := issuing_spec h
  ⟨u, c, r, g, a, hp u c r g b⟩

def calliT : FmtB := fb 0 (.v 2) (.v 4) 8 0 0

/-- The team of core 0 changed, and the core. -/
def onCore (s : State) (f : Core → Core) : State := s.setCore 0 (f (s.core 0))
def onTeam (s : State) (f : Team → Team) : State := onCore s (fun k => { k with team := k.team.map f })

/-- A page of device memory at frame 0: writable, and executable with `x`. -/
def pageAt0 (x : Bool) : TlbEntry := { vpn := 0, leaf := { tgt := 0, dev := 0, frame := 0, bits := 15, rmf := false, untr := false, shrd := false, x := x, w := true }, used := 0 }

/-- That page in the L1 TLB of core 0, and every bank of the owner's colours. -/
def pagedX (x : Bool) (s : State) : State :=
  (onCore s (fun k => { k with tlb := [pageAt0 x] })).modOwner 0 (fun o => { o with record := { o.record with banks := List.replicate 16 (BitVec.allOnes 64) } })

/-- The code line at 0 in an L1, with TMASK `m`; and in that of core 0, on an executable page. -/
def codeLine (m : Byte) : L1Line := { line := 0, host := false, code := true, used := 0, bytes := List.replicate 60 0 ++ [m, 0, 0, 0] }
def codeAt0 (m : Byte) (s : State) : State := onCore (pagedX true s) (fun k => { k with l1 := [codeLine m] })

/-- The line of a target is that code line: its place is 0 in the global window, in that page. -/
def handB (s : State) (c : Ctx) (p : DWord) (m : Byte) : Bool :=
  decide (targetVa c p = some 0) && decide (tlbFind (s.core c.core).tlb 0 = some (pageAt0 true).leaf) && (s.owner c.owner).leafColourOk (pageAt0 true).leaf 0
    && decide ((s.core c.core).l1Find 0 false true = some (codeLine m))

theorem handB_spec {s : State} {c : Ctx} {p : DWord} {m : Byte} (h : handB s c p m = true) : AtHand s c p (accBytes (codeLine m).bytes 0 64) := by
  simp only [handB, Bool.and_eq_true, decide_eq_true_eq] at h
  obtain ⟨⟨⟨h1, h2⟩, h3⟩, h4⟩ := h
  refine ⟨0, _, h1, h2, by decide, rfl, h3, ?_⟩
  have e : (s.core c.core).l1Find ((pageAt0 true).leaf.addr 0 / 128 * 128) ((pageAt0 true).leaf.tgt == 1) true = some (codeLine m) := h4
  rw [e]
  rfl

def pointerB (live : Nat) (p : DWord) : Bool := @decide (Pointer live p) (by unfold Pointer; infer_instance)

/-- A `CALLI` with a true guard in every lane, of a group that runs no handler, while nothing probes memory. -/
def calling (s : State) (p : Ctx → DWord → Bool) : Bool :=
  issuing s (.calli calliT) (fun u c _ g => (s.core u.core).team.isSome && c.g.handling.isNone && g.fpe.isEmpty && decide (c.g.threads = g.threads)
    && decide (c.g.threads.map Prod.fst).Nodup && (s.core u.core).ops.isEmpty && u.snap.isNone
    && (c.effLanes calliT.hdr.guard).all (fun l => pointerB calliT.live.toNat (c.read 2 calliT.a l) && p c (c.read 2 calliT.a l))
    && !(c.effLanes calliT.hdr.guard).isEmpty)

theorem calling_spec {s : State} {p : Ctx → DWord → Bool} (h : calling s p = true) : ∃ u c r g, Issues s (.calli calliT) u c r g
    ∧ (s.core u.core).team.isSome = true ∧ c.g.handling = none ∧ g.fpe = [] ∧ c.g.threads = g.threads ∧ (c.g.threads.map Prod.fst).Nodup ∧ (s.core u.core).ops = []
    ∧ u.snap = none ∧ (∀ l ∈ c.effLanes calliT.hdr.guard, Pointer calliT.live.toNat (c.read 2 calliT.a l) ∧ p c (c.read 2 calliT.a l) = true)
    ∧ ∃ l, l ∈ c.effLanes calliT.hdr.guard := by
  obtain ⟨u, c, r, g, a, b⟩ := issuing_spec h
  simp only [pointerB, Bool.and_eq_true, Option.isNone_iff_eq_none, List.isEmpty_iff, decide_eq_true_eq, List.all_eq_true, Bool.not_eq_true'] at b
  obtain ⟨⟨⟨⟨⟨⟨⟨⟨b1, b2⟩, b3⟩, b4⟩, b5⟩, b6⟩, b7⟩, b8⟩, b9⟩ := b
  refine ⟨u, c, r, g, a, b1, b2, b3, b4, b5, b6, b7, b8, ?_⟩
  cases he : c.effLanes calliT.hdr.guard with
  | nil => rw [he] at b9; cases b9
  | cons l ls => exact ⟨l, List.mem_cons_self ..⟩

/-- Lane 0 alone runs, and has the code pointer of PC 0 with a budget of 16 registers. -/
def pointing (s : State) : State := grp s (fun g => (({ g with threads := g.threads.take 1 }).setVreg 4 0 0).setVreg 5 0 0x20000)

/-- What `CallSplits` asks of a state. -/
def SplitsFrom (s : State) : Prop := ∃ u c r g, Issues s (.calli calliT) u c r g
    ∧ (s.core u.core).team.isSome = true ∧ c.g.handling = none ∧ g.fpe = [] ∧ c.g.threads = g.threads
    ∧ (c.g.threads.map Prod.fst).Nodup ∧ regNum calliT.dst + 1 < calliT.live.toNat ∧ (∀ p ∈ (s.core u.core).ops, p.2.kind.isProbe = false)
    ∧ ∀ l ∈ c.effLanes calliT.hdr.guard, Pointer calliT.live.toNat (c.read 2 calliT.a l)
      ∧ ∃ bs, AtHand s c (c.read 2 calliT.a l) bs ∧ tmaskOf bs (c.read 2 calliT.a l) = true

theorem splitsFrom_of {s : State} (h : calling s (fun c p => handB s c p 1 && tmaskOf (accBytes (codeLine 1).bytes 0 64) p) = true) : SplitsFrom s := by
  obtain ⟨u, c, r, g, a, b1, b2, b3, b4, b5, b6, _, b8, _⟩ := calling_spec h
  refine ⟨u, c, r, g, a, b1, b2, b3, b4, b5, by decide, fun p hp => (by rw [b6] at hp; cases hp), fun l hl => ?_⟩
  have hb := (b8 l hl).2
  simp only [Bool.and_eq_true] at hb
  exact ⟨(b8 l hl).1, _, handB_spec hb.1, hb.2⟩

/-- What `CallRefused` asks, of pointers that are well formed. -/
def RefusedFrom (s : State) : Prop := ∃ u c r g, Issues s (.calli calliT) u c r g ∧ c.g.handling = none
    ∧ regNum calliT.dst + 1 < calliT.live.toNat ∧ (∀ p ∈ (s.core u.core).ops, p.2.kind.isProbe = false)
    ∧ (∀ p ∈ (c.effLanes calliT.hdr.guard).map (fun l => c.read 2 calliT.a l), ∃ bs, AtHand s c p bs)
    ∧ ∃ p ∈ (c.effLanes calliT.hdr.guard).map (fun l => c.read 2 calliT.a l), ∃ bs, AtHand s c p bs ∧ tmaskOf bs p = false

theorem refusedFrom_of {s : State} (h : calling s (fun c p => handB s c p 0 && !tmaskOf (accBytes (codeLine 0).bytes 0 64) p) = true) : RefusedFrom s := by
  obtain ⟨u, c, r, g, a, _, b2, _, _, _, b6, _, b8, l, hl⟩ := calling_spec h
  have key : ∀ l ∈ c.effLanes calliT.hdr.guard, ∃ bs, AtHand s c (c.read 2 calliT.a l) bs ∧ tmaskOf bs (c.read 2 calliT.a l) = false := by
    intro l hl
    have h := (b8 l hl).2
    simp only [Bool.and_eq_true, Bool.not_eq_true'] at h
    exact ⟨_, handB_spec h.1, h.2⟩
  refine ⟨u, c, r, g, a, b2, by decide, fun p hp => (by rw [b6] at hp; cases hp), fun p hp => ?_, ?_⟩
  · obtain ⟨m, hm, rfl⟩ := List.mem_map.mp hp
    exact (key m hm).imp (fun _ h => h.1)
  · exact ⟨_, List.mem_map.mpr ⟨l, hl, rfl⟩, key l hl⟩

/-- What `CallWaits` asks. -/
def WaitsFrom (s : State) : Prop := ∃ u c r g, Issues s (.calli calliT) u c r g ∧ c.g.handling = none ∧ regNum calliT.dst + 1 < calliT.live.toNat
    ∧ u.snap = none ∧ g.fpe = [] ∧ (∀ p ∈ (s.core u.core).ops, p.2.kind.isProbe = false)
    ∧ ∀ l ∈ c.effLanes calliT.hdr.guard, Pointer calliT.live.toNat (c.read 2 calliT.a l)
      ∧ ∃ va, targetVa c (c.read 2 calliT.a l) = some va ∧ tlbFind (s.core c.core).tlb (va / Config.pageBytes) = none

theorem waitsFrom_of {s : State}
    (h : calling s (fun c p => match targetVa c p with | some va => (tlbFind (s.core c.core).tlb (va / Config.pageBytes)).isNone | none => false) = true) : WaitsFrom s := by
  obtain ⟨u, c, r, g, a, _, b2, b3, _, _, b6, b7, b8, _⟩ := calling_spec h
  refine ⟨u, c, r, g, a, b2, by decide, b7, b3, fun p hp => (by rw [b6] at hp; cases hp), fun l hl => ⟨(b8 l hl).1, ?_⟩⟩
  have h := (b8 l hl).2
  cases hv : targetVa c (c.read 2 calliT.a l) with
  | none => simp only [hv] at h; cases h
  | some va => simp only [hv, Option.isNone_iff_eq_none] at h; exact ⟨va, rfl, h⟩

/-- `IndexedCall`: the target's line at hand, a legal target; one that is none, its TMASK bit being clear; and a page that the L1 TLB does not hold. -/
theorem witness_callSplits : SplitsFrom (codeAt0 1 (pointing (placed (.calli calliT)))) := splitsFrom_of (by decide +kernel)
theorem witness_callRefused : RefusedFrom (codeAt0 0 (pointing (placed (.calli calliT)))) := refusedFrom_of (by decide +kernel)
theorem witness_callWaits : WaitsFrom (pointing (placed (.calli calliT))) := waitsFrom_of (by decide +kernel)

/-- `IndexedCall`: a malformed pointer, whose budget is 0. -/
def oneLane (s : State) : State := grp s (fun g => { g with threads := g.threads.take 1 })
theorem witness_callMalformed : ∃ u c r g, Issues (oneLane (placed (.calli calliT))) (.calli calliT) u c r g
    ∧ c.g.handling = none ∧ ∃ p ∈ (c.effLanes calliT.hdr.guard).map (fun l => c.read 2 calliT.a l), ¬Pointer calliT.live.toNat p :=
  meetsB (fun _ c _ _ => c.g.handling.isNone && ((c.effLanes calliT.hdr.guard).map (fun l => c.read 2 calliT.a l)).contains 0) (by decide +kernel) (fun u c r g h => by
    simp only [Bool.and_eq_true, Option.isNone_iff_eq_none, List.contains_iff_mem] at h
    exact ⟨h.1, 0, h.2, by unfold Pointer; decide⟩)

/-- The threads in these lanes are counted in join 2; E is `e`. -/
def joining (s : State) (ls : List Nat) (e : Nat) : State :=
  onTeam (grp s (fun g => { g with threads := g.threads.map (fun p => if ls.contains p.1 then (p.1, { p.2 with jmask := 4 }) else p) }))
    (fun t => { t with joins := [(2, { e := e, a := 0, budget := 0 })] })

def dmark2 : FmtB := fb 0 (.v 0) (.v 0) 0 2 0
def reform2 : FmtB := fb 0 (.v 0) (.v 0) 8 2 0

/-- `Joins`: a `DMARK`; `REFORM` with no thread counted; with one that does not complete the join, in a group that holds a handle and in one that holds nothing; with all 32
that do. -/
theorem witness_joins :
    (∃ u c r g, Issues (placed (.dmark dmark2)) (.dmark dmark2) u c r g ∧ (((placed (.dmark dmark2)).core u.core).team.isSome = true ∧ c.g.threads = g.threads))
    ∧ ∀ p ∈ ([([], 0, false), ([3], 2, false), ([3], 2, true), (List.range 32, 32, false)] : List (List Nat × Nat × Bool)),
      let s := grp (joining (placed (.reform reform2)) p.1 p.2.1) (fun g => if p.2.2 then { g with handles := [(0, { live := true, slots := [0], gen := 1 })] } else g)
      ∃ u c r g, Issues s (.reform reform2) u c r g ∧ ((s.core u.core).team.isSome = true ∧ c.g.threads = g.threads ∧ c.g.handles = g.handles ∧ c.g.origins = g.origins
        ∧ c.g.handling = none ∧ g.fpe = [] ∧ counted c.g 2 = p.1 ∧ (joinOf s u.core 2).e = p.2.1 ∧ (joinOf s u.core 2).a = 0 ∧ ((∃ h ∈ g.handles, h.2.live = true) ↔ p.2.2 = true)) := by
  refine ⟨meets (fun _ _ _ _ => by infer_instance) (by decide +kernel), fun p hp => ?_⟩
  simp only [List.mem_cons, List.not_mem_nil, or_false] at hp
  rcases hp with rfl | rfl | rfl | rfl <;> exact meets (fun _ _ _ _ => by infer_instance) (by decide +kernel)

def exitAll : FmtB := fb 0 (.v 0) (.v 0) 0 0 0
def exitIf : FmtB := { exitAll with hdr := hdrIf 0 (.v 9) }

/-- `ExitAndYield`: all threads exit, and one of them; `YIELD`, and `YIELD.done` in a PRE handler with the switch due. -/
theorem witness_exits : ∀ p ∈ ([(exitAll, []), (exitIf, [3])] : List (FmtB × List Nat)),
    let s := grp (placed (.exit p.1)) (guardLanes p.2)
    ∃ u c r g, Issues s (.exit p.1) u c r g ∧ (c.g.threads = g.threads ∧ (c.g.threads.map Prod.fst).Nodup ∧ c.g.handling = none
      ∧ (∃ m ∈ (s.core u.core).team.toList, s.orphans u.core m ((c.effLanes p.1.hdr.guard).map (fun l => g.tid l)) = false) ∧ ∀ q ∈ c.g.threads, q.2.jmask = 0) := by
  intro p hp
  simp only [List.mem_cons, List.not_mem_nil, or_false] at hp
  rcases hp with rfl | rfl <;> exact meets (fun _ _ _ _ => by infer_instance) (by decide +kernel)

/-- `ExitAndYield`: the last thread of a participant of an open region exits, which is fatal. -/
def regionOf (tids : List Nat) : Region :=
  { Region.blank with
    isOpen := true,
    parts := [{ core := 0, lgid := 0, seat := 0, uid := 0, tids := tids, xh := [], gh := [], counts := [], history := [], arrived := none, pc := 0 }] }

theorem witness_orphans : ∃ u c r g, Issues (onTeam (placed (.exit exitAll)) (fun t => { t with regions := [(0, regionOf (List.range 32))] })) (.exit exitAll) u c r g
    ∧ (c.g.threads = g.threads ∧ (c.g.threads.map Prod.fst).Nodup ∧ c.g.handling = none
      ∧ ∃ m ∈ ((onTeam (placed (.exit exitAll)) (fun t => { t with regions := [(0, regionOf (List.range 32))] })).core u.core).team.toList,
        (onTeam (placed (.exit exitAll)) (fun t => { t with regions := [(0, regionOf (List.range 32))] })).orphans u.core m
          ((c.effLanes exitAll.hdr.guard).map (fun l => g.tid l)) = true) :=
  meets (fun _ _ _ _ => by infer_instance) (by decide +kernel)

def yieldT : FmtB := fb 0 (.v 0) (.v 0) 0 0 0
def yieldDoneT : FmtB := fb 1 (.v 0) (.v 0) 0 0 0
def preHandling : Handling := { resume := 0, pre := true, cause := 0, cycle := 0, old := (0, 0, 0), wait := none, half := none, reads := none }
def dueSwitch (s : State) : State :=
  { s with mgmt := { s.mgmt with switch := some { out := some 0, inc := none, cores := [], start := 0, width := 32768, delivered := true, cut := false } } }

/-- `YIELD`, and `YIELD.done` outside a PRE handler and in one with the switch due. -/
theorem witness_yields :
    (∃ u c r g, Issues (placed (.yield yieldT)) (.yield yieldT) u c r g ∧ (g.fpe = [] ∧ u.quad = u.seat / 16))
    ∧ (∃ u c r g, Issues (placed (.yieldDone yieldDoneT)) (.yieldDone yieldDoneT) u c r g ∧ (¬SwitchDue (placed (.yieldDone yieldDoneT)) c ∧ g.fpe = [] ∧ u.quad = u.seat / 16))
    ∧ ∃ u c r g, Issues (dueSwitch (grp (placed (.yieldDone yieldDoneT)) (fun g => { g with handling := some preHandling }))) (.yieldDone yieldDoneT) u c r g
      ∧ (g.fpe = [] ∧ u.quad = u.seat / 16 ∧ SwitchDue (dueSwitch (grp (placed (.yieldDone yieldDoneT)) (fun g => { g with handling := some preHandling }))) c) :=
  ⟨meets (fun _ _ _ _ => by infer_instance) (by decide +kernel),
   meetsB (fun u c _ g => g.fpe.isEmpty && u.quad == u.seat / 16 && c.g.handling.isNone) (by decide +kernel) (fun u c r g h => by
      simp only [Bool.and_eq_true, List.isEmpty_iff, beq_iff_eq, Option.isNone_iff_eq_none] at h
      exact ⟨fun ⟨w, x, _, hx, _⟩ => (by rw [h.2] at hx; cases hx), h.1.1, h.1.2⟩),
   meetsB (fun u c _ g => g.fpe.isEmpty && u.quad == u.seat / 16 && c.g.handling == some preHandling && c.owner == 0) (by decide +kernel) (fun u c r g h => by
      simp only [Bool.and_eq_true, List.isEmpty_iff, beq_iff_eq] at h
      exact ⟨h.1.1.1, h.1.1.2, _, preHandling, rfl, h.1.2, rfl, rfl, rfl, congrArg some h.2.symm⟩)⟩

/-! Barriers, fences, the commit token -/

/-- `Barriers`: arrivals that return G; an arrival that waits; a count of 1, 12,288, 0 and 12,289; a query; and a wait on a generation that stands, 0, and on another. -/
theorem witness_barriers : ∀ p ∈ ([(.barr (fs 0 (.s 5) (.v 0) (.v 0) 0 1), 0), (.bara (fs 0 (.s 5) (.s 8) (.v 0) 0 1), 3), (.barw (fs 0 (.v 0) (.v 0) (.v 0) 0 1), 0),
      (.barm (fs 0 (.v 0) (.s 8) (.v 0) 0 1), 1), (.barm (fs 0 (.v 0) (.s 8) (.v 0) 0 1), 12288), (.barm (fs 0 (.v 0) (.s 8) (.v 0) 0 1), 0),
      (.barm (fs 0 (.v 0) (.s 8) (.v 0) 0 1), 12289), (.barq (fs 0 (.s 5) (.v 0) (.v 0) 0 1), 0), (.barv (fs 0 (.v 0) (.s 8) (.v 0) 0 1), 0),
      (.barv (fs 0 (.v 0) (.s 8) (.v 0) 0 1), 7)] : List (Instr × Word)),
    ∃ u c r g, Issues (grp (placed p.1) (sset' [(8, p.2)])) p.1 u c r g ∧ BarrierStands (grp (placed p.1) (sset' [(8, p.2)])) u.core false ∧ g.fpe = [] := by
  have h : ∀ p ∈ ([(.barr (fs 0 (.s 5) (.v 0) (.v 0) 0 1), 0), (.bara (fs 0 (.s 5) (.s 8) (.v 0) 0 1), 3), (.barw (fs 0 (.v 0) (.v 0) (.v 0) 0 1), 0),
      (.barm (fs 0 (.v 0) (.s 8) (.v 0) 0 1), 1), (.barm (fs 0 (.v 0) (.s 8) (.v 0) 0 1), 12288), (.barm (fs 0 (.v 0) (.s 8) (.v 0) 0 1), 0),
      (.barm (fs 0 (.v 0) (.s 8) (.v 0) 0 1), 12289), (.barq (fs 0 (.s 5) (.v 0) (.v 0) 0 1), 0), (.barv (fs 0 (.v 0) (.s 8) (.v 0) 0 1), 0),
      (.barv (fs 0 (.v 0) (.s 8) (.v 0) 0 1), 7)] : List (Instr × Word)),
      issuing (grp (placed p.1) (sset' [(8, p.2)])) p.1 (fun u _ _ g => ((grp (placed p.1) (sset' [(8, p.2)])).core u.core).team.isSome && g.fpe.isEmpty) = true := by
    decide +kernel
  intro p hp
  refine meetsB _ (h p hp) (fun u c r g hq => ?_)
  simp only [Bool.and_eq_true, Option.isSome_iff_exists, List.isEmpty_iff] at hq
  obtain ⟨⟨m, hm⟩, hf⟩ := hq
  exact ⟨⟨m, hm, by simp⟩, hf⟩

/-- `Fences` with nothing in flight, `CommitToken` outside DET: each of these issues with nothing collected. -/
theorem witness_fences : ∀ i ∈ ([.fence (fs 0 (.s 6) (.v 0) (.v 0) 0 52), .fence (fs 0 (.v 0) (.v 0) (.v 0) 0 10), .afence (fs 0 (.v 0) (.v 0) (.v 0) 0 3),
      .sysf (fs 0 (.s 12) (.v 0) (.v 0) 0 0), .tokw (fs 0 (.v 0) (.v 0) (.v 0) 0 0), .tokp (fs 0 (.v 0) (.v 0) (.v 0) 0 0)] : List Instr),
    ∃ u c r g, Issues (placed i) i u c r g ∧ (g.fpe = [] ∧ u.snap = none ∧ ∀ rel scope n, ¬Owing ((placed i).core u.core) c.g rel scope n c.now) := by
  have h : ∀ i ∈ ([.fence (fs 0 (.s 6) (.v 0) (.v 0) 0 52), .fence (fs 0 (.v 0) (.v 0) (.v 0) 0 10), .afence (fs 0 (.v 0) (.v 0) (.v 0) 0 3),
      .sysf (fs 0 (.s 12) (.v 0) (.v 0) 0 0), .tokw (fs 0 (.v 0) (.v 0) (.v 0) 0 0), .tokp (fs 0 (.v 0) (.v 0) (.v 0) 0 0)] : List Instr),
      issuing (placed i) i (fun u _ _ g => g.fpe.isEmpty && u.snap.isNone && ((placed i).core u.core).ops.isEmpty) = true := by decide +kernel
  intro i hi
  refine meetsB _ (h i hi) (fun u c r g hq => ?_)
  simp only [Bool.and_eq_true, List.isEmpty_iff, Option.isNone_iff_eq_none] at hq
  exact ⟨hq.1.1, hq.1.2, fun rel scope n ⟨p, hp, _⟩ => by rw [hq.2] at hp; cases hp⟩

/-- `Fences`: `XFENCE` with FROM the load and store path, on which nothing is in flight. -/
theorem pathFree_of {s : State} {core : Nat} {g : Group} (h : (s.core core).ops = []) (n : Nat) : s.pathBusy core g 0 n = false := by
  simp [State.pathBusy, h]
theorem witness_pathFree : ∃ u c r g, Issues (placed (.xfence (fs 0 (.v 0) (.v 0) (.v 0) 0 80))) (.xfence (fs 0 (.v 0) (.v 0) (.v 0) 0 80)) u c r g
    ∧ (g.fpe = [] ∧ ∀ n, (placed (.xfence (fs 0 (.v 0) (.v 0) (.v 0) 0 80))).pathBusy u.core c.g 0 n = false) :=
  meetsB (fun u _ _ g => g.fpe.isEmpty && ((placed (.xfence (fs 0 (.v 0) (.v 0) (.v 0) 0 80))).core u.core).ops.isEmpty) (by decide +kernel) (fun u c r g h => by
    simp only [Bool.and_eq_true, List.isEmpty_iff] at h
    exact ⟨h.1, pathFree_of h.2⟩)

/-- A store of the group that has not been acknowledged. -/
def storeOp : MemOp := { MemOp.blank with kind := .store, tids := List.range 32, entered := true, size := 4 }
def owing (s : State) : State := onCore s (fun k => { k with ops := [(0, storeOp)], nextOp := 1 })

/-- `Fences`: a fence while a store of the group is owed. -/
theorem witness_owing : ∃ u c r g, Issues (owing (placed (.fence (fs 0 (.s 6) (.v 0) (.v 0) 0 52)))) (.fence (fs 0 (.s 6) (.v 0) (.v 0) 0 52)) u c r g
    ∧ (g.fpe = [] ∧ Owing ((owing (placed (.fence (fs 0 (.s 6) (.v 0) (.v 0) 0 52)))).core u.core) c.g true 4
        ((owing (placed (.fence (fs 0 (.s 6) (.v 0) (.v 0) 0 52)))).core u.core).nextOp c.now) :=
  meetsB (fun u c _ g => g.fpe.isEmpty && decide (((owing (placed (.fence (fs 0 (.s 6) (.v 0) (.v 0) 0 52)))).core u.core).ops = [(0, storeOp)])
      && decide (0 < ((owing (placed (.fence (fs 0 (.s 6) (.v 0) (.v 0) 0 52)))).core u.core).nextOp) && Machine.meets storeOp.tids c.g.tids) (by decide +kernel)
    (fun u c r g h => by
      simp only [Bool.and_eq_true, List.isEmpty_iff, decide_eq_true_eq] at h
      exact ⟨h.1.1.1, (0, storeOp), (by rw [h.1.1.2]; exact List.mem_singleton.mpr rfl), h.1.2, by simp [storeOp, MemOp.releases], h.2, by simp [Left, storeOp, MemOp.isRead, MemOp.isAtomicOp]⟩)

/-- `Fences`: `XFENCE` while an operation of its path is under way. -/
theorem witness_pathBusy : ∃ u c r g, Issues (owing (placed (.xfence (fs 0 (.v 0) (.v 0) (.v 0) 0 80)))) (.xfence (fs 0 (.v 0) (.v 0) (.v 0) 0 80)) u c r g
    ∧ (g.fpe = [] ∧ (owing (placed (.xfence (fs 0 (.v 0) (.v 0) (.v 0) 0 80)))).pathBusy u.core c.g 0 1 = true) :=
  meets (fun _ _ _ _ => by infer_instance) (by decide +kernel)

/-- The grid of core 0 changed. -/
def onGrid (s : State) (f : Grid → Grid) : State := s.modOwner 0 (fun o => { o with grids := o.grids.map f })
def inDet (s : State) : State := onGrid s (fun x => { x with key := some 0, packet := { x.packet with det := true } })

/-- `CommitToken`: under DET, in the group that holds the token. -/
theorem witness_token : ∀ i ∈ ([.tokw (fs 0 (.v 0) (.v 0) (.v 0) 0 0), .tokp (fs 0 (.v 0) (.v 0) (.v 0) 0 0)] : List Instr),
    ∃ u c r g, Issues (inDet (placed i)) i u c r g ∧ ((inDet (placed i)).det u.core = true ∧ (inDet (placed i)).holdsToken u.core g = true ∧ u.snap = none) := by
  intro i hi
  simp only [List.mem_cons, List.not_mem_nil, or_false] at hi
  rcases hi with rfl | rfl <;> exact meets (fun _ _ _ _ => by infer_instance) (by decide +kernel)

/-- `CommitToken`: two teams of two threads; the token goes from key 0 to key 1, and from the last key, 1,025, around to key 0. -/
theorem witness_tokenOrder : (Key 2 2 1 ∧ ∀ y, Key 2 2 y → 0 < y → y < 1 → y ∈ ([] : List Nat) ∨ y ∈ ([] : List Nat))
    ∧ Key 2 2 0 ∧ ∀ y, Key 2 2 y → 1025 < y → y ∈ ([] : List Nat) ∨ y ∈ ([] : List Nat) :=
  ⟨⟨by unfold Key; omega, fun y _ _ _ => by omega⟩, by unfold Key; omega, fun y h _ => by unfold Key at h; omega⟩

/-! Memory accesses -/

/-- The scratchpad window at 2^52, of 2^17 bytes, and the global one at 0. -/
def windows (s : State) : State := grp s (fun g => { g with segsp := 0x10000000000011 })
/-- Lane 0 alone runs, with this address in v4 and v5. -/
def alone (a : DWord) (s : State) : State :=
  grp s (fun g => (({ g with threads := g.threads.take 1 }).setVreg 4 0 (a.truncate 32)).setVreg 5 0 ((a >>> 32).truncate 32))
def sp0 : DWord := 0x10000000000000

/-- A page of device memory, writable, at frame 0 in the L1 TLB of core 0. -/
def page0 : TlbEntry := { vpn := 0, leaf := { tgt := 0, dev := 0, frame := 0, bits := 15, rmf := false, untr := false, shrd := false, x := false, w := true }, used := 0 }
def paged (s : State) : State :=
  (onCore s (fun k => { k with tlb := [page0] })).modOwner 0 (fun o => { o with record := { o.record with banks := List.replicate 16 (BitVec.allOnes 64) } })

def fitsB (s : State) (c : Ctx) (as : List (Nat × DWord)) (size : Nat) (glob : Bool) : Bool :=
  as.all (fun p => decide (p.2.toNat % size = 0) && match s.place c p.1 p.2 with
    | some (.mem _ st) => !glob || !st
    | some _ => !glob
    | none => false)

theorem fits_of {s : State} {c : Ctx} {as : List (Nat × DWord)} {size : Nat} {glob : Bool} (h : fitsB s c as size glob = true) : Fits s c as size glob := by
  intro p hp
  have h' := List.all_eq_true.mp h p hp
  simp only [Bool.and_eq_true, decide_eq_true_eq] at h'
  refine ⟨h'.1, ?_⟩
  cases hq : s.place c p.1 p.2 with
  | none => simp [hq] at h'
  | some q =>
    refine ⟨q, rfl, fun hg => ?_⟩
    rw [hq] at h'
    cases q <;> simp_all

def permittedB (s : State) (c : Ctx) (as : List (Nat × DWord)) (write : Bool) : Bool :=
  as.all (fun p => match s.place c p.1 p.2 with
    | some (.mem va _) => match tlbFind (s.core c.core).tlb (va / 2 ^ 15) with
      | some l => (!write || l.w) && (s.owner (s.ownerOf c.core)).leafColourOk l va
      | none => true
    | _ => true)

theorem permitted_of {s : State} {c : Ctx} {as : List (Nat × DWord)} {write : Bool} (h : permittedB s c as write = true) : Permitted s c as write := by
  intro p hp va st hq l hl
  have h' := List.all_eq_true.mp h p hp
  rw [hq] at h'
  simp only [hl, Bool.and_eq_true, Bool.or_eq_true] at h'
  refine ⟨fun hw => ?_, h'.2⟩
  subst hw
  simpa using h'.1

def noRecordB (s : State) (c : Ctx) (as : List (Nat × DWord)) : Bool :=
  as.all (fun p => match s.place c p.1 p.2 with | some (.scratch o) => raceGet (s.core c.core).spRace (o / 128) == 0 && !(s.core c.core).spRaceBad.contains (o / 128) | _ => true)

theorem noRecord_of {s : State} {c : Ctx} {as : List (Nat × DWord)} (h : noRecordB s c as = true) : NoRecord s c as := by
  intro p hp o ho
  have h' := List.all_eq_true.mp h p hp
  rw [ho] at h'
  simpa using h'

/-- The instruction issues on a core in which nothing is in flight, and its accesses are as the statements ask. -/
def accessing (s : State) (i : Instr) (write glob : Bool) : Bool :=
  match accessOf i with
  | some (f, idx) => issuing s i (fun u c _ _ => fitsB s c (c.addrs f idx) (2 ^ f.size.toNat) glob && permittedB s c (c.addrs f idx) write
      && noRecordB s c (c.addrs f idx) && (s.core u.core).ops.isEmpty)
  | none => false

theorem accessing_spec {s : State} {i : Instr} {write glob : Bool} (h : accessing s i write glob = true) : ∃ f idx u c r g, accessOf i = some (f, idx) ∧ Issues s i u c r g
    ∧ Fits s c (c.addrs f idx) (2 ^ f.size.toNat) glob ∧ Permitted s c (c.addrs f idx) write ∧ NoRecord s c (c.addrs f idx) ∧ AllEntered s u.core := by
  unfold accessing at h
  split at h
  · rename_i f idx hf
    obtain ⟨u, c, r, g, a, b⟩ := issuing_spec h
    simp only [Bool.and_eq_true, List.isEmpty_iff] at b
    exact ⟨f, idx, u, c, r, g, hf, a, fits_of b.1.1.1, permitted_of b.1.1.2, noRecord_of b.1.2, fun p hp => by rw [b.2] at hp; cases hp⟩
  · cases h

def ldT : Instr := .ld (fm 0 (.v 8) (.v 4) (.v 0) (.v 0) 2 0 0 0)
def stT : Instr := .st (fm 0 (.v 0) (.v 4) (.v 8) (.v 0) 2 0 0 0)

/-- `Loads`, `Stores`: a load and a store of lane 0 in the scratchpad and in the global window, with the page in the TLB; an indexed load and store, and an `LDI`. -/
theorem witness_accesses :
    accessing (windows (alone sp0 (placed ldT))) ldT false false = true ∧ accessing (paged (windows (alone 64 (placed ldT)))) ldT false false = true
    ∧ accessing (windows (placed (.ldg (fm 0 (.v 8) (.s 4) (.v 0) (.v 6) 2 0 0 0)))) (.ldg (fm 0 (.v 8) (.s 4) (.v 0) (.v 6) 2 0 0 0)) false true = true
    ∧ accessing (windows (placed (.ldi (fm 0 (.s 8) (.s 4) (.v 0) (.v 0) 2 0 0 0)))) (.ldi (fm 0 (.s 8) (.s 4) (.v 0) (.v 0) 2 0 0 0)) false true = true
    ∧ accessing (windows (alone sp0 (placed stT))) stT true false = true ∧ accessing (paged (windows (alone 64 (placed stT)))) stT true false = true
    ∧ accessing (windows (placed (.stg (fm 0 (.v 0) (.s 4) (.v 8) (.v 6) 2 0 0 0)))) (.stg (fm 0 (.v 0) (.s 4) (.v 8) (.v 6) 2 0 0 0)) true true = true := by decide +kernel

/-- `Atomics`: one of each operation, in lane 0 of the scratchpad; in 32 and 64 bits. -/
def atomT (sub : BitVec 8) (size : BitVec 3) : FmtM := fm sub (.v 8) (.v 4) (.v 10) (.v 0) size 2 3 0
theorem witness_atomics : ∀ i ∈ ([.atomAdd (atomT 0 2), .atomMinSigned (atomT 1 3), .atomMinUnsigned (atomT 2 2), .atomMaxSigned (atomT 3 2), .atomMaxUnsigned (atomT 4 2), .atomAnd (atomT 5 2),
      .atomOr (atomT 6 3), .atomXor (atomT 7 2), .atomExch (atomT 8 2), .atomFadd (atomT 9 2), .atomFmin (atomT 10 3), .atomFmax (atomT 11 2),
      .atcas { atomT 0 2 with c := .v 12 }] : List Instr), (atomOf i).isSome = true ∧ accessing (windows (alone sp0 (placed i))) i true false = true := by decide +kernel


/-- `FlagWaits`: an attempt on the word at 0, in the scalar form. -/
def atfT : FmtM := fm 5 (.s 3) (.s 10) (.s 12) (.v 0) 2 1 3 0
theorem witness_flagAttempt : accessing (placed (.atf atfT)) (.atf atfT) true false = true := by decide +kernel

/-- An operation of the group that has read four bytes for lane 0, and its group waiting for it. -/
def answerOp (k : OpKind) (data : List Byte) (dst : Option RegId) : MemOp :=
  { storeOp with kind := k, dst := dst, scr := [{ lane := 0, ga := sp0, va := 0, bytes := 4, data := data, cmp := [], res := [5, 0, 0, 0x80], bad := false }] }
def answered (k : OpKind) (data : List Byte) (dst : Option RegId) (w : Option Wait) : State :=
  grp (onCore (placed ldT) (fun c => { c with ops := [(7, answerOp k data dst)], nextOp := 8 })) (fun g => { g with wait := w })

/-- `Loads`: the answer of a load of lane 0, by lanes; its word comes to v8. -/
theorem witness_loadAnswer : (answered (.load false false false) [] (some (.v 8)) none).op? 0 7 = some (answerOp (.load false false false) [] (some (.v 8)))
    ∧ (∃ g ∈ ((answered (.load false false false) [] (some (.v 8)) none).group? 0 0).toList, g.uid = (answerOp (.load false false false) [] (some (.v 8))).uid)
    ∧ (∀ x ∈ (answerOp (.load false false false) [] (some (.v 8))).acc ++ (answerOp (.load false false false) [] (some (.v 8))).scr, x.lane < 32 ∧ x.res.length ≤ 16)
    ∧ of ((answered (.load false false false) [] (some (.v 8)) none).finishOp 0 7) (fun g => g.vreg 8 0 == 0x80000005) = true := by decide +kernel

/-- `FlagWaits`: the answer of an attempt whose condition, equal, holds, and of one whose condition, unequal, does not: the group goes on, or attempts again. -/
theorem witness_flagAnswer : ∀ p ∈ [(0, 12), (1, 0)],
    let o := answerOp (.atf p.1 true) [5, 0, 0, 0x80] none
    let s := answered (.atf p.1 true) [5, 0, 0, 0x80] none (some (.op 7))
    s.op? 0 7 = some o ∧ o.answered (s.now 0) = true ∧ (∃ g ∈ (s.group? 0 0).toList, g.uid = o.uid ∧ g.wait = some (.op 7))
      ∧ (match exec (.atfAttemptAnswer 0 7) s with | .next t => of t (fun g => g.pc == p.2 && g.wait.isNone) | _ => false) = true := by decide +kernel

/-- `LineStates`: a prefetch, `WCFL`, and each scratchpad line instruction in the window and outside every window. -/
theorem witness_lines :
    (∀ i ∈ ([.pref (fm 0 (.v 0) (.v 4) (.v 0) (.v 0) 0 0 1 256), .wcfl (fm 0 (.v 0) (.v 0) (.v 0) (.v 0) 0 0 0 0)] : List Instr), issuesNow (placed i) i = true)
    ∧ ∀ i ∈ ([.spset (fm 0 (.v 0) (.v 4) (.v 0) (.v 0) 0 0 0 0), .spclr (fm 0 (.v 0) (.v 4) (.v 0) (.v 0) 0 0 0 0), .sptst (fm 0 (.v 8) (.v 4) (.v 0) (.v 0) 0 0 0 0)] : List Instr),
      issuing (windows (alone sp0 (placed i))) i (fun _ c _ _ => (c.addrs (fm 0 (.v 0) (.v 4) (.v 0) (.v 0) 0 0 0 0) false).all (fun p =>
        match (windows (alone sp0 (placed i))).place c p.1 p.2 with | some (.scratch _) => true | _ => false)) = true
      ∧ issuing (windows (alone 64 (placed i))) i (fun _ c _ _ => (c.addrs (fm 0 (.v 0) (.v 4) (.v 0) (.v 0) 0 0 0 0) false).any (fun p =>
        match (windows (alone 64 (placed i))).place c p.1 p.2 with | some (.scratch _) => false | _ => true)) = true := by decide +kernel

/-- R65, R66 and R200: a line that `SPCLR` makes empty reads so with `SPTST`, and is full at first. -/
theorem test_lines : gives (windows (alone sp0 (placed (.spclr (fm 0 (.v 0) (.v 4) (.v 0) (.v 0) 0 0 0 0))))) (.spclr (fm 0 (.v 0) (.v 4) (.v 0) (.v 0) 0 0 0 0))
      (fun t => (t.core 0).spEmpty == [0])
    && gives (windows (alone sp0 (placed (.sptst (fm 0 (.v 8) (.v 4) (.v 0) (.v 0) 0 0 0 0))))) (.sptst (fm 0 (.v 8) (.v 4) (.v 0) (.v 0) 0 0 0 0))
      (fun t => of t (fun g => g.vreg 8 0 == 1)) = true := by decide +kernel

/-- R76, R178 and R198: a word stored from lane 0 stands in the scratchpad, low byte first; an addition to it returns the old value later, and adds at once. -/
theorem test_store : gives (grp (windows (alone sp0 (placed stT))) (vset [(8, 0x04030201)])) stT (fun t => (t.core 0).sp.read 0 == 1 && (t.core 0).sp.read 3 == 4)
    && gives (grp (onCore (windows (alone sp0 (placed (.atomAdd (atomT 0 2))))) (fun k => { k with sp := k.sp.writeN 0 [255, 0, 0, 0] })) (vset [(10, 2)])) (.atomAdd (atomT 0 2))
      (fun t => (t.core 0).sp.read 0 == 1 && (t.core 0).sp.read 1 == 1) = true := by decide +kernel


/-! Copies, handles, tiles, queues, collectives -/

/-- Lanes 0 and 31 alone run, with this value in a register pair. -/
def pairEnds (k : Nat) (d : DWord) (g : Group) : Group :=
  [0, 31].foldl (fun g l => (g.setVreg k l (d.truncate 32)).setVreg (k + 1) l ((d >>> 32).truncate 32)) { g with threads := g.threads.filter (fun p => p.1 == 0 || p.1 == 31) }

/-- Scalar pairs of the group. -/
def pairs (xs : List (Nat × DWord)) (s : State) : State :=
  grp s (fun g => xs.foldl (fun (g : Group) (x : Nat × DWord) => (g.setSreg x.1 (x.2.truncate 32)).setSreg (x.1 + 1) ((x.2 >>> 32).truncate 32)) g)

def spWith (o : Nat) (bs : List Byte) (s : State) : State := onCore s (fun k => { k with sp := k.sp.writeN o bs })
def holding (hs : List (Nat × HandleReg)) (s : State) : State := grp s (fun g => { g with handles := hs })
def slot (n : Nat) (u : SlotUse) : Nat × Slot := (n, { Slot.blank with use := u, gen := 1 })
def slotted (xs : List (Nat × Slot)) (s : State) : State := onCore s (fun k => { k with slots := xs })

def cpyT : Instr := .cpy (fm 0 (.s 4) (.s 10) (.s 12) (.s 14) 0 0 0 0)
def cpxT : Instr := .cpx (fm 0 (.s 4) (.s 10) (.s 12) (.s 14) 0 0 0 0)
/-- `CPY` of 64 bytes from global address `a` to the scratchpad, or to the same addresses. -/
def copying (i : Instr) (dst src : DWord) : State := pairs [(10, dst), (12, src), (14, 64)] (windows (placed i))


def overlapsB (s : State) (c : Ctx) (x : Copy) : Bool :=
  (match x.src, x.range with
    | .addr a, some (l, h) => x.box.isEmpty && decide (0 < x.count ∧ l < a.toNat + x.bytesOf x.count ∧ a.toNat < h)
    | _, _ => false)
  || (s.core c.core).quads.any (fun q => q.1 != c.quad && q.2.copies.any (fun y => match x.range, y.range with
    | some (l, h), some (l', h') => decide (l < h' ∧ l' < h)
    | _, _ => false))

theorem overlapsB_iff (s : State) (c : Ctx) (x : Copy) : overlapsB s c x = true ↔ Overlaps s c x := by
  unfold overlapsB Overlaps
  simp only [Bool.or_eq_true, List.any_eq_true, Bool.and_eq_true, bne_iff_ne]
  refine or_congr ⟨fun h => ?_, ?_⟩ ⟨?_, ?_⟩
  · rcases hs : x.src <;> rcases hr : x.range with _ | ⟨l, k⟩ <;> simp_all
    all_goals exact ⟨l, k, ⟨rfl, rfl⟩, h.2.2⟩
  · rintro ⟨a, l, h, hs, hb, h0, hr, h1, h2⟩
    simp [hs, hr, hb, h0, h1, h2]
  · rintro ⟨q, hq, hn, y, hy, h⟩
    refine ⟨q, hq, hn, y, hy, ?_⟩
    rcases hx : x.range with _ | ⟨l, k⟩ <;> rcases hr : y.range with _ | ⟨l', k'⟩ <;> simp_all
    all_goals exact ⟨l, k, ⟨rfl, rfl⟩, l', k', ⟨rfl, rfl⟩, h⟩
  · rintro ⟨q, hq, hn, y, hy, l, h, l', h', hx, hr, h1, h2⟩
    exact ⟨q, hq, hn, y, hy, by simp [hx, hr, h1, h2]⟩

def decOverlaps (s : State) (c : Ctx) (x : Copy) : Decidable (Overlaps s c x) := decidable_of_iff _ (overlapsB_iff s c x)

/-- The copy that the instruction starts. -/
def theCopy (i : Instr) (s : State) (c : Ctx) : Copy :=
  c.newCopy s (match i with | .cpx f => .pattern (c.sval32 f.data) | _ => c.endpoint (.s 12)) (c.endpoint (.s 10)) (c.sval32 (.s 14)).toNat 2 []

/-- `Copies`: into the scratchpad, without overlap; onto itself; a fill. -/
theorem witness_copies : (∃ u c r g, Issues (copying cpyT sp0 0) cpyT u c r g ∧ (copyOf cpyT (copying cpyT sp0 0) c (theCopy cpyT (copying cpyT sp0 0) c)
      ∧ EndsFit (theCopy cpyT (copying cpyT sp0 0) c) ∧ ¬Overlaps (copying cpyT sp0 0) c (theCopy cpyT (copying cpyT sp0 0) c)))
    ∧ (∃ u c r g, Issues (copying cpyT 32 0) cpyT u c r g ∧ (copyOf cpyT (copying cpyT 32 0) c (theCopy cpyT (copying cpyT 32 0) c)
      ∧ EndsFit (theCopy cpyT (copying cpyT 32 0) c) ∧ Overlaps (copying cpyT 32 0) c (theCopy cpyT (copying cpyT 32 0) c)))
    ∧ ∃ u c r g, Issues (copying cpxT sp0 7) cpxT u c r g ∧ (copyOf cpxT (copying cpxT sp0 7) c (theCopy cpxT (copying cpxT sp0 7) c)
      ∧ EndsFit (theCopy cpxT (copying cpxT sp0 7) c) ∧ ¬Overlaps (copying cpxT sp0 7) c (theCopy cpxT (copying cpxT sp0 7) c)) :=
  ⟨meets (fun _ _ _ _ => by dsimp only [copyOf, cpyT, EndsFit]; have := decOverlaps; infer_instance) (by decide +kernel),
   meets (fun _ _ _ _ => by dsimp only [copyOf, cpyT, EndsFit]; have := decOverlaps; infer_instance) (by decide +kernel),
   meets (fun _ _ _ _ => by dsimp only [copyOf, cpxT, EndsFit]; have := decOverlaps; infer_instance) (by decide +kernel)⟩

/-- A layout record: 4 elements of 4 bytes at address 0, one dimension. -/
def layoutBytes : List Byte := leBytes 8 0 ++ leBytes 20 4 ++ leBytes 20 0 ++ [3, 0, 0, 0, 0, 3, 1] ++ List.replicate 9 0
def cptT (sub : BitVec 8) : FmtM := fm sub (.s 4) (.s 16) (.s 10) (.s 20) 0 0 0 0
def layoutT : Layout := { base := 0, ext := [4], str := [], box := [4], halves := 8, edge := 0, repb := false }
def boxing (i : Instr) : State := pairs [(16, sp0), (10, sp0 + 128)] (spWith 0 layoutBytes (windows (placed i)))

/-- `Copies`: a box copy each way against the scratchpad, its record at the start of the scratchpad. -/
theorem witness_boxCopies : Layout.of layoutBytes = some layoutT ∧ ∀ p ∈ ([(.cptLd (cptT 0), true), (.cptSt (cptT 1), false)] : List (Instr × Bool)),
    ∃ u c r g, Issues (boxing p.1) p.1 u c r g ∧ ((∀ q ∈ ((boxing p.1).core u.core).ops, q.2.kind.isProbe = false) ∧ (c.sval 2 (cptT 0).addr).toNat % 64 = 0
      ∧ (boxing p.1).place c c.lane0 (c.sval 2 (cptT 0).addr) = some (.scratch 0) ∧ ((boxing p.1).core c.core).seen.readN 0 64 = layoutBytes
      ∧ regNum (cptT 0).c + layoutT.ext.length ≤ 64 ∧ EndsFit (boxOf (boxing p.1) c (cptT (if p.2 then 0 else 1)) p.2 layoutT) ∧ ¬Overlaps (boxing p.1) c (boxOf (boxing p.1) c (cptT (if p.2 then 0 else 1)) p.2 layoutT)) := by
  refine ⟨by rfl, fun p hp => ?_⟩
  simp only [List.mem_cons, List.not_mem_nil, or_false] at hp
  rcases hp with rfl | rfl <;> exact meets (fun _ _ _ _ => by dsimp only [EndsFit]; have := decOverlaps; infer_instance) (by decide +kernel)

/-- `Copies`: a record whose page the L1 TLB does not hold. -/
theorem witness_recordWaits : ∀ i ∈ [Instr.cptLd (cptT 0), .cptSt (cptT 1)], ∃ u c r g, Issues (pairs [(16, 64)] (windows (placed i))) i u c r g ∧
    (u.snap = none ∧ g.fpe = [] ∧ (∀ p ∈ ((pairs [(16, 64)] (windows (placed i))).core u.core).ops, p.2.kind.isProbe = false) ∧ (c.sval 2 (cptT 0).addr).toNat % 64 = 0
      ∧ (pairs [(16, 64)] (windows (placed i))).place c c.lane0 (c.sval 2 (cptT 0).addr) = some (.mem 64 false)
      ∧ tlbFind ((pairs [(16, 64)] (windows (placed i))).core u.core).tlb (64 / Config.pageBytes) = none) := by
  intro i hi
  simp only [List.mem_cons, List.not_mem_nil, or_false] at hi
  rcases hi with rfl | rfl <;> exact meets (fun _ _ _ _ => by infer_instance) (by decide +kernel)

/-- The copy queue of quadrant 0: one copy has completed, with 64 bytes, and copy 1, of 64 bytes, waits or runs with 8 of them written. -/
def copyOne (started : Bool) : Copy :=
  { src := .pattern 0, dst := .addr sp0, count := 64, halves := 2, box := [], seat := 0, uid := 0, lgid := 0, region := none, pc := 0, csn := 1, ticket := 1,
    segsp := 0x10000000000011, segst := 0, seggl := 51, issued := 0, cycle := 0, tids := List.range 32, started := started, data := [], readPos := 0, writePos := 0, done := if started then 8 else 0, stopped := false,
    faulted := false, last := 0, lines := [], carry := none }
def queued (started : Bool) (s : State) : State :=
  onCore s (fun k => { k with quads := mmod k.quads 0 (fun q => { q with copies := [copyOne started], done := [{ seq := 0, bytes := 64 }], enqueued := 2, completed := 1 }) })
def cpwT : Instr := .cpw (fm 0 (.v 0) (.v 0) (.s 8) (.v 0) 0 0 0 0)
def cpqT : Instr := .cpq (fm 0 (.s 6) (.v 0) (.s 8) (.v 0) 0 0 0 0)

/-- `CopyStatus`: tickets 0 (complete), 1 (waits, runs) and 5 (not enqueued). -/
theorem witness_copyStatus : issuesNow (queued false (placed cpwT)) cpwT = true
    ∧ (∀ p ∈ ([(false, 0), (false, 1), (true, 1), (false, 5)] : List (Bool × Nat)), issuesNow (grp (queued p.1 (placed cpqT)) (sset' [(8, BitVec.ofNat 32 p.2)])) cpqT = true)
    ∧ ∀ p ∈ ([(false, 0, 3, 64), (false, 1, 0, 0), (true, 1, 1, 8), (false, 5, 0, 0)] : List (Bool × Nat × Nat × Nat)), gives (grp (queued p.1 (placed cpqT)) (sset' [(8, BitVec.ofNat 32 p.2.1)])) cpqT
        (fun t => of t (fun g => (g.sreg 6).toNat == p.2.2.2 && (g.sreg 7).toNat == p.2.2.1)) = true := by decide +kernel

def handle0 : HandleReg := { live := true, slots := [0], gen := 1 }
/-- h1 holds slot 0, with a word of its tile. -/
def withH1 (s : State) : State :=
  holding [(1, handle0)] (slotted [(0, { Slot.blank with use := .handle 0 1, gen := 1, words := [(5, 77), (2050, 88)] })] s)
def hallocT : Instr := .halloc (fx 0 (.h 0) (.v 0) (.v 0) (.v 0) 0 0 0 0 0)
def hfreeT : Instr := .hfree (fx 0 (.v 0) (.h 1) (.v 0) (.v 0) 0 0 0 0 0)
def hputT : Instr := .hput (fx 0 (.v 0) (.h 1) (.v 0) (.v 0) 0 0 0 0 3)
def htakeT : Instr := .htake (fx 0 (.h 0) (.v 0) (.v 0) (.v 0) 0 0 0 0 3)
def hqryT : Instr := .hqry (fx 0 (.s 5) (.v 0) (.v 0) (.v 0) 0 0 0 0 0)
def mailed (s : State) : State := onTeam s (fun t => { t with mail := [(3, { slots := [0], gen := 1 })] })


/-- `Handles`: an allocation, into a handle that is not live and into one that is, a release, both ways through mailbox 3, and a query. -/
theorem witness_handles : ∀ p ∈ [(hallocT, placed hallocT), (hallocT, holding [(0, handle0)] (slotted [slot 0 (.handle 0 0)] (placed hallocT))), (hfreeT, withH1 (placed hfreeT)),
      (hputT, withH1 (placed hputT)), (htakeT, mailed (placed htakeT)), (hqryT, withH1 (placed hqryT))],
    issuing p.2 p.1 (fun u c _ g => c.g.handles == g.handles && (p.2.core u.core).team.isSome) = true := by decide +kernel

/-- R67 to R69, R209: the first allocation takes slot 0 with generation 1, and one into the handle that holds it takes it again; `HQRY` tells 31 free slots and h1. -/
theorem test_handles : gives (placed hallocT) hallocT (fun t => of t (fun g => g.handle 0 == { live := true, slots := [0], gen := 1 }))
    && gives (holding [(0, handle0)] (slotted [slot 0 (.handle 0 0)] (placed hallocT))) hallocT (fun t => of t (fun g => g.handle 0 == { live := true, slots := [0], gen := 2 }))
    && gives (withH1 (placed hputT)) hputT (fun t => of t (fun g => !(g.handle 1).live) && mailbox t 0 3 == some { slots := [0], gen := 1 })
    && gives (withH1 (placed hqryT)) hqryT (fun t => of t (fun g => g.sreg 5 == 0x1F000002)) = true := by decide +kernel

def trdT (side : BitVec 16) : Instr := .trd (fx 0 (.v 8) (.h 1) (.v 4) (.v 0) 0 0 0 0 side)
def twrT : Instr := .twr (fx 1 (.h 1) (.v 8) (.v 4) (.v 0) 0 0 0 0 0)
def tfillT (side : BitVec 16) : Instr := .tfill (fx 0 (.h 1) (.s 4) (.s 5) (.v 0) 0 0 0 0 side)

/-- `TileWords`: word 5 of a tile, and word 2 of a sidecar, in lanes 0 and 31; word 512, the band word, and 513, beyond it; writes and fills. R212 and R213 give the values. -/
theorem test_tileWords :
    gives (grp (withH1 (placed (trdT 0))) (pairEnds 4 5)) (trdT 0) (fun t => of t (fun g => g.vreg 8 0 == 77 && g.vreg 8 31 == 77))
    && gives (grp (withH1 (placed (trdT 1))) (pairEnds 4 2)) (trdT 1) (fun t => of t (fun g => g.vreg 8 0 == 88))
    && issuesNow (grp (withH1 (placed (trdT 1))) (pairEnds 4 512)) (trdT 1) && issuesNow (grp (withH1 (placed (trdT 1))) (pairEnds 4 513)) (trdT 1)
    && gives (grp (grp (withH1 (placed twrT)) (pairEnds 4 6)) (fun g => g.setVreg 8 31 9)) twrT (fun t => tileWord t 0 0 6 == 9 && tileWord t 0 0 5 == 77)
    && gives (grp (withH1 (placed (tfillT 1))) (sset' [(4, 3), (5, 0x00020007)])) (tfillT 1)
      (fun t => tileWord t 0 0 0 == 3 && tileWord t 0 0 2047 == 3 && tileWord t 0 0 2048 == 0x07070707 && tileWord t 0 0 2560 == 0x00020002) = true := by decide +kernel

/-- A tile access of h1 with base s30 and stride s32. -/
def tldT : FmtX := fx 0 (.h 1) (.s 30) (.s 32) (.v 0) 0 5 0 0 0
def tstT : FmtX := fx 1 (.v 0) (.s 30) (.s 32) (.h 1) 0 5 0 0 0
def tiled (i : Instr) (base : DWord) (stride : Word) : State := grp (pairs [(30, base)] (windows (withH1 (placed i)))) (sset' [(32, stride)])

def stridedB (c : Ctx) (f : FmtX) (least : Nat) : Bool :=
  decide ((c.sval 2 f.a).toNat % 16 = 0 ∧ (c.sval32 f.b).toNat % 16 = 0 ∧ max 16 least ≤ (c.sval32 f.b).toNat ∧ (c.sval32 f.b).toNat ≤ 2 ^ 31 - 16)

/-- `TileAccesses`: a tile of FP4 in the scratchpad, with a stride of 64; and a base that is no multiple of 16. -/
theorem witness_tileAccesses : ∀ p ∈ [(Instr.tld tldT, tldT, Opd.h 1, 16, false), (.tst tstT, tstT, .h 1, 64, true)],
    (∃ u c r g, Issues (tiled p.1 sp0 64) p.1 u c r g ∧ Strided c p.2.1 p.2.2.2.1 ∧ PiecesFit (tiled p.1 sp0 64) c (c.tileAddrs p.2.1 p.2.2.1)
      ∧ Permitted (tiled p.1 sp0 64) c ((c.tileAddrs p.2.1 p.2.2.1).map (fun q => (c.lane0, q.1))) p.2.2.2.2)
    ∧ ∃ u c r g, Issues (tiled p.1 (sp0 + 8) 64) p.1 u c r g ∧ ¬Strided c p.2.1 p.2.2.2.1 := by
  have h : ∀ p ∈ [(Instr.tld tldT, tldT, Opd.h 1, 16, false), (.tst tstT, tstT, .h 1, 64, true)],
      issuing (tiled p.1 sp0 64) p.1 (fun _ c _ _ => stridedB c p.2.1 p.2.2.2.1 && (c.tileAddrs p.2.1 p.2.2.1).all (fun q =>
        match (tiled p.1 sp0 64).place c c.lane0 q.1 with | some (.scratch _) => true | _ => false)) = true
      ∧ issuing (tiled p.1 (sp0 + 8) 64) p.1 (fun _ c _ _ => !stridedB c p.2.1 p.2.2.2.1) = true := by decide +kernel
  intro p hp
  refine ⟨meetsB _ (h p hp).1 (fun u c r g hq => ?_), meetsB _ (h p hp).2 (fun u c r g hq => ?_)⟩
  · simp only [Bool.and_eq_true, List.all_eq_true] at hq
    have hs : ∀ q ∈ c.tileAddrs p.2.1 p.2.2.1, ∃ o, (tiled p.1 sp0 64).place c c.lane0 q.1 = some (.scratch o) := by
      intro q hm
      have := hq.2 q hm
      split at this
      · exact ⟨_, by assumption⟩
      · cases this
    refine ⟨by have h1 := hq.1; unfold stridedB at h1; unfold Strided; exact of_decide_eq_true h1, ⟨fun q hm => .inl (hs q hm), fun vs _ hv => ?_⟩, ?_⟩
    · cases vs with
      | nil => exact Nat.zero_le _
      | cons v vs =>
        obtain ⟨q, hm, va, hm', -⟩ := hv v (by simp)
        obtain ⟨o, ho⟩ := hs q hm
        rw [hm'] at ho
        cases ho
    · intro q hm va st hm'
      obtain ⟨x, hx, rfl⟩ := List.mem_map.mp hm
      obtain ⟨o, ho⟩ := hs x hx
      rw [hm'] at ho
      cases ho
  · intro hst
    unfold Strided at hst
    unfold stridedB at hq
    rw [decide_eq_true hst] at hq
    cases hq

/-! Queues: a descriptor or an entry at the address in s20 -/

def tqpopT : Instr := .tqpop (fm 0 (.s 12) (.s 20) (.v 0) (.v 0) 0 0 0 0)
def tqdoneT : Instr := .tqdone (fm 0 (.s 12) (.s 20) (.v 0) (.v 0) 0 0 0 0)
def tqstealT : Instr := .tqsteal (fm 0 (.s 12) (.s 20) (.v 0) (.v 0) 0 0 0 0)
def queueFm : FmtM := fm 0 (.s 12) (.s 20) (.v 0) (.v 0) 0 0 0 0
def recording (s : State) : State := onGrid s (fun x => { x with packet := { x.packet with trm := 1, nlog := 0 } })

/-- `Queues`: each step at an aligned address in the global window, its page in the TLB; each at one that is not aligned; and a recorded steal beyond the log's room. -/
theorem witness_queues :
    (∀ i ∈ [tqpopT, tqdoneT, tqstealT], issuing (pairs [(20, 64)] (paged (placed i))) i (fun u c _ _ =>
        (match (pairs [(20, 64)] (paged (placed i))).place c c.lane0 (queueAddr c queueFm) with | some (.mem _ st) => !st | _ => false)
        && permittedB (pairs [(20, 64)] (paged (placed i))) c [(c.lane0, queueAddr c queueFm)] true && (queueAddr c queueFm).toNat % 64 == 0
        && (((pairs [(20, 64)] (paged (placed i))).gridOf u.core).map (fun x => x.packet.trm)).getD 0 == 0) = true
      ∧ issuing (pairs [(20, 72)] (placed i)) i (fun _ c _ _ => (queueAddr c queueFm).toNat % 32 != 0) = true)
    ∧ issuing (pairs [(20, 64)] (recording (placed tqstealT))) tqstealT (fun u _ _ _ =>
        (((pairs [(20, 64)] (recording (placed tqstealT))).gridOf u.core).map (fun x => x.packet.trm == 1 && decide (x.packet.nlog ≤ x.steals))).getD false) = true := by decide +kernel

/-- R217 and R218: an entry that is QUEUED, one that device 3 holds, and one that is DONE; popping raises HEAD. -/
theorem test_queueEntries : takeEntry (leBytes 32 9) 1 3 5 = some (9, leBytes 8 9 ++ leBytes 4 1 ++ leBytes 4 3 ++ leBytes 4 5 ++ leBytes 12 0)
    ∧ (doneEntry (leBytes 8 9 ++ leBytes 4 1 ++ leBytes 4 3 ++ leBytes 4 5 ++ leBytes 12 0) 3 5).1 = 0 ∧ (doneEntry (leBytes 8 9 ++ leBytes 4 3 ++ leBytes 4 3 ++ leBytes 4 5 ++ leBytes 12 0) 3 5).1 = 1
    ∧ takeEntry (leBytes 8 9 ++ leBytes 24 3) 1 3 5 = none ∧ popDesc (leBytes 24 255) = leBytes 24 256 := by decide +kernel

/-- Scorecard 2 of owner 0: devices 5 and 6; one generation, in which device 6 came 40 ns after device 5. -/
def carded (s : State) : State := s.modOwner 0 (fun o => { o with cards := [(2, { members := [5, 6], gens := [{ arr := [0, 40], late := none, lag := [1] }], stamps := [], serials := [] })] })
def strgT : Instr := .strg (fm 0 (.s 5) (.v 0) (.s 6) (.v 0) 0 0 2 0)
def strgTT : Instr := .strgT (fm 1 (.s 5) (.v 0) (.s 6) (.s 7) 0 0 2 0)
def timed (s : State) : State := onGrid s (fun x => { x with packet := { x.packet with fta := true } })

/-- `Scorecards`: a member and a device that is none; fabric time that the grid may read, of a generation held and of one that is not, and that it may not read. -/
theorem test_scorecards :
    gives (grp (carded (placed strgT)) (sset' [(6, 6)])) strgT (fun t => of t (fun g => (g.sreg 5).getLsbD 22))
    && gives (grp (carded (placed strgT)) (sset' [(6, 7)])) strgT (fun t => of t (fun g => g.sreg 5 == 0))
    && gives (grp (timed (carded (placed strgTT))) (sset' [(6, 6), (7, 0)])) strgTT (fun t => of t (fun g => g.sreg 5 == 40))
    && gives (grp (timed (carded (placed strgTT))) (sset' [(6, 6), (7, 1)])) strgTT (fun t => of t (fun g => g.sreg 5 == 0xFFFFFFFE))
    && gives (grp (carded (placed strgTT)) (sset' [(6, 6), (7, 0)])) strgTT (fun t => of t (fun g => g.sreg 5 == 0xFFFFFFFF)) = true := by decide +kernel

/-- A descriptor of a broadcast of four bytes from rank 0 to devices 0 and 1, its member table in the next line of the scratchpad. -/
def collBytes (op : BitVec 8) : List Byte :=
  leBytes 8 0 ++ leBytes 8 0 ++ leBytes 4 4 ++ [op, 4] ++ leBytes 2 0 ++ leBytes 8 0x10000000000080 ++ leBytes 2 2 ++ leBytes 2 0 ++ leBytes 4 9 ++ leBytes 24 0
def memberBytes : List Byte := [0, 0, 1, 0]
def collT : Instr := .coll (fm 0 (.v 0) (.s 24) (.v 0) (.v 0) 0 0 0 0)
def collecting (op : BitVec 8) (a : DWord) : State := pairs [(24, a)] (spWith 128 memberBytes (spWith 0 (collBytes op) (windows (placed collT))))

/-- `CollectiveIssue`: a descriptor that is not aligned, one that combines a reduction with bytes, and one that can be read with its members. -/
theorem witness_collective : issuesNow (collecting 3 (sp0 + 8)) collT = true
    ∧ (collIllegal (collBytes 0) = true ∧ ∃ u c r g, Issues (collecting 0 sp0) collT u c r g ∧ ((∀ p ∈ ((collecting 0 sp0).core u.core).ops, p.2.kind.isProbe = false)
        ∧ (collecting 0 sp0).place c c.lane0 sp0 = some (.scratch 0) ∧ ((collecting 0 sp0).core c.core).seen.readN 0 64 = collBytes 0 ∧ c.sval 2 (.s 24) = sp0))
    ∧ (collIllegal (collBytes 3) = false ∧ linePieces (sp0 + 128) (2 * leNat (((collBytes 3).drop 32).take 2)) = [(0, 4)]
      ∧ ∃ u c r g, Issues (collecting 3 sp0) collT u c r g ∧ ((∀ p ∈ ((collecting 3 sp0).core u.core).ops, p.2.kind.isProbe = false)
        ∧ (collecting 3 sp0).place c c.lane0 sp0 = some (.scratch 0) ∧ ((collecting 3 sp0).core c.core).seen.readN 0 64 = collBytes 3 ∧ c.sval 2 (.s 24) = sp0
        ∧ (collecting 3 sp0).place c c.lane0 (sp0 + 128) = some (.scratch 128) ∧ ((collecting 3 sp0).core c.core).seen.readN 128 4 = memberBytes)) :=
  ⟨by decide +kernel, ⟨by decide +kernel, meets (fun _ _ _ _ => by infer_instance) (by decide +kernel)⟩, by decide +kernel, by decide +kernel,
   meets (fun _ _ _ _ => by infer_instance) (by decide +kernel)⟩

/-! Matrix engines -/

def hreg (ns : List Nat) : HandleReg := { live := true, slots := ns, gen := 1 }
/-- Handles of one slot (h0, h1, h6, h7), of two (h2, h3) and of four (h4, h5), and origin 1 of the quadrant as a0. -/
def armed (s : State) : State :=
  grp (slotted ((List.range 16).map (fun n => slot n (.handle 0 n)))
      (s.modOwner 0 (fun o => o.modDie 0 (fun d => { d with pool := { d.pool with level := 4 } })))) (fun g => { g with hperm := 16, origins := [1], handles :=
    [(0, hreg [0]), (1, hreg [1]), (2, hreg [2, 3]), (3, hreg [4, 5]), (4, hreg [8, 9, 10, 11]), (5, hreg [12, 13, 14, 15]), (6, hreg [6]), (7, hreg [7])] })
def mmaT : FmtX := fx 0 (.v 0) (.h 0) (.h 1) (.v 0) 0 5 5 0 0
def mmasT : FmtX := fx 0 (.h 7) (.h 0) (.h 1) (.h 6) 0 5 5 0 0
def mma64T : FmtX := fx 0 (.v 0) (.h 0) (.h 1) (.v 0) 0 15 15 0 0
def mmaiT : FmtX := fx 0 (.v 0) (.h 2) (.h 3) (.v 0) 0 0 0 0 5
def aczT : FmtX := fx 0 (.v 0) (.v 0) (.v 0) (.v 0) 0 0 0 0 0
def acstT : FmtX := fx 0 (.h 0) (.v 0) (.v 0) (.v 0) 0 14 14 0 64
def acthT : FmtX := fx 0 (.h 0) (.v 0) (.v 0) (.v 0) 0 5 14 0 0
def cvtbT : FmtA := fa 0 (.h 1) (.h 0) (.v 0) (.v 0) .s32 0x2A800
def bsclT : FmtA := fa 0 (.h 0) (.h 4) (.h 5) (.v 0) .s32 0x6000

/-- `EngineCommands`: each command issues, and a copy of sixteen values a line from column 16 is in range (R232). -/
theorem witness_engineCommands : ∀ i ∈ ([.mma mmaT, .mmas mmasT, .mma64 mma64T, .mmai mmaiT, .acz aczT, .acst acstT, .acth acthT, .cvtb cvtbT, .bscl bsclT] : List Instr),
    ∃ u c r g op token org, Issues (armed (placed i)) i u c r g ∧ commandOf i (armed (placed i)) c op token org := by
  have h : ∀ i ∈ ([.mma mmaT, .mmas mmasT, .mma64 mma64T, .mmai mmaiT, .acz aczT, .acst acstT, .acth acthT, .cvtb cvtbT, .bscl bsclT] : List Instr),
      issuing (armed (placed i)) i (fun _ c _ _ => (c.slots (.h 0)).length == 1) = true := by decide +kernel
  intro i hi
  obtain ⟨u, c, r, g, a, b⟩ := issuing_spec (h i hi)
  have hb : (c.slots (.h 0)).length = 1 := by simpa using b
  simp only [List.mem_cons, List.not_mem_nil, or_false] at hi
  rcases hi with rfl | rfl | rfl | rfl | rfl | rfl | rfl | rfl | rfl
  case' inr.inr.inr.inr.inr.inl => exact ⟨u, c, r, g, _, _, _, a, rfl, rfl, rfl, fun _ => by
    show _ + Claims.lineOf 14 (c.slots (.h 0)).length ≤ _
    rw [hb]
    decide⟩
  case' inr.inr.inr.inr.inr.inr.inl => exact ⟨u, c, r, g, _, _, _, a, rfl, rfl, rfl, fun h => absurd h (by decide)⟩
  all_goals exact ⟨u, c, r, g, _, _, _, a, rfl, rfl, rfl⟩

def mmabT : Instr := .mmab (fx 0 (.v 0) (.h 0) (.h 1) (.s 20) 0 5 5 0 0)
/-- `EngineCommands`: engine 0 broadcasts to itself; and a word that does not name the group's engine as a member. -/
theorem witness_broadcast : ∀ p ∈ [((1 : Nat), false), (2, true)],
    issuing (pairs [(20, BitVec.ofNat 64 p.1)] (armed (placed mmabT))) mmabT (fun u c _ _ =>
      (pairs [(20, BitVec.ofNat 64 p.1)] (armed (placed mmabT))).bcIllegal u.core u.quad (c.sval 2 (.s 20)) true == p.2) = true := by decide +kernel

/-- `EngineEvents`: an `ACZ` that began in cycle `b` of quadrant 0, with origin 1. -/
def aczCmd (begun : Nat) (read : Bool) : EngineCmd :=
  { op := .acz, seat := 0, uid := 0, lgid := 0, pc := 0, csn := 1, org := some 1, issued := 0, tids := List.range 32, begun := some begun, d := 16, src := none, bad := false, read := read, cells := [], tiles := [] }
def working (x : EngineCmd) (now : Nat) : State :=
  (onCore (placed ldT) (fun k => { k with quads := mmod k.quads 0 (fun q => { q with engine := [x], origins := [(1, { Origin.blank with cells := [(5, 7)], pending := 1 })] }) })).modOwner 0
    (fun o => { o with oclk := now })

/-- In cycle b + 15 what it writes is fixed; at the end of cycle b + 18 its cells are zero. -/
theorem test_engineTimes : (working (aczCmd 100 false) 115).now 0 = 115 ∧ (aczCmd 100 false).sparseBad ((working (aczCmd 100 false) 115).core 0) = false
    ∧ (match exec (.engineReadMarkClear 0 0) (working (aczCmd 100 false) 115) with | .next t => ((t.core 0).quad 0).engine.all (fun x => x.read) | _ => false) = true
    ∧ (match exec (.engineReadMarkClear 0 0) (working (aczCmd 100 false) 114) with | .next t => ((t.core 0).quad 0).engine.all (fun x => !x.read) | _ => false) = true
    ∧ (match exec (.engineCommandCompletion 0 0) (working (aczCmd 100 true) 119) with | .next t => ((t.core 0).quad 0).engine.isEmpty && cell t 0 0 1 0 5 == 0 | _ => false) = true
    ∧ (match exec (.engineCommandCompletion 0 0) (working (aczCmd 100 true) 118) with | .next t => cell t 0 0 1 0 5 == 7 | _ => false) = true := by decide +kernel

def acrdT (w : BitVec 16) : Instr := .acrd (fx 0 (.v 8) (.v 4) (.v 0) (.v 0) 0 0 0 0 w)
def acwrT (w : BitVec 16) : Instr := .acwr (fx 0 (.v 0) (.v 4) (.v 8) (.v 0) 0 0 0 0 w)
def cells (s : State) : State := onCore s (fun k => { k with quads := mmod k.quads 0 (fun q => { q with origins := [(1, { Origin.blank with cells := [(130, 7), (131, 8)] })] }) })

/-- A value, not zero, in a register of every lane. -/
def allLanes (k : Nat) (w : Word) (g : Group) : Group := { g with vregs := (List.range 32).map (fun l => (1024 * l + k, w)) }

/-- `SingleCells`: row 1, columns 2 and 3, read and written, and as the pair 1 of `.64`. -/
theorem test_singleCells : gives (grp (cells (armed (placed (acrdT 0)))) (allLanes 4 130)) (acrdT 0) (fun t => of t (fun g => g.vreg 8 0 == 7))
    && gives (grp (cells (armed (placed (acrdT 1)))) (allLanes 4 129)) (acrdT 1) (fun t => of t (fun g => g.vreg 8 0 == 7 && g.vreg 9 0 == 8))
    && gives (grp (grp (cells (armed (placed (acwrT 0)))) (allLanes 4 130)) (fun g => g.setVreg 8 31 9)) (acwrT 0) (fun t => cell t 0 0 1 1 2 == 9 && cell t 0 0 1 1 3 == 8) = true := by
  decide +kernel

/-! Solve regions -/

/-- `SOLB 1, s4, 1, 1`: x is h0 and g is h1. -/
def solbT : FmtX := fx 0 (.v 0) (.s 4) (.v 0) (.v 0) 0 0 0 0 1
def soleT : Instr := .sole (fx 0 (.v 0) (.v 0) (.v 0) (.v 0) 0 0 0 0 1)
def solxT : Instr := .solx (fx 0 (.v 0) (.v 0) (.v 0) (.v 0) 0 0 0 0 1)
def solqT (k : BitVec 16) : Instr := .solq (fx 0 (.s 20) (.v 0) (.v 0) (.v 0) 0 0 0 0 (1 + 4 * k))
def solhT (k : BitVec 16) : Instr := .solh (fx 0 (.h 0) (.v 0) (.v 0) (.v 0) 0 0 0 0 (1 + k))

/-- Region 1 of the team, open, its one participant the group in seat 0 with x in h0 and g in h1, m = 1, and one entry in its history. -/
def region1 : Region :=
  { regionOf (List.range 32) with
    it := 3, best := 5, last := 6, nc := 1, m := 1, hist := [0],
    parts := [{ core := 0, lgid := 0, seat := 0, uid := 0, tids := List.range 32, xh := [0], gh := [1], counts := [1], history := [[20, 21]], arrived := none, pc := 0 }] }
def solving (s : State) : State := onTeam (armed s) (fun t => { t with regions := [(1, region1)] })

theorem witness_solb :
    (∃ u c r g, Issues (grp (armed (placed (.solb solbT))) (sset' [(4, 0x10000)])) (.solb solbT) u c r g ∧ (g.fpe = [] ∧ c.g.handling = none
      ∧ (∀ k, k < 4 → ncOf solbT ≤ k → nibble (c.sval32 solbT.a) k = 0 ∧ nibble (c.sval32 solbT.a) (4 + k) = 0) ∧ (xhOf c solbT ++ ghOf c solbT).Nodup
      ∧ (∀ k, k < ncOf solbT → (c.g.handle (nibble (c.sval32 solbT.a) k)).live = true ∧ (c.g.handle (nibble (c.sval32 solbT.a) (4 + k))).live = true
        ∧ (c.g.handle (nibble (c.sval32 solbT.a) (4 + k))).slots.length = (c.g.handle (nibble (c.sval32 solbT.a) k)).slots.length)
      ∧ (grp (armed (placed (.solb solbT))) (sset' [(4, 0x10000)])).solbHeld u.core 1 false = false
      ∧ ((grp (armed (placed (.solb solbT))) (sset' [(4, 0x10000)])).regionAt u.core 1 false).isNone = true
      ∧ (historyNeed c solbT).sum ≤ ((grp (armed (placed (.solb solbT))) (sset' [(4, 0x10000)])).core u.core).openSlots))
    ∧ issuing (grp (solving (placed (.solb solbT))) (sset' [(4, 0x10000)])) (.solb solbT) (fun u _ _ _ =>
        (grp (solving (placed (.solb solbT))) (sset' [(4, 0x10000)])).solbHeld u.core 1 false) = true
    ∧ issuing (onCore (grp (armed (placed (.solb solbT))) (sset' [(4, 0x10000)])) (fun k => { k with slots := (List.range 32).map (fun n => slot n (.handle 0 n)) })) (.solb solbT)
        (fun u c _ _ => decide (((onCore (grp (armed (placed (.solb solbT))) (sset' [(4, 0x10000)])) (fun k =>
          { k with slots := (List.range 32).map (fun n => slot n (.handle 0 n)) })).core u.core).openSlots < (historyNeed c solbT).sum)) = true :=
  ⟨meets (fun _ _ _ _ => by infer_instance) (by decide +kernel), by decide +kernel, by decide +kernel⟩

/-- `SolveBegins`, `SolveReads`: the group takes part in region 1, and its handles stand as it began. -/
theorem witness_solving : ∀ i ∈ [soleT, solxT, solqT 0, solqT 1, solqT 2, solqT 3, solhT 0, solhT 0x10],
    ∃ u c r g, Issues (solving (placed i)) i u c r g ∧ (g.fpe = [] ∧ c.g.handling = none ∧ (solving (placed i)).findRegion c.core 1 = some (false, region1)
      ∧ region1.parts.find? (fun q => q.core == c.core && q.lgid == (solving (placed i)).lgid c.core c.seat) = region1.parts.head?
      ∧ ∀ p ∈ region1.parts, (∀ h ∈ p.xh.zip p.counts ++ p.gh.zip p.counts, (c.g.handle h.1).live = true ∧ (c.g.handle h.1).slots.length = h.2)
          ∧ p.counts[0]? = some (c.g.handle 0).slots.length ∧ (c.g.handle 0).slots.Nodup) := by
  intro i hi
  simp only [List.mem_cons, List.not_mem_nil, or_false] at hi
  rcases hi with rfl | rfl | rfl | rfl | rfl | rfl | rfl | rfl <;> exact meets (fun _ _ _ _ => by infer_instance) (by decide +kernel)

/-- A group that is no participant, and a region never opened. -/
theorem witness_noRegion : ∀ i ∈ [soleT, solxT, solqT 1], issuing (armed (placed i)) i (fun u _ _ _ => ((armed (placed i)).findRegion u.core 1).isNone) = true := by decide +kernel

/-- `SolveStepEnd`: a step that began in cycle 0 and takes 10 cycles, in cycle 8 and in cycle 9; it mixed, or came to its ceiling. -/
def stepping (st now : Nat) : State :=
  (onTeam (armed (grp (placed soleT) (fun g => { g with wait := some (.solve 1 1 false), trapv := 0x3C0 })))
    (fun t => { t with regions := [(1, { region1 with step := some { r := 0, t := 10, st := st, it := 4, best := 5, last := 7, hist := [0], writes := [(0, [(3, 9)])] } })] })).modOwner 0
    (fun o => { o with oclk := now })

theorem witness_solveStep : ∀ p ∈ [(1, 8, false), (1, 9, true), (3, 9, true)],
    ((stepping p.1 p.2.1).regionAt 0 1 false).map (fun x => (x.step.isSome, (stepping p.1 p.2.1).stepDue 0 x, x.parts.all (fun q =>
      ((stepping p.1 p.2.1).partGroup q).map (fun g => g.handling == none) == some true))) = some (true, p.2.2, true) := by decide +kernel

/-- R237: a step that mixed takes the group to the start of the region with x as computed; one at its ceiling is the trap SOLVE-NC. -/
theorem test_solveStep : ∀ p ∈ [((1 : Nat), 0, 0), (3, 0x3C0, 0x10106)],
    (match exec (.solveStepCompletion { owner := 0, cluster := none, core := 0, sid := 1 }) (stepping p.1 9) with
      | .next t => tileWord t 0 0 3 == 9 && of t (fun g => g.pc == p.2.1 && g.trapc.toNat % 65536 == p.2.2 % 65536) | _ => false) = true := by decide +kernel

/-! System instructions -/

def mfsT (n : BitVec 12) : Instr := .mfs (fs 0 (.v 4) (.v 0) (.v 0) n 0)
def mtsT (n : BitVec 12) : Instr := .mts (fs 0 (.v 0) (.s 6) (.v 0) n 0)
def mtspT (n : BitVec 12) : Instr := .mtsp (fs 0 (.s 1) (.s 6) (.v 0) n 0)
def privileged (s : State) : State := onGrid s (fun x => { x with packet := { x.packet with priv := true } })

/-- `SpecialReads`: one register of each kind issues; `TID` and `LANE` by lanes. -/
theorem test_specialReads : (∀ n ∈ [0x000, 0x003, 0x011, 0x025, 0x040, 0x050, 0x055], issuesNow (placed (mfsT n)) (mfsT n) = true)
    ∧ gives (placed (mfsT 0x012)) (mfsT 0x012) (fun t => of t (fun g => g.vreg 4 0 == 0 && g.vreg 4 31 == 31)) = true
    ∧ gives (placed (mfsT 0x042)) (mfsT 0x042) (fun t => of t (fun g => g.vreg 4 0 == 51)) = true
    ∧ gives (placed (mfsT 0x006)) (mfsT 0x006) (fun t => of t (fun g => g.vreg 4 0 == 0xFFFFFFFF)) = true := by decide +kernel

/-- `SpecialWrites`: `TRAPV` keeps its low 53 bits; a privileged write that is accepted, one that is refused, and one without privilege. -/
theorem test_specialWrites :
    gives (pairs [(6, 0xFFFFFFFFFFFFFFFF)] (placed (mtsT 0x030))) (mtsT 0x030) (fun t => of t (fun g => g.trapv == 0x1FFFFFFFFFFFFF)) = true
    ∧ gives (pairs [(6, sp0 + 17)] (privileged (placed (mtspT 0x040)))) (mtspT 0x040) (fun t => of t (fun g => g.segsp == sp0 + 17 && g.sreg 1 == 0)) = true
    ∧ gives (pairs [(6, sp0 + 16)] (privileged (placed (mtspT 0x040)))) (mtspT 0x040) (fun t => of t (fun g => g.segsp == 0 && g.sreg 1 == 1)) = true
    ∧ issuing (placed (mtspT 0x041)) (mtspT 0x041) (fun u _ _ _ => !(placed (mtspT 0x041)).priv u.core) = true := by decide +kernel

def acqT : Instr := .acq (fs 0 (.v 0) (.v 0) (.v 0) 0 (3 + 64 * 4 + 2048 * 1))
def relaT : Instr := .rela (fs 0 (.v 0) (.v 0) (.v 0) 0 0)
def rdocT : Instr := .rdoc (fs 0 (.s 4) (.v 0) (.v 0) 0 0)

/-- `Allotment`: a rise to 24 registers, 4 handles and an origin; the prologue's figures again; the owner's clock; and a request that stands alone. -/
theorem test_allotment :
    gives (placed acqT) acqT (fun t => of t (fun g => g.allot == 24 && g.hperm == 4 && g.origins == [0])) = true
    ∧ gives (armed (placed relaT)) relaT (fun t => of t (fun g => g.allot == 16 && g.hperm == 2 && g.origins.isEmpty && !(g.handle 2).live)) = true
    ∧ issuesNow (placed rdocT) rdocT = true
    ∧ (match exec (.allotmentGrant 0) (onCore (placed acqT) (fun k => { k with demands := [{ seat := 1, lgid := 4, since := 0, regs := 8, orgs := 0, slots := 0, handle := 0, granted := false }] })) with
      | .next t => (t.core 0).demands.all (fun d => d.granted) | _ => false) = true := by decide +kernel

def trapT : Instr := .trap (fs 0 (.v 0) (.v 0) (.v 0) 0 0x42)
def rftT : Instr := .rft (fs 0 (.v 0) (.v 0) (.v 0) 0 0)
def handler (v : DWord) (s : State) : State := grp s (fun g => { g with trapv := v })
def handling (s : State) : State := grp s (fun g => { g with handling := some { preHandling with resume := 36, pre := false } })

/-- `Traps`: taken, nested, and without a handler; a return, and one outside a handler. -/
theorem test_traps :
    (∀ p ∈ [(trapT, handler 0x3C0 (placed trapT)), (trapT, handling (placed trapT)), (trapT, placed trapT), (rftT, handling (placed rftT)), (rftT, placed rftT)],
      issuing p.2 p.1 (fun u _ _ g => u.snap.isNone && u.quad == u.seat / 16 && g.fpe.isEmpty) = true)
    ∧ gives (handler 0x3C0 (placed trapT)) trapT (fun t => of t (fun g => g.pc == 0x3C0 && g.trapc == 7 && g.trapa == 0x42 && g.trapm == 0xFFFFFFFF
        && g.handling.map (fun h => h.resume) == some 12)) = true
    ∧ gives (handling (placed rftT)) rftT (fun t => of t (fun g => g.pc == 36 && g.handling.isNone)) = true
    ∧ gives (placed trapT) trapT (fun t => (t.core 0).faults.map (fun h => h.cause) == [0x31]) = true := by decide +kernel

def haltT : Instr := .halt (fs 0 (.v 0) (.v 0) (.v 0) 0 5)
def snapT : Instr := .snap (fs 0 (.v 0) (.v 0) (.v 0) 0 9)
def dbgT : Instr := .dbg (fs 0 (.v 0) (.v 0) (.v 0) 0 3)
def debugging (s : State) : State := onGrid s (fun x => { x with packet := { x.packet with dbg := true } })

/-- `Halts`: `HALT`; `SNAP`, alone and with a latch due; `DBG` without the grid's flag and with it. -/
theorem test_halts : gives (placed haltT) haltT (fun t => (t.core 0).faults.map (fun h => (h.cause, h.addr)) == [(0x2B, 5)]) = true
    ∧ gives (placed snapT) snapT (fun t => (t.owner 0).snap == [(32, 9, 0)]) = true
    ∧ gives ((placed snapT).modOwner 0 (fun o => { o with snap := [(20, 1, 0)] })) snapT (fun t => (t.owner 0).snap == [(20, 1, 0)]) = true
    ∧ gives (placed dbgT) dbgT (fun t => of t (fun g => g.wait.isNone)) = true
    ∧ gives (debugging (placed dbgT)) dbgT (fun t => of t (fun g => g.wait == some .debug) && ((ringWaits t 0 4).map List.length) == [64]) = true := by decide +kernel

def tradeT : Instr := .trade (fs 0 (.s 4) (.s 5) (.s 6) 0 0)
def tradeaT : Instr := .tradea (fs 0 (.s 4) (.s 5) (.s 6) 0 0)
/-- Owners 0 and 1 are admitted; owner 0 has entries 0 and 1 of the next session's table, and offers of owner 1 stand. -/
def trading (xs : List Offer) (s : State) : State :=
  let s := (privileged s).modOwner 1 (fun o => { o with admitted := true })
  { s with mgmt := { s.mgmt with nextTable := 0xFFFFFFFFFFFFFF00, offers := xs } }

/-- `Trades`: an offer of entry 1; the last entry of an owner, refused with 5; an acceptance; one of no offer, refused with 6; one without privilege, refused with 1. -/
theorem test_trades :
    gives (grp (trading [] (placed tradeT)) (sset' [(5, 1), (6, 2)])) tradeT (fun t => of t (fun g => g.sreg 4 == 0) && t.mgmt.offers.map (fun x => (x.from_, x.dest, x.mask)) == [(0, 1, 2)]) = true
    ∧ gives (grp (trading [] (placed tradeT)) (sset' [(5, 1), (6, 3)])) tradeT (fun t => of t (fun g => g.sreg 4 == 5) && t.mgmt.offers.isEmpty) = true
    ∧ gives (grp (trading [{ from_ := 1, dest := 0, mask := 4, at_ := 0 }] (placed tradeaT)) (sset' [(5, 1), (6, 4)])) tradeaT
        (fun t => of t (fun g => g.sreg 4 == 0) && t.mgmt.offers.isEmpty && t.mgmt.accepted.length == 1) = true
    ∧ gives (grp (trading [] (placed tradeaT)) (sset' [(5, 1), (6, 4)])) tradeaT (fun t => of t (fun g => g.sreg 4 == 6)) = true
    ∧ gives (grp (placed tradeT) (sset' [(5, 1), (6, 2)])) tradeT (fun t => of t (fun g => g.sreg 4 == 1)) = true := by decide +kernel

def launchT : Instr := .launch (fs 0 (.s 3) (.s 20) (.v 0) 0 0)
def signalT : Instr := .signal (fs 0 (.v 0) (.s 2) (.v 0) 0 5)
def evwaitT : Instr := .evwait (fs 0 (.v 0) (.s 2) (.v 0) 0 5)

/-- `Launches`: a packet that is aligned and one that is not; a signal; a wait for event 5 at its threshold, and one below it, which does not issue. -/
theorem witness_launches :
    issuing (pairs [(20, 128)] (placed launchT)) launchT (fun _ c _ _ => fitsB (pairs [(20, 128)] (placed launchT)) c [(c.lane0, c.sval 2 (.s 20))] 128 false
      && permittedB (pairs [(20, 128)] (placed launchT)) c [(c.lane0, c.sval 2 (.s 20))] false) = true
    ∧ issuing (pairs [(20, 64)] (placed launchT)) launchT (fun _ c _ _ => (c.sval 2 (.s 20)).toNat % 128 != 0) = true
    ∧ gives (grp (placed signalT) (sset' [(2, 7)])) signalT (fun t => sget 0 (t.owner 0).events 5 == 7) = true
    ∧ issuesNow (placed evwaitT) evwaitT = true ∧ issuesNow (grp (placed evwaitT) (sset' [(2, 1)])) evwaitT = false
    ∧ packetOk (List.replicate 128 0) true = false := by decide +kernel

/-! Events -/

/-- The outcome is a next state as tested. -/
def nextIs (o : Host.Outcome State Fault Refusal) (p : State → Bool) : Bool := match o with | .next t => p t | _ => false

/-- The owner clock of owner 0, and the device's cycle. -/
def clocked (n : Nat) (s : State) : State := { s.modOwner 0 (fun o => { o with oclk := n }) with cycle := n }

/-- A fill with 0xAB of 64 bytes of the scratchpad whose one piece is due; and the same copy with its write done. -/
def filling (done : Nat) (n : Nat) : State :=
  clocked n (onCore (windows (placed ldT)) (fun k => { k with quads := mmod k.quads 0 (fun q => { q with copies := [{ copyOne true with
    src := .pattern 0xABABABAB, done := done, writePos := done, data := if done = 0 then [{ pos := 0, leaf := none, bytes := [], ready := 0, bad := none, fail := none }] else [] }] }) }))

/-- `CopyEvents`: a due piece and its write; nothing due; a copy that is complete; a slot request that stands alone. -/
theorem test_copyEvents :
    (filling 0 10).now 0 = 10 ∧ (((filling 0 10).core 0).copyWriteDue 0 10).isSome = true ∧ (((filling 0 10).core 0).copyWriteDue 0 1).isNone = true
    ∧ ((copyOne true).piece 0 = 64) ∧ ((filling 0 10).raceWrite 0 { copyOne true with src := .pattern 0xABABABAB, done := 0, writePos := 0 } 0 64).2 = (64, none)
    ∧ nextIs (exec (.copyLineWrite 0 0) (filling 0 10)) (fun t => (t.core 0).sp.read 0 == 0xAB && (t.core 0).sp.read 63 == 0xAB && (t.core 0).sp.read 64 == 0) = true
    ∧ ((filling 64 10).core 0).copyDue 0 10 = true
    ∧ nextIs (exec (.copyCompletion 0 0) (filling 64 10)) (fun t => ((t.core 0).quad 0).copies.isEmpty && ((t.core 0).quad 0).done.map (fun e => (e.seq, e.bytes)) == [(1, 64)]) = true
    ∧ nextIs (exec (.hallocGrant 0) (onCore (placed ldT) (fun k => { k with demands := [{ seat := 1, lgid := 4, since := 0, regs := 0, orgs := 0, slots := 4, handle := 0, granted := false }] })))
      (fun t => (t.core 0).demands.all (fun d => d.granted)) = true := by decide +kernel

/-- A load of the group whose line stands at `st`. -/
def leaf0 : Leaf := { tgt := 0, dev := 0, frame := 0, bits := 15, rmf := false, untr := false, shrd := false, x := false, w := true }
def lineReq (st : LineState) : LineReq := { addr := 0, va := 0, leaf := leaf0, st := st, hit := false, fill := true, performed := false, bytes := List.replicate 128 7 }
def loadOp (ps : List PageState) (ls : List LineState) : MemOp :=
  { storeOp with kind := .load false false false, dst := some (.v 8), pages := ps.map (fun p => { vpn := 0, lane := 0, va := 0, st := p }), lines := ls.map lineReq,
                 acc := [{ lane := 0, ga := 0, va := 0, bytes := 4, data := [], cmp := [], res := [], bad := false }] }
def inFlight (ps : List PageState) (ls : List LineState) (n : Nat) : State :=
  clocked n (paged (onCore (placed ldT) (fun k => { k with ops := [(7, loadOp ps ls)], nextOp := 8 })))

/-- `MemoryEvents`: a request at its slice, one at its controller, a fill, a page at the L2 TLB, a page to be merged; owner 0 owns the cycle where the table says so. -/
def ownedBy0 (s : State) : State := { s with mgmt := { s.mgmt with table := 0 } }
theorem test_memoryEvents :
    (ownedBy0 (inFlight [.done leaf0] [.atSlice 8] 10)).owned 0 = true ∧ (inFlight [.done leaf0] [.atSlice 8] 10).owned 0 = false
    ∧ (leastBy (fun x => x.1) ((ownedBy0 (inFlight [.done leaf0] [.atSlice 8] 10)).sliceQueue 0 0 0)).isSome = true
    ∧ nextIs (exec (.l2SliceService 0 0 0) (ownedBy0 (inFlight [.done leaf0] [.atSlice 8] 10))) (fun t => ((t.op? 0 7).map (fun o => o.lines.map (fun r => r.st)) == some [.atHbm 14])) = true
    ∧ ((ownedBy0 (inFlight [.done leaf0] [.atHbm 8] 10)).hbmQueue 0 0).length = 1 ∧ (ownedBy0 (inFlight [.done leaf0] [.atHbm 8] 10)).hbmFree 0 0 = true
    ∧ nextIs (exec (.hbmAccessBegin 0 0 (lineReqId 0 7 0)) (ownedBy0 (inFlight [.done leaf0] [.atHbm 8] 10)))
      (fun t => ((t.op? 0 7).map (fun o => o.lines.map (fun r => r.st)) == some [.filling 78]) && t.hbm.length == 1) = true
    ∧ nextIs (exec (.hbmLineFill (lineReqId 0 7 0)) (inFlight [.done leaf0] [.filling 10] 10)) (fun t => (t.op? 0 7).map (fun o => o.lines.map (fun r => r.st)) == some [.back 18]) = true
    ∧ ((ownedBy0 (inFlight [.atTlb 8] [] 10)).allPages 0 0).length = 1
    ∧ nextIs (exec (.l2TlbLookup 0 0) (ownedBy0 (inFlight [.atTlb 8] [] 10))) (fun t => (t.op? 0 7).map (fun o => o.pages.map (fun p => p.st)) == some [.walking] && t.walks.length == 1) = true
    ∧ ((ownedBy0 (inFlight [.toMerge 8 1] [] 10)).mergeQueue 0 0).length = 1
    ∧ nextIs (exec (.mergeTableInsert 0 0) (ownedBy0 (inFlight [.toMerge 8 1] [] 10))) (fun t => ((t.owner 0).die 0).merge.map (fun e => (e.vpn, e.waiters)) == [(0, [(0, 7)])]) = true := by
  decide +kernel

/-- A walk of that load at level 1 whose step ends in cycle 10: its entry holds a table, or a leaf. -/
def walkingAt (entry : Nat) : State :=
  let s := inFlight [.walking] [] 10
  { s with mem := s.mem.writeN 0 (leBytes 8 entry), walks := [{ owner := 0, die := 0, walker := 0, core := 0, op := 7, vpn := 0, level := 1, table := 0, from_ := 0, arr := none, ends := some 10 }] }
theorem test_walkSteps :
    nextIs (exec (.walkStep 0) (walkingAt 0x8001)) (fun t => t.walks.map (fun w => (w.level, w.table, w.ends)) == [(2, 0x8000, none)]) = true
    ∧ nextIs (exec (.walkStep 0) (walkingAt 3)) (fun t => (t.op? 0 7).map (fun o => o.pages.map (fun p => match p.st with | .answer n l => (n, l.bits, l.w) | _ => (0, 0, false))) == some [(14, 39, false)]) = true := by
  decide +kernel

/-- `CoreEvents`: a code line that arrives, the last answer of a load, and drains by age, due and not due. -/
def fetchOp : MemOp := { loadOp [.done leaf0] [.back 10] with kind := .fetch 0, dst := none, acc := [] }
def coming (o : MemOp) : State := clocked 10 (onCore (placed ldT) (fun k => { k with ops := [(7, o)], nextOp := 8 }))
def wcE : WcEntry := { line := 0, leaf := leaf0, mask := [], ops := [], born := 36, region := none }
def buffered (n : Nat) : State := clocked n (onCore (placed ldT) (fun k => { k with wc := [wcE] }))
def remoteE : RwcEntry := { dev := 3, line := 0, leaf := { leaf0 with tgt := 2, dev := 3 }, mask := [], ops := [], born := 0 }

theorem test_coreEvents :
    nextIs (exec (.lineFetchArrival 0 7) (onCore (coming fetchOp) (fun k => k.modGroup 0 (fun g => { g with lines := [{ line := 0, ready := none, op := some 7, bytes := [], again := false, checked := false, next := false }] }))))
      (fun t => of t (fun g => g.lines.map (fun l => (l.ready, l.op, l.bytes.length)) == [(some 11, none, 64)])) = true
    ∧ ((coming { loadOp [] [.done] with acc := [] }).op? 0 7).map (fun o => o.answered 10) = some true
    ∧ nextIs (exec (.wcAgeDrain 0 0) (buffered 100)) (fun t => (t.core 0).wc.isEmpty && (t.core 0).ops.any (fun p => p.2.kind == .drain [] [] none)) = true
    ∧ nextIs (exec (.wcAgeDrain 0 0) (buffered 99)) (fun t => (t.core 0).wc == [wcE]) = true
    ∧ nextIs (exec (.remoteWcAgeDrain 0 3 0) (clocked 2048 (onCore (placed ldT) (fun k => { k with rwc := [remoteE] })))) (fun t => (t.core 0).rwc.isEmpty) = true := by decide +kernel

/-- `AdmissionEvents`: a grid of one team of two groups, and a free core; a grid that has ended; a deck of two threads at one PC and a free seat. -/
def twoGroups : Packet := { placePacket with groups := 2, entry := 0x40, srseed := 9 }
def admitting : State :=
  clocked 8 ((State.reset.modOwner 0 (fun o =>
    { o with admitted := true, resident := true, assigned := [5], held := [5], grids := [Grid.new 0 twoGroups], nextGrid := 1 })).setCore 5 (Core.assigned 0 0))
def ended : State := onGrid (placed ldT) (fun x => { x with ended := 1, packet := { x.packet with cevent := 3 } })
def deckRec (tid : Nat) : DeckRec :=
  { pc := 0x40, tid := tid, l := 2, bud := 16, jmask := 0, jn := 0, jwait := false, tcheck := false, stamp := 0, regs := [5, BitVec.ofNat 32 tid], overflow := false, trapv := 0, lgid := 0,
    segs := (0, 0, 51), bundle := none, due := true }
def dealing : State := clocked 64 (onCore (onTeam (placed ldT) (fun t => { t with threads := 2, deck := [deckRec 1, deckRec 0] })) (fun k => { k with seats := [] }))

theorem test_admissionEvents :
    (admitting.nextAdmission 0).map (fun p => p.2) = some [5]
    ∧ nextIs (exec (.teamAdmission 0) admitting) (fun t => ((t.group? 5 16).map (fun g => (g.pc, g.allot, g.tid 0)) == some (0x40, 16, 32)) && (t.core 5).team.map (fun m => m.srseed) == some 9) = true
    ∧ (placed ldT).nextAdmission 0 = none
    ∧ nextIs (exec (.gridCompletion 0 0) ended) (fun t => (t.owner 0).grids.isEmpty && sget 0 (t.owner 0).events 3 == 1) = true
    ∧ nextIs (exec (.gridCompletion 0 0) (placed ldT)) (fun t => (t.owner 0).grids.length == 1) = true := by decide +kernel

theorem test_deal : dealing.dealDue 0 = true ∧ dealing.cutDue 0 = false ∧ dealing.det 0 = false ∧ (dealing.core 0).freeSeat.isSome = true
    ∧ ((dealing.takeUp 0).dealable 0).map (fun d => (d.recs.map (fun x => x.tid), ((dealing.takeUp 0).core 0).dealGranted d)) = [([0, 1], true)]
    ∧ nextIs (exec (.deal 0) dealing) (fun t => ((t.core 0).freeSeat != (dealing.core 0).freeSeat) && (t.core 0).groups.any (fun p => p.2.pc == 0x40 && p.2.vreg 1 1 == 1)) = true := by decide +kernel

/-- `TurnEvents`: the boundary of a round and of a session, one of each cycle that is none; a trade that fits; a tick, a snapshot, and the slowdown. -/
def bounded (n : Nat) : State :=
  let s := { trading [] (placed ldT) with cycle := n }
  { (s.modOwner 0 (fun o => o.modDie 0 (fun d => { d with pool := { cap := 8, refill := 3, next := 5, level := 7 } }))) with
    mgmt := { s.mgmt with accepted := [{ from_ := 0, dest := 1, mask := 2, at_ := 0 }], trigger := true } }

theorem test_turnEvents :
    nextIs (exec .roundBoundary (bounded 64)) (fun t => !t.mgmt.trigger && ((t.owner 0).die 0).pool.level == 8) = true
    ∧ nextIs (exec .roundBoundary (bounded 65)) (fun t => t.mgmt.trigger) = true
    ∧ nextIs (exec .sessionBoundary (bounded 65536)) (fun t => t.mgmt.table == 0xFFFFFFFFFFFFFF10 && ((t.owner 0).die 0).pool.refill == 5 && t.mgmt.accepted.isEmpty) = true
    ∧ nextIs (exec .sessionBoundary (bounded 65537)) (fun t => t.mgmt.accepted.length == 1) = true
    ∧ ((clocked 1024 (placed ldT)).modOwner 0 (fun o => { o with record := { o.record with tick := 10 } })).tickDue 0 = true
    ∧ nextIs (exec (.globalTick 0) ((clocked 1024 (placed ldT)).modOwner 0 (fun o => { o with record := { o.record with tick := 10 } }))) (fun t => !(ringWaits t 0 3).isEmpty) = true
    ∧ nextIs (exec (.snapshotLatch 0) ((clocked 40 (placed ldT)).modOwner 0 (fun o => { o with snap := [(32, 9, 0)] }))) (fun t => (t.owner 0).snap.isEmpty && !(ringWaits t 0 3).isEmpty) = true
    ∧ nextIs (exec .clockRestore { (placed ldT) with cycle := 65536, mgmt := { (placed ldT).mgmt with slow := true, cleared := some 0, gtime := 1000000 } }) (fun t => !t.mgmt.slow) = true
    ∧ nextIs (exec .clockRestore { (placed ldT) with cycle := 65536, mgmt := { (placed ldT).mgmt with slow := true, cleared := some 0, gtime := 999999 } }) (fun t => t.mgmt.slow) = true := by
  decide +kernel

/-- `SwitchEvents`: owner 0 goes out at the cut-off, and comes back. -/
def switching (cut : Bool) (n : Nat) : State :=
  let s := { placed ldT with cycle := n, mgmt := { (placed ldT).mgmt with switch := some { out := if cut then none else some 0, inc := if cut then some 0 else none, cores := if cut then [0] else [], start := 0, width := 40960, delivered := true, cut := cut } } }
  if cut then { (s.modOwner 0 (fun o => { o with resident := false, held := [], saved := s.cores })) with cores := [] } else s

theorem test_switchEvents : ((switching false 8192).cores.map Prod.fst).Nodup
    ∧ nextIs (exec .switchCutoff (switching false 8192)) (fun t => !(t.owner 0).resident && (groupIn (t.owner 0).saved 0 0).isSome && (t.group? 0 0).isNone) = true
    ∧ nextIs (exec .switchCutoff (switching false 8191)) (fun t => (t.owner 0).resident) = true
    ∧ nextIs (exec .switchResume (switching true 40960)) (fun t => (t.owner 0).resident && (t.group? 0 0).isSome && t.mgmt.switch.isNone) = true
    ∧ nextIs (exec .switchResume (switching true 40959)) (fun t => t.mgmt.switch.isSome) = true := by decide +kernel

def mmxHeld : HeldMmx := { issued := 0, order := 0, raised := 0, copy := false, info := { cause := 4, sub := 1, addr := 0x80, mask := 2, lane := 1 } }
def stopped (dumped : Bool) (n : Nat) : State :=
  clocked n (onCore (placed ldT) (fun k => { k with halt := some { cycle := 3, cause := 0x2B, sub := 0, pc := 12, csn := 5, lgid := 0, addr := 7, dev := none, byCluster := false, drained := some 9, dumped := dumped } }))
def ringed (room : Bool) : State :=
  let s := (placed ldT).modOwner 0 (fun o => { o with rings := [(2, { pi := if room then 3 else 300, drop := false, waiting := [List.replicate 64 1] })], record := { o.record with errlog := 0x1000 } })
  { s with host := s.host.writeN 0x1008 (leBytes 8 1) }

/-- `CoreStops`: a held MMX, with a handler; none; a cluster halt that is due; a dump that is due and one that is not; a ring with room and a full one. -/
theorem test_coreStops :
    nextIs (exec (.mmx 0 0) (handler 0x3C0 (grp (placed ldT) (fun g => { g with mmx := [mmxHeld] })))) (fun t => of t (fun g => g.pc == 0x3C0 && g.trapc == 0x10104 && g.trapm == 2 && g.mmx.isEmpty)) = true
    ∧ nextIs (exec (.mmx 0 0) (placed ldT)) (fun t => of t (fun g => g.pc == 0)) = true
    ∧ nextIs (exec (.clusterHalt 0) (clocked 5 (onCore (placed ldT) (fun k => { k with haltDue := some 5 })))) (fun t => (t.core 0).faults.map (fun h => (h.cause, h.sub, h.byCluster)) == [(0x2E, 1, true)]) = true
    ∧ (stopped false 10).dumpDue 0 = true ∧ (stopped false 9).dumpDue 0 = false ∧ ((stopped false 10).core 0).team.isSome = true
    ∧ nextIs (exec (.dump 0) (stopped false 10)) (fun t => (ringWaits t 0 2).map (fun b => (b.length, field b 32 8, field b 48 8)) == [(64, 12, 3)]) = true
    ∧ (ringed true).ringRoom 0 2 = true ∧ (ringed false).ringRoom 0 2 = false
    ∧ nextIs (exec (.ringHasRoom 0 .error) (ringed true)) (fun t => (ringWaits t 0 2).isEmpty && t.host.readLe 0x1000 8 == 4 && t.host.read 0x1100 == 1 && t.host.read 0x1140 == 0) = true
    ∧ nextIs (exec (.ringHasRoom 0 .error) (ringed false)) (fun t => (ringWaits t 0 2).isEmpty && ((t.owner 0).ring 2).drop) = true := by decide +kernel

/-- `HouseEvents`: in a house turn and out of one: the sweep, refresh, scrubbing of a line with an error, and the host's accesses; a snoop that takes a line. -/
def house (own : Bool) : State :=
  let s := placed ldT
  { (s.modOwner 0 (fun o => { o with regions := [(3, { lgid := 0, core := 0, current := false, open_ := 0 })], record := { o.record with banks := List.replicate 16 (BitVec.allOnes 64) } })) with
    cycle := 20, errors := [0x100], mgmt := { s.mgmt with table := if own then 0 else 0xFFFFFFFFFFFFFFFF } }

theorem test_houseEvents :
    (house false).houseTurn = true ∧ (house true).houseTurn = false
    ∧ nextIs (exec .regionIdSweep (house false)) (fun t => (t.owner 0).regions.isEmpty) = true
    ∧ (house false).bankOpen 0 0 = true ∧ (house true).bankOpen 0 0 = false
    ∧ nextIs (exec (.hbmRefresh 0 0) (house false)) (fun t => sget 0 t.mgmt.refreshed 0 == 1) = true
    ∧ nextIs (exec (.hbmScrub 0x100) (house false)) (fun t => (ringWaits t 0 2).map (fun b => (field b 0 4, field b 24 8)) == [(0x42, 0x100)]) = true
    ∧ exposed 64 = true
    ∧ nextIs (exec (.hostCxlMemAccess { address := 64, write := some [1, 2], bytes := 2 }) (house false)) (fun t => t.mem.readN 63 4 == [0, 1, 2, 0]) = true
    ∧ nextIs (exec (.hostCxlMemAccess { address := 64, write := some [1, 2], bytes := 2 }) (house true)) (fun t => t.mem.readN 63 4 == [0, 0, 0, 0]) = true
    ∧ nextIs (exec (.hostCxlMemAccess { address := 64, write := none, bytes := 2 }) (house false)) (fun t => t.outbox.getLast? == some (.hostData [0, 0])) = true := by decide +kernel

/-- `FabricEvents`: owner 0 is bound to context 9; requests that are new, seen before, and of a context bound to no owner; parking; a line outside; peers and planes. -/
def bound (s : State) : State :=
  let s := s.modOwner 0 (fun o => { o with record := { o.record with ctx := 9, l1table := 0x10000, banks := List.replicate 16 (BitVec.allOnes 64) } })
  { s with mem := s.mem.writeN 0x10000 (leBytes 8 7) }
def request (k : PeerKind) (ctx : Nat) : PeerReq := { head := { device := 5, seq := 1, plane := 0, gen := 0 }, id := 1, ctx := ctx, rmf := false, va := 64, kind := k }
def outside : State := clocked 10 (onCore (placed ldT) (fun k => { k with ops := [(7, { loadOp [.done leaf0] [] with lines := [{ lineReq (.outside 0 0) with leaf := { leaf0 with tgt := 2, dev := 5 } }] })], nextOp := 8 }))

/-- A request that has come and is translated, with these bytes for the entry of its page. -/
def translated (r : PeerReq) (entry : List Byte) (p : Inbound → Bool) : Bool :=
  nextIs (exec (.remoteRequestArrival r) { bound (placed ldT) with mem := (bound (placed ldT)).mem.writeN 0x10000 entry }) (fun t => (mget (t.translateInbound 0).fab.inbound 0).any p)

theorem test_fabricEvents :
    (bound (placed ldT)).boundOwner 9 = some 0 ∧ (bound (placed ldT)).boundOwner 8 = none
    ∧ nextIs (exec (.remoteRequestArrival (request (.load 4) 8)) (bound (placed ldT))) (fun t => match t.fab.ports.map (fun m => (m.owner, m.msg)) with
        | [(15, OutMsg.answer 5 1 _ .noContext [])] => true
        | _ => false) = true
    ∧ nextIs (exec (.remoteRequestArrival (request (.load 4) 9)) (bound (placed ldT))) (fun t => t.fab.inbound.map (fun p => (p.2.pa, p.2.came)) == [(none, false)] && t.fab.arrived.length == 1
        && nextIs (exec (.remoteRequestArrival (request (.load 4) 9)) t) (fun r => r.fab.inbound.length == 1)) = true
    ∧ translated (request (.load 4) 9) (leBytes 8 7) (fun x => x.pa == some 64 && x.answer.isNone && x.parked.isNone) = true
    ∧ translated (request (.store [some 1]) 9) (leBytes 8 3) (fun x => x.answer.map Prod.fst == some .refused) = true
    ∧ translated (request (.load 4) 9) (leBytes 8 0) (fun x => x.parked.isSome && x.noticed.isSome) = true
    ∧ translated { request (.load 4) 9 with rmf := true } (leBytes 8 0) (fun x => x.answer.map Prod.fst == some .remoteFatal) = true
    ∧ (outside.op? 0 7).map (fun o => o.lines.map (fun r => r.st)) = some [.outside 0 0]
    ∧ nextIs (exec (.peerLost 5) (placed ldT)) (fun t => t.fab.lost == [5]) = true
    ∧ nextIs (exec (.planeDead 2) (placed ldT)) (fun t => t.fab.dead == [2] && t.fab.gen == 1) = true
    ∧ nextIs (exec (.linkAck 1 2 3) { placed ldT with fab := { (placed ldT).fab with unacked := [(10, 8)] } }) (fun t => sget 0 t.fab.unacked 10 == 5) = true := by decide +kernel

/-- A time of the fabric at which a parked request's notice, and the timeout of a line outside, are due. -/
def lateBy (n : Nat) (s : State) : State := { s with mgmt := { s.mgmt with gtime := n } }
theorem witness_fabricTimes : Config.fabricOrigin 0 + 2000000 ≤ (lateBy 2000000 outside).fabricTime ∧ (lateBy 32767 outside).fabricTime < Config.fabricOrigin 0 + 32768 := by
  have h : outside.mgmt.boots = 0 := by decide +kernel
  simp only [State.fabricTime, lateBy, h]
  omega

/-- `CollectiveEvents`: command 4 of owner 0: a broadcast of four bytes from rank 0 into the scratchpad, of which this device is rank 1. -/
def coll4 : Coll :=
  { core := 0, seat := 0, uid := 0, tids := List.range 32, lgid := 0, region := none, csn := 1, pc := 0, segsp := 0x10000000000011, seggl := 51, desc := 0x10000000000100, src := sp0, dsta := sp0,
    count := 4, op := 3, wire := 4, red := 0, root := 0, members := [7, 0], tag := 9, rank := 1, issued := 0, got := [], code := none, missing := [], declared := 0, serials := [0, 0], moves := true, page := none, begun := 0, sent := false, reduced := [] }
def collSeat (x : Coll) : State :=
  (bound (windows (placed ldT))).modOwner 0 (fun o => (o.modDie 0 (fun d => { d with colls := [(4, x)] })))
/-- The head of a flit from device 7. -/
def head7 : FlitHead := { device := 7, plane := 0, gen := 0, seq := 1 }
def chunk (agrees : Bool) : Contribution := { head := head7, serial := 0, ctx := 9, tag := 9, rank := 0, block := 0, chunk := 0, result := true, agrees := agrees, data := [1, 2, 3, 4] }

theorem test_collectiveEvents :
    ((collSeat coll4).owner 0).collFor 9 7 0 = some (4, coll4) ∧ ((collSeat coll4).owner 0).flitDead 9 7 0 = false ∧ ((collSeat coll4).owner 0).coll? 4 = some (0, coll4)
    ∧ nextIs (exec (.chunkContributionArrival (chunk true)) (collSeat coll4)) (fun t => (t.core 0).sp.readN 0 5 == [1, 2, 3, 4, 0]) = true
    ∧ nextIs (exec (.chunkContributionArrival (chunk false)) (collSeat coll4)) (fun t => ((t.owner 0).coll? 4).map (fun p => p.2.code) == some (some (4, 0))) = true
    ∧ coll4.expected.map (fun e => e.2.2) = [0]
    ∧ nextIs (exec (.failureNotice { head := head7, serial := 0, missing := [], declared := 0, ctx := 9, tag := 9, code := 3, dev := 7 }) (collSeat coll4)) (fun t => ((t.owner 0).coll? 4).map (fun p => p.2.code) == some (some (3, 7))) = true
    ∧ nextIs (exec (.collCompletion 0 4) (collSeat { coll4 with got := [(0, 0)], sent := true })) (fun t => (t.core 0).sp.readLe 0x128 4 == 0x80000000 && ((t.owner 0).coll? 4).isNone) = true
    ∧ nextIs (exec (.collCompletion 0 4) (collSeat coll4)) (fun t => ((t.owner 0).coll? 4).isSome) = true
    ∧ nextIs (exec (.scorecardStamp { head := { head7 with device := 6 }, serial := 1, ctx := 9, fb := 2, device := 6, time := 50 }) (carded (bound (placed ldT)))) (fun t => (mget (t.owner 0).cards 2).map (fun x => x.stamps) == some [(6, [(1, 50)])]) = true := by
  decide +kernel

/-! Requests of the host -/

/-- A record that admits owner 2 with grade 1, LF 4, LQ 4, TICK 12, LT 8 and no bank. -/
def admission : AdmitRequest :=
  { bytes := (List.replicate 94 0 ++ [0x44, 12] ++ List.replicate 256 0 ++ [1, 2, 8]) ++ List.replicate 157 0,
    ways := 2, tlbShare := 1024, capacity := List.replicate 8 9, refill := List.replicate 8 3, replay := List.replicate 8 0, counters := [] }
def owner2 (resident : Bool) (s : State) : State := s.modOwner 2 (fun o => { o with admitted := true, resident := resident, record := { o.record with grade := 1, lq := 4, queues := [0, 0x1000, 0x2000, 0x3000] } })
def statusIs (o : Host.Outcome State Fault Refusal) (w : Word) : Bool := nextIs o (fun t => t.mgmt.status == w && t.outbox.getLast? == some (.status w))
def R (k : Nat) : Word := BitVec.ofNat 32 (1 + 256 * k)

/-- `HostRequests`: accepted, and refused with each of its reasons. -/
theorem test_admit : statusIs (exec (.admitOwner admission) State.reset) 0 = true ∧ admitNumber admission = 2 ∧ State.reset.recordOk admission = true
    ∧ statusIs (exec (.admitOwner admission) (owner2 false State.reset)) (R 1) = true ∧ statusIs (exec (.admitOwner { admission with ways := 17 }) State.reset) (R 2) = true := by decide +kernel

theorem test_hostRequests :
    statusIs (exec (.retire 2) (owner2 false State.reset)) 0 = true ∧ statusIs (exec (.retire 2) State.reset) (R 1) = true ∧ statusIs (exec (.retire 2) (owner2 true State.reset)) (R 5) = true
    ∧ statusIs (exec (.retire 2) { owner2 false State.reset with mgmt := { State.reset.mgmt with table := 2 } }) (R 6) = true
    ∧ statusIs (exec (.turns 0xF222222222222222) (owner2 true State.reset)) 0 = true ∧ statusIs (exec (.turns 0xF82) State.reset) (R 7) = true ∧ statusIs (exec (.turns 0) State.reset) (R 8) = true
    ∧ statusIs (exec (.turns 0xFFFFFFFFFFFFFFFF) (owner2 true State.reset)) (R 9) = true
    ∧ statusIs (exec (.cores 2 [3, 4]) (owner2 false State.reset)) 0 = true ∧ statusIs (exec (.cores 2 [3, 4]) State.reset) (R 1) = true
    ∧ statusIs (exec (.cores 2 (List.range 8)) (owner2 false State.reset)) (R 4) = true ∧ statusIs (exec (.cores 2 [3]) (owner2 true State.reset)) (R 5) = true
    ∧ statusIs (exec (.switch (some 2) none) (owner2 true State.reset)) 0 = true ∧ statusIs (exec (.switch none none) State.reset) (R 1) = true
    ∧ statusIs (exec (.switch (some 2) none) (owner2 false State.reset)) (R 11) = true ∧ statusIs (exec (.switch none (some 2)) (owner2 false State.reset)) (R 13) = true
    ∧ statusIs (exec (.refill 2 []) (owner2 false State.reset)) 0 = true ∧ statusIs (exec (.refill 2 []) State.reset) (R 1) = true
    ∧ statusIs (exec (.refill 2 [1]) (owner2 false State.reset)) (R 2) = true := by decide +kernel

/-- `HostAnswers`: a doorbell on a page that is not mapped; a page that is answered; a halted core let go; a breakpoint ended; the two resets. -/
theorem test_hostAnswers :
    nextIs (exec (.ldb 2 64) (owner2 false State.reset)) (fun t => (t.owner 2).ldbst == 3) = true
    ∧ nextIs (exec (.ldb 0 0x100) (bound (placed ldT))) (fun t => (t.owner 0).ldbst == 2) = true
    ∧ nextIs (exec (.fansResume 0 0) ((inFlight [.parked] [] 10).modOwner 0 (fun o => o.modDie 0 (fun d => { d with merge := [{ vpn := 0, waiters := [(0, 7)], record := none, since := 0 }] }))))
        (fun t => (t.op? 0 7).map (fun o => o.pages.map (fun p => p.st)) == some [.start] && ((t.owner 0).die 0).merge.isEmpty) = true
    ∧ nextIs (exec (.crel 0 0) (stopped true 10)) (fun t => (t.core 0).team.isNone && (t.core 0).halt.isNone && (t.group? 0 0).isNone) = true
    ∧ nextIs (exec (.dres 0 0 0) (grp (placed ldT) (fun g => { g with wait := some .debug }))) (fun t => of t (fun g => g.wait.isNone)) = true
    ∧ nextIs (exec .coldReset (placed ldT)) (fun t => t.owners.isEmpty && t.mgmt.bringup == .ready && t.cycle == 0) = true
    ∧ nextIs (exec .coldResetUnsigned (placed ldT)) (fun t => t.owners.isEmpty && t.mgmt.bringup == .fwfail) = true
    ∧ nextIs (exec .hotReset { placed ldT with cycle := 77 }) (fun t => t.cores.isEmpty && t.cycle == 77) = true := by decide +kernel

/-- `Attestation`: a version, then capabilities, then an error for a digest before the algorithms. -/
theorem test_attestation : nextIs (exec .getVersion State.reset) (fun t => t.mgmt.spdm.version && nextIs (exec .getCapabilities t) (fun r => r.mgmt.spdm.capabilities
      && nextIs (exec .getDigests r) (fun q => q.outbox.getLast? == some (.spdm [0x12, 0x7F, 4, 0])))) = true := by decide +kernel

/-! A step runs what it has decoded -/

/-- A placed state in which the quadrants are still to come. -/
def toCome (s : State) : State := { s with sched := { s.sched with core := 0, late := [] } }

/-- The one instruction of the placed line comes to issue, and an `EVWAIT` at the end of the cycle's issue. -/
theorem witness_comes : ∃ g ∈ ((toCome (State.reset.withFetchWord 96 (encode ldT).toNat)).group? 0 0).toList, ∃ x ∈ g.lines,
    let s := toCome (State.reset.withFetchWord 96 (encode ldT).toNat)
    s.sched.stage = .issue ∧ s.sched.cur = none ∧ s.nextQuad = some (0, 0) ∧ (s.cycle % 4 = 0 ∧ ((s.core 0).quad 0).nextSeat = some 0)
      ∧ (s.core 0).parkedOps 0 g.uid = [] ∧ g.wake ≤ s.now 0 ∧ g.mmx = [] ∧ g.wait = none ∧ g.heldLine (s.now 0) = some x ∧ g.checkLine x = .ok
      ∧ (g.issuePcs x.bytes).length = 1 ∧ (match decode (slotWord x.bytes (slotOf g.pc)) with | .ok i => decide (i = ldT) | .error _ => false) = true := by decide +kernel

theorem witness_comesLate : ∃ g ∈ ((State.reset.withFetchWord 96 (encode evwaitT).toNat).group? 0 0).toList, ∃ x ∈ g.lines,
    let s := State.reset.withFetchWord 96 (encode evwaitT).toNat
    s.sched.stage = .issue ∧ s.sched.cur = none ∧ s.nextQuad = none ∧ s.sched.late.head? = some (0, 0) ∧ ((s.core 0).quad 0).ended = false ∧ ((s.core 0).quad 0).holder.map Prod.fst = some 0
      ∧ g.heldLine (s.now 0) = some x ∧ g.checkLine x = .ok ∧ (g.issuePcs x.bytes).length = 1
      ∧ (match decode (slotWord x.bytes (slotOf g.pc)) with | .ok i => decide (i = evwaitT) | .error _ => false) = true := by decide +kernel

/-- The step at a placed instruction is that instruction: the sum comes to v3, and the PC is that of the next slot; and `decodeTableWord` reads it. -/
theorem test_step : ∃ w, w = (encode (.iaddImm (fi 0x80 (.v 3) (.v 1) (.v 0) .s32 7))).toNat ∧ decodeTableWord 96 w = some (.iaddImm (fi 0x80 (.v 3) (.v 1) (.v 0) .s32 7))
    ∧ nextIs (step (State.reset.withFetchWord 96 w)) (fun t => of t (fun g => g.vreg 3 0 == 7 && g.vreg 3 31 == 7 && g.pc == 12)) = true :=
  ⟨_, rfl, by decide +kernel, by decide +kernel⟩

/-- `DecodeEncode`: a well-formed instruction with a row, and a word that decodes. -/
theorem witness_decodeEncode : ldT.wf = true ∧ (row? ldT).isSome = true ∧ (match decode (encode ldT) with | .ok i => decide (i = ldT) | .error _ => false) = true := by decide +kernel

/-- `FormKept`: the reset state has the form, and a step answers a next state from it. -/
theorem witness_form : State.reset.mem.wf = true ∧ State.reset.host.wf = true ∧ State.reset.cores = [] ∧ State.reset.owners = [] ∧ State.reset.sched.cur = none
    ∧ State.reset.sched.pair = none ∧ nextIs (step State.reset) (fun _ => true) = true := by
  decide +kernel

/-- A pair: `IADD` in slot 0 and `MOV` in slot 1. -/
def pairI : Instr := .iadd (fa 0 (.v 3) (.v 1) (.v 2) (.v 0) .s32 0)
def pairJ : Instr := .fadd (fa 0 (.v 5) (.v 6) (.v 7) (.v 0) .f32 0)
def pairState : State :=
  clocked 1 (grp (toCome (State.reset.withFetchWord 96 (encode pairI).toNat)) (fun g =>
    { g with lines := [{ line := 0, ready := some 0, op := none, bytes := lineOf [encode pairI, encode pairJ, 0, 0, 0] 1 1, again := false, checked := true, next := false }] }))

/-- `StepRunsDecoded`: both pass their checks and are ready; the step runs the first, and the next step the second. -/
theorem witness_pair : pairState.cycle % 4 ≠ 0 ∧ pairState.nextQuad = some (0, 0) ∧ (∃ g ∈ (pairState.group? 0 0).toList, ∃ x ∈ g.lines,
      (g.issuePcs x.bytes).length = 2 ∧ g.checkLine x = .ok ∧ x.checked = true ∧ (match g.decodeAt x.bytes with | .two i j => decide (i = pairI ∧ j = pairJ) | _ => false) = true)
    ∧ ∀ p ∈ [(pairI, none), (pairJ, some (pairState.core 0, pairState.owner (pairState.ownerOf 0)))], ∃ c ∈ (pairState.ctx? { seat0 with snap := p.2 }).toList,
      (precheck p.1 c).isNone = true ∧ pairState.ready p.1 c = true := by decide +kernel

theorem test_pair : nextIs (step pairState) (fun t => t.sched.pair.map Prod.fst == some pairJ && nextIs (step t) (fun r => of r (fun g => g.pc == 24))) = true := by decide +kernel

/-- `Guards`: matrix, accumulator and solve instructions and a `COLL` of a group of 16 lanes, with a handler at 0x3C0, in a handler, and without one. -/
def half16 (v : DWord) (i : Instr) : State := grp (armed (placed i)) (fun g => { g with threads := g.threads.take 16, trapv := v })
def maskInstrs : List Instr := [.mma mmaT, .mmas mmasT, solqT 0, .solb solbT, collT]

theorem witness_partialMask : ∀ i ∈ maskInstrs, ∀ s ∈ [half16 0x3C0 i, half16 0 i, handling (half16 0 i)],
    s.sched.cur = some seat0 ∧ i.wf = true ∧ (let op := (encode i).toNat / 2 ^ 88; (0xB0 ≤ op ∧ op ≤ 0xC7) ∨ op = 0xA4)
      ∧ ∃ c ∈ (s.ctx? seat0).toList, ∃ g ∈ (s.group? 0 0).toList, ∃ r ∈ (row? i).toList, c.g = g ∧ permitted i r g = true ∧ g.lanes.length < 32 ∧ g.fpe = [] := by decide +kernel

/-- R54, R326: cause 5, at the handler, with the PC as address and the lanes as mask. -/
theorem test_partialMask : ∀ i ∈ maskInstrs, nextIs (exec i (half16 0x3C0 i)) (fun t => of t (fun g =>
    g.pc == 0x3C0 && g.trapc == 5 && g.trapa == 0 && g.trapm == 0xFFFF && (g.handling.map (fun h => h.resume)) == some 0)) = true := by decide +kernel

/-- A word with GEN = 1, and words whose GREG is a handle, or not zero with GEN = 0. -/
theorem test_guardFields : (match decode (word 0x01 0 [(71, 0x102), (66, 3), (65, 1), (64, 1), (54, 3), (45, 1), (36, 2), (23, 0)]) with
      | .ok i => (row? i).map (fun r => r.hdr.guard) == some (some { reg := .s 2, bit := 3, neg := true }) | .error _ => false)
    && (match decode (word 0x01 0 [(71, 0x140), (64, 1), (54, 3), (45, 1), (36, 2)]) with | .ok _ => false | .error _ => true)
    && (match decode (word 0x01 0 [(71, 0x102), (54, 3), (45, 1), (36, 2)]) with | .ok _ => false | .error _ => true) = true := by decide +kernel

/-- `Barriers`: a group waits on generation 7 of tb1, which moves to 8; and one that stands at 7. -/
theorem witness_release : let s := grp (placed (.nop (fa 0 (.v 0) (.v 0) (.v 0) (.v 0) .s32 0))) (fun g => { g with wait := some (.barrier false 1 7 none) })
    ((s.core 0).seats.map Prod.fst).Nodup ∧ of s (fun _ => true) = true ∧ of (s.releaseBarrier 0 false 1 8) (fun g => g.wait.isNone && g.wake == s.now 0 + 1) = true
      ∧ of (s.releaseBarrier 0 false 1 7) (fun g => g.wait.isSome) = true := by decide +kernel

/-- `SolveStepEnd`: the words of two tiles for two new elements. -/
theorem witness_stepListed : (elemWrites 0 [0, 1] [5, 6]).map (fun w => (w.1, w.2.map (fun p => (p.1, p.2.toNat)))) = [(0, [(0, 5), (1, 6)]), (1, [])] := by decide +kernel

/-- The number of a request that has left the device names its owner, core, operation and line (R313, the model's numbering). -/
theorem test_outReqId : reqParts (outReqId 3 2047 (2 ^ 40) 4095) = (3, 2047, 2 ^ 40, 4095) := by decide +kernel

/-! Further premises of the statements that are met -/

/-- What `Checked` asks of a state, with a property of the issuer's context. -/
def checkedB (s : State) (i : Instr) (p : Ctx → Bool) : Bool :=
  match s.sched.cur with
  | some u => match s.ctx? u, row? i with
    | some c, some _ => i.wf && (precheck i c).isNone && p c
    | _, _ => false
  | none => false

theorem checkedB_spec {s : State} {i : Instr} {p : Ctx → Bool} (h : checkedB s i p = true) : ∃ u c r, Checked s i u c r ∧ p c = true := by
  unfold checkedB at h
  split at h
  · split at h
    · rename_i hu _ _ _ _ hc hr
      simp only [Bool.and_eq_true, Option.isNone_iff_eq_none] at h
      exact ⟨_, _, _, ⟨hu, hc, h.1.1, hr, h.1.2⟩, h.2⟩
    · cases h
  · cases h

/-- The group is the one participant of region 1. -/
def inRegion1 (s : State) (c : Ctx) : Bool :=
  c.g.handling.isNone && decide (s.findRegion c.core 1 = some (false, region1)) && decide (region1.parts.find? (fun q => q.core == c.core && q.lgid == s.lgid c.core c.seat) = region1.parts.head?)

/-- `SolveChecks`: the carried h0 is dead; a tile that the region does not carry; and a destination of two slots for a tile of one. -/
theorem witness_solveChecks :
    (∀ i ∈ [soleT, solxT], checkedB (grp (solving (placed i)) (fun g => { g with handles := [(1, hreg [1])] })) i (fun c =>
      inRegion1 (grp (solving (placed i)) (fun g => { g with handles := [(1, hreg [1])] })) c && !(c.g.handle 0).live) = true)
    ∧ checkedB (solving (placed (solhT 4))) (solhT 4) (inRegion1 (solving (placed (solhT 4)))) = true ∧ region1.nc ≤ 1
    ∧ checkedB (grp (solving (placed (solhT 0))) (fun g => { g with handles := [(0, hreg [0, 2]), (1, hreg [1])] })) (solhT 0) (fun c =>
      inRegion1 (grp (solving (placed (solhT 0))) (fun g => { g with handles := [(0, hreg [0, 2]), (1, hreg [1])] })) c && (c.g.handle 0).slots.length == 2) = true := by decide +kernel

/-- The answers: the trap HANDLE-DEAD, and an illegal instruction. -/
theorem test_solveChecks :
    nextIs (exec soleT (grp (solving (placed soleT)) (fun g => { g with handles := [(1, hreg [1])], trapv := 0x3C0 }))) (fun t => of t (fun g => g.pc == 0x3C0 && g.trapc.toNat % 256 == 3)) = true
    ∧ nextIs (exec (solhT 4) (solving (placed (solhT 4)))) (fun t => (t.core 0).faults.map (fun h => h.cause) == [0x23]) = true := by decide +kernel

/-- An error in the history tile of region 1. -/
def badHistory (s : State) : State := onCore (solving s) (fun k => { k with slots := k.slots ++ [(20, { Slot.blank with error := true }), (21, { Slot.blank with error := true })] })

/-- `HistoryErrors`. -/
theorem witness_historyErrors : issuing (badHistory (placed (solhT 0))) (solhT 0) (fun u c _ _ => inRegion1 (badHistory (placed (solhT 0))) c
      && region1.parts.all (fun p => match historyTile region1 p (fx 0 (.h 0) (.v 0) (.v 0) (.v 0) 0 0 0 0 1) with
        | some src => src.any (fun k => (((badHistory (placed (solhT 0))).core u.core).slot k).error) | none => false)) = true
    ∧ gives (badHistory (placed (solhT 0))) (solhT 0) (fun t => (t.core 0).faults.map (fun h => h.cause) == [0x27]) = true := by decide +kernel

/-- `TileWords`, `TileAccesses`: a tile with an error that is read, and one that is stored. -/
def badTile (s : State) : State := onCore s (fun k => { k with slots := k.slots.map (fun p => (p.1, { p.2 with error := true })) })
theorem witness_tileErrors :
    issuing (badTile (withH1 (placed (trdT 0)))) (trdT 0) (fun u c _ _ => (c.slots (.h 1)).any (fun n => (((badTile (withH1 (placed (trdT 0)))).core u.core).slot n).error)) = true
    ∧ issuing (badTile (tiled (.tst tstT) sp0 64)) (.tst tstT) (fun u c _ _ => stridedB c tstT 64
        && (c.slots (.h 1)).any (fun n => (((badTile (tiled (.tst tstT) sp0 64)).core u.core).slot n).error)) = true
    ∧ gives (badTile (withH1 (placed (trdT 0)))) (trdT 0) (fun t => (t.core 0).faults.map (fun h => h.cause) == [0x27]) = true := by decide +kernel

/-- A broadcast with engine 1 that has joined broadcast 0 of channel 0, with the same word or with another. -/
def mmabCmd (w : DWord) : EngineCmd :=
  { aczCmd 0 false with op := .mmab false false false 5 5 [6] none w 0 0, begun := none, org := some 0, d := 256 }
def mated (w : DWord) : State :=
  onTeam (onCore (pairs [(20, 3)] (armed (placed mmabT))) (fun k => k.modQuad 1 (fun q => { q with engine := [mmabCmd w] }))) (fun t => { t with joined := [(1, 1)] })

def mayJoinB (s : State) (u : Issuing) (c : Ctx) (f : FmtX) : Bool :=
  !(s.bcIllegal u.core u.quad (bcWord c f) (sends c f).isSome) && decide (u.quad < 4) && decide ((s.clusterCores u.core)[s.engineNumber u.core u.quad / 4]? = some u.core)
    && (mate s u.core (channel f) (joined s u f) (s.engineNumber u.core u.quad)).isNone
def fellowB (s : State) (u : Issuing) (c : Ctx) (f : FmtX) (e : Nat) : Bool := bcMember (bcWord c f) e && decide (e ≠ s.engineNumber u.core u.quad)
def agreedB (s : State) (u : Issuing) (c : Ctx) (f : FmtX) : Bool :=
  (List.range 48).all (fun e => !fellowB s u c f e || match mate s u.core (channel f) (joined s u f) e with
    | some y => decide (y.op.agree = (bcWord c f, f.fmtb.toNat, f.scs.getLsbD 1)) | none => false)
def joinsLastB (s : State) (u : Issuing) (c : Ctx) (f : FmtX) : Bool :=
  (List.range 48).all (fun e => !fellowB s u c f e || decide (joined s u f < s.joinCount u.core (channel f) e))

def mmabF : FmtX := fx 0 (.v 0) (.h 0) (.h 1) (.s 20) 0 5 5 0 0

/-- `BroadcastJoins`, `BroadcastFaults`: engine 0 alone; with engine 1 that still has to join; that has joined and agrees; that has joined with another word. -/
theorem witness_joinsLast : ∀ p ∈ [(pairs [(20, 1)] (armed (placed mmabT)), true, true), (pairs [(20, 3)] (armed (placed mmabT)), false, false), (mated 3, true, true), (mated 7, true, false)],
    issuing p.1 mmabT (fun u c _ _ => mayJoinB p.1 u c mmabF && joinsLastB p.1 u c mmabF == p.2.1 && agreedB p.1 u c mmabF == p.2.2
      && (p.1.core u.core).team.isSome && (p.1.core u.core).halt.isNone) = true := by decide +kernel

/-- R230: the members do not agree, and the core takes BROADCAST-MISMATCH. -/
theorem test_mismatch : gives (mated 7) mmabT (fun t => (t.core 0).faults.any (fun h => h.cause == 0x2D)) = true := by decide +kernel

/-- `HouseEvents`: a bank of no owner's set, outside a house turn, while the owner of the cycle uses nothing of the stack. -/
theorem witness_bankOpen : let s := (house true).modOwner 0 (fun o => { o with record := { o.record with banks := List.replicate 16 0 } })
    s.houseTurn = false ∧ s.bankOpen 3 5 = true ∧ s.hbmQueue s.turnOf 3 = [] := by decide +kernel

/-- `TurnEvents`: at the start of the final round one trade waits, which fits; both sides get their entry. -/
theorem test_tradeRecords : let s := bounded 65472
    s.mgmt.offers.isEmpty = true ∧ nextIs (exec .roundBoundary s) (fun t => (ringWaits t 0 0).map (fun b => (field b 0 2, field b 3 1)) == [(2, 1)]
      && (ringWaits t 1 0).map (fun b => (field b 0 2, field b 3 1)) == [(2, 2)]) = true := by decide +kernel

/-- `FabricEvents`: a request seen before; one behind an earlier one of its peer that waits for its translation; and planes that carry a collective. -/
def seenOnce (s : State) : State := { s with fab := { s.fab with seen := [(8192 + 40, (0, 1))] } }
theorem witness_seen : SeenBefore (seenOnce (placed ldT)) (request (.load 4) 9).head := ⟨by decide, .inr ⟨(0, 1), rfl, by decide⟩⟩

def twoCame : State :=
  let arrive (s : State) (r : PeerReq) : State := match exec (.remoteRequestArrival r) s with | .next t => t | _ => s
  (arrive (arrive { bound (placed ldT) with mem := [] } (request (.load 4) 9)) { request (.load 4) 9 with head := { head7 with device := 5, seq := 2 } }).translateInbound 0
theorem witness_behind : ∃ x ∈ (mget twoCame.fab.inbound 1).toList, ∃ p ∈ twoCame.fab.inbound, p.1 < 1 ∧ p.2.owner = x.owner ∧ p.2.req.head.device = x.req.head.device
      ∧ p.2.req.va / 128 = x.req.va / 128 ∧ p.2.pa = none ∧ p.2.answer = none := by decide +kernel

theorem test_behind : (twoCame.fab.inbound.map (fun p => p.2.parked.isSome)) = [true, false] ∧ (twoCame.translateInbound 1).fab.inbound.map (fun p => (p.2.pa, p.2.answer.isNone)) = [(none, true), (none, true)] := by decide +kernel

/-- No request of any owner has left the device; and a collective of this device, one chunk of which travels on plane 0. -/
theorem witness_carried : (collSeat coll4).outsideLines.isEmpty = true ∧ ((collSeat coll4).owners.all (fun p => p.2.saved.isEmpty)) = true
    ∧ (∃ c, c < 8 ∧ c < coll4.planes ∧ (collSeat coll4).fab.plane? c = some 0)
    ∧ nextIs (exec (.peerLost 7) (collSeat coll4)) (fun t => ((t.owner 0).coll? 4).map (fun p => p.2.code) == some (some (1, 7))) = true
    ∧ nextIs (exec (.planeDead 0) (collSeat coll4)) (fun t => ((t.owner 0).coll? 4).map (fun p => p.2.code) == some (some (2, 0))) = true
    ∧ nextIs (exec (.planeDead 7) (collSeat coll4)) (fun t => ((t.owner 0).coll? 4).map (fun p => p.2.code) == some none) = true := by decide +kernel

/-- `CollectiveEvents`: a chunk of a tag that has failed is discarded. -/
def failedTag (s : State) : State := s.modOwner 0 (fun o => { o with failedTags := [(9, 3, 7)] })
theorem test_ofFailed : ((failedTag (bound (placed ldT))).owner 0).failedTags.map Prod.fst = [9]
    ∧ nextIs (exec (.chunkContributionArrival (chunk true)) (failedTag (bound (placed ldT)))) (fun t => (t.owner 0).early.isEmpty && (t.core 0).sp.read 0 == 0) = true := by decide +kernel

/-- `StepRunsDecoded`: the group of the placed line waits for no token, its tile accesses keep nothing, and it has a region or there is an id for one. -/
theorem witness_comesFree : ∃ g ∈ ((toCome (State.reset.withFetchWord 96 (encode ldT).toNat)).group? 0 0).toList,
    let s := toCome (State.reset.withFetchWord 96 (encode ldT).toNat)
    s.tokenWaits 0 0 g = false ∧ (s.core 0).kept 0 g.uid = false ∧ (g.region.isSome || s.regionFree 0) = true := by decide +kernel

theorem witness_pairQuiet : nextIs (step pairState) (fun t => match t.group? 0 0 with | some g => !(t.probing 0 g) && g.uid == 0 | none => false) = true := by decide +kernel

/-! What the fabric, the engines and the host's mailbox leave: premises and values of the clauses on them -/

/-- One operation of core 0 whose one line waits for an answer of device 5 on plane 0. -/
def far (o : MemOp) (more : List (Nat × MemOp)) : State :=
  clocked 10 (onCore (placed ldT) (fun k => { k with
    ops := (7, { o with uid := 0, lines := [{ lineReq (.outside 0 0) with leaf := { leaf0 with tgt := 2, dev := 5 } }] }) :: more, nextOp := 9 }))
def farLoad : MemOp := { loadOp [.done leaf0] [] with pages := [] }
def farStore : State := far { storeOp with kind := .remoteDrain [] [8] } [(8, { storeOp with uid := 0, entered := true })]
def farAtomic : MemOp := { storeOp with kind := .atomic .add }
def farStep (k : OpKind) : MemOp :=
  { storeOp with kind := k, dst := some (.s 12), acc := [{ lane := 0, ga := 0, va := 0, bytes := 8, data := [], cmp := [], res := [], bad := false }] }

/-- What the group of seat 0 holds for its next fence. -/
def learns (t : State) : Option (Nat × Nat) := (t.group? 0 0).bind (fun g => g.remote)

/-- `FabricEvents`: the requests of these states are the last lines of their operations, and the only ones that are out. -/
theorem witness_lastLine : ∀ p ∈ [(far farLoad [], 7), (farStore, 7), (far farAtomic [], 7), (far (farStep .tqsteal) [], 7), (far (farStep .tqdone) [], 7)],
    p.1.outsideLines.map (fun y => (y.1, y.2.1, y.2.2.2.1, y.2.2.2.2.leaf.dev)) = [(0, p.2, 0, 5)]
    ∧ ((p.1.op? 0 p.2).map (fun x => (x.lines.length, x.entered, decide (x.notBefore ≤ p.1.now 0), x.failed.isNone)) = some (1, true, true, true))
    ∧ (p.1.core 0).halt = none ∧ p.1.owners.all (fun o => o.2.resident || o.2.saved.isEmpty) = true ∧ 5 ∉ p.1.fab.lost := by decide +kernel

/-- R313: a load faults and names the device; a store and an atomic without a result leave PEER-LOST, a steal and a report LOST. -/
theorem test_lostFates :
    nextIs (exec (.peerLost 5) (far farLoad [])) (fun t => (t.op? 0 7).isNone && (t.core 0).faults.map (fun h => (h.cause, h.dev)) == [(0x20, some 5)]) = true
    ∧ nextIs (exec (.peerLost 5) farStore) (fun t => (t.op? 0 7).isNone && learns t == some (1, 5)) = true
    ∧ nextIs (exec (.peerLost 5) (far farAtomic [])) (fun t => (t.op? 0 7).isNone && learns t == some (1, 5)) = true
    ∧ nextIs (exec (.peerLost 5) (far (farStep .tqsteal) [])) (fun t => of t (fun g => g.sreg 12 == 0xFFFFFFFC && g.sreg 13 == 0xFFFFFFFF)) = true
    ∧ nextIs (exec (.peerLost 5) (far (farStep .tqdone) [])) (fun t => of t (fun g => g.sreg 12 == 2)) = true := by decide +kernel

/-- R309: a dead plane: the store leaves PLANE-LOST, a load ends without a fault, a steal has LOST; another plane leaves all of them. -/
theorem test_planeFates :
    nextIs (exec (.planeDead 0) farStore) (fun t => (t.op? 0 7).isNone && learns t == some (2, 5)) = true
    ∧ nextIs (exec (.planeDead 0) (far farLoad [])) (fun t => (t.op? 0 7).isNone && (t.core 0).faults.isEmpty && learns t == some (2, 5)) = true
    ∧ nextIs (exec (.planeDead 0) (far (farStep .tqsteal) [])) (fun t => of t (fun g => g.sreg 12 == 0xFFFFFFFC)) = true
    ∧ nextIs (exec (.planeDead 1) (far farLoad [])) (fun t => (t.op? 0 7).isSome) = true := by decide +kernel

/-- R313: after 2 ms the peer is lost; it is not before. -/
def timed2 (n : Nat) : State := { far farLoad [] with mgmt := { (far farLoad []).mgmt with gtime := n } }
theorem witness_linkTimeout : (0 + 2000000 ≤ (timed2 2000000).fabricTime) ∧ (timed2 2000000).outsideLines.length = 1 ∧ ((timed2 0).owner 0).resident = true :=
  ⟨by have : (timed2 2000000).fabricTime = 2000000 + Config.fabricOrigin (timed2 2000000).mgmt.boots := rfl; omega, by decide +kernel, by decide +kernel⟩

/-- R312: a notice of the target starts the request's time again, and one of an older generation does not; a parked request's notice is due. -/
def kept5 (h : FlitHead) : Bool := nextIs (exec (.keepWaitingNotice ⟨outReqId 0 0 7 0, h⟩) { far farLoad [] with fab := { (far farLoad []).fab with seen := [(5, (2, 0))] } })
  (fun t => ((t.op? 0 7).map (fun o => o.lines.map (fun r => r.kept))) == some [true])
theorem test_keptHead : kept5 { device := 5, seq := 1, plane := 0, gen := 2 } = true ∧ kept5 { device := 5, seq := 1, plane := 0, gen := 1 } = false := by decide +kernel

/-- `Joins`: the group of 32 completes the join; without a handle it goes to the deck in one bundle, with one it keeps its seat. -/
def rejoined (h : Bool) : State :=
  grp (joining (placed (.reform reform2)) (List.range 32) 32) (fun g => if h then { g with handles := [(0, { live := true, slots := [0], gen := 1 })] } else g)
theorem test_rejoined :
    gives (rejoined false) (.reform reform2) (fun t => (deckOf t 0).map (fun d => (d.tid, d.pc, d.jmask, d.bundle)) == (List.range 32).map (fun k => (k, 12, 0, some 0)))
    && gives (rejoined true) (.reform reform2) (fun t => of t (fun g => g.pc == 12 && g.threads.map (fun p => (p.1, p.2.tid, p.2.jmask)) == (List.range 32).map (fun k => (k, k, 0))) && (deckOf t 0).isEmpty) = true := by
  decide +kernel

/-- The premises of the clause: no other seat waits at the join, and the deck has room. -/
theorem witness_rejoined : ∀ h ∈ [true, false], ((rejoined h).core 0).groups.all (fun p => p.1 == 0 || p.2.wait.isNone) = true ∧ ((rejoined h).group? 0 0).map (fun g => g.wait.isNone) = some true := by
  decide +kernel

/-- `Loads`: the answer of a load to s8. -/
theorem test_loadScalar : of ((answered (.load false false false) [] (some (.s 8)) none).finishOp 0 7) (fun g => g.sreg 8 == 0x80000005 && g.vregs.isEmpty) = true := by decide +kernel

/-- `Loads`: a word of the scratchpad with an uncorrectable error (R335). -/
theorem test_scratchError : gives (onCore (windows (alone sp0 (placed ldT))) (fun k => { k with spBad := [0] })) ldT (fun t => (t.core 0).ops.any (fun p => p.2.failed == some (0x27, sp0))) = true
    ∧ gives (onCore (windows (alone sp0 (placed ldT))) (fun k => { k with spBad := [40] })) ldT (fun t => (t.core 0).ops.all (fun p => p.2.failed.isNone)) = true
    ∧ gives (onCore (windows (alone sp0 (placed ldT))) (fun k => { k with spRaceBad := [0] })) ldT (fun t => (t.core 0).ops.any (fun p => p.2.failed == some (0x27, sp0))) = true := by decide +kernel

/-- R335: a record of the deck with an error, which the dealt group meets. -/
theorem test_deckError : nextIs (exec (.deal 0) (onTeam dealing (fun t => { t with deck := [deckRec 1, { deckRec 0 with bad := true }] })))
    (fun t => (t.core 0).faults.map (fun h => (h.cause, h.pc)) == [(0x27, 0x40)]) = true := by decide +kernel

/-- `MemoryEvents`: an entry of the L2 TLB with an error, and a table entry in a line with one. -/
theorem test_tlbErrors :
    nextIs (exec (.l2TlbLookup 0 0) (ownedBy0 ((inFlight [.atTlb 10] [] 10).modOwner 0 (fun o => o.modDie 0 (fun d => { d with tlb := [{ vpn := 0, leaf := leaf0, used := 0, bad := true }] })))))
      (fun t => (t.op? 0 7).map (fun o => o.pages.map (fun p => p.st)) == some [.failed 14 0x27]) = true
    ∧ nextIs (exec (.walkStep 0) { walkingAt 3 with errors := [0] }) (fun t => (t.op? 0 7).map (fun o => o.pages.map (fun p => p.st)) == some [.failed 14 0x27]) = true := by decide +kernel

/-- `Fences`: a load of the group, which its fence waits for and which keeps no status back. -/
def reading (s : State) : State := onCore s (fun k => { k with ops := [(0, loadOp [.done leaf0] [.atHbm 500])], nextOp := 1 })
theorem test_reportedAtOnce : gives (grp (reading (placed (.fence (fs 0 (.s 6) (.v 0) (.v 0) 0 52)))) (fun g => { (sset' [(6, 9)] g) with remote := some (1, 5) })) (.fence (fs 0 (.s 6) (.v 0) (.v 0) 0 52))
      (fun t => of t (fun g => g.sreg 6 == 0x50001 && g.wait.isSome)) = true
    ∧ gives (grp (owing (placed (.fence (fs 0 (.s 6) (.v 0) (.v 0) 0 52)))) (sset' [(6, 9)])) (.fence (fs 0 (.s 6) (.v 0) (.v 0) 0 52)) (fun t => of t (fun g => g.sreg 6 == 9 && g.wait.isSome)) = true := by
  decide +kernel

/-- `CollectiveEvents`: a command whose data were never moved ends in its STATUS; an early notice of a barrier's generation is kept; a contribution waits at its home. -/
def coll0 : Coll := { coll4 with op := 0 }
def part (since : Nat) : Waiting := { tag := 9, serial := 0, dev := 7, rank := 0, result := false, block := 0, chunk := 1, since := since, agrees := true, data := [1, 2, 3, 4] }
def homed (x : Coll) : State := (collSeat x).modOwner 0 (fun o => o.modDie 0 (fun d => { d with waiting := [part 0] }))
theorem test_collFailed :
    nextIs (exec (.collCompletion 0 4) (collSeat { coll4 with code := some (5, 0), moves := false })) (fun t => (t.core 0).sp.readLe 0x128 4 == 0x80000005 && ((t.owner 0).coll? 4).isNone) = true
    ∧ ((collSeat { coll4 with code := some (5, 0), moves := false }).owner 0).collReady { coll4 with code := some (5, 0), moves := false } = true
    ∧ nextIs (exec (.failureNotice { head := head7, serial := 1, missing := [0], declared := 0, ctx := 9, tag := tagOf 2, code := 3, dev := 7 }) (bound (placed ldT)))
        (fun t => (t.owner 0).early.map (fun e => (e.tag, e.from_, e.serial, e.code, e.dev, e.missing)) == [(tagOf 2, 7, 1, 3, some 7, [0])]) = true
    ∧ ((homed coll0).owner 0).waiting = [part 0] ∧ coll0.holds (part 0) = true ∧ barrierTag (tagOf 2) = some 2 := by decide +kernel

/-- `HostAnswers`, `HostRequests`: while the firmware has failed the doorbell and the management requests are not served. -/
def failing (s : State) : State := { s with mgmt := { s.mgmt with bringup := .fwfail } }
theorem test_fwfail : nextIs (exec (.ldb 2 64) (failing (owner2 false State.reset))) (fun t => (t.owner 2).ldbst == 0) = true := by decide +kernel

/-- `Attestation`: a ready connection; measurement 1, and signed. -/
def attested : State := { State.reset with mgmt := { State.reset.mgmt with spdm := { version := true, capabilities := true, algorithms := true, transcript := [] } } }
theorem test_measurement : nextIs (exec (.getMeasurements ⟨1, none⟩) attested) (fun t => match t.outbox with | [.spdm bs] => bs.take 2 == [0x12, 0x60] && t.mgmt.spdm.transcript.length == 4 + bs.length | _ => false) = true
    ∧ nextIs (exec (.getMeasurements ⟨1, some 5⟩) attested) (fun t => match t.outbox with
        | [.spdm bs] => t.mgmt.spdm.transcript.length == 36 + bs.length && nextIs (exec (.getMeasurements ⟨1, none⟩) attested) (fun u => match u.outbox with | [.spdm cs] => bs.length == cs.length + 96 | _ => false)
        | _ => false) = true := by decide +kernel

/-- `FloatingPoint`, `Conversions`: finite values, an infinity and a NaN; 1 + 2⁻²⁴ lies halfway and goes to the even neighbour, 1; a value of half precision beyond range. -/
theorem witness_rounding : FiniteBits .f32 0x3F800000 ∧ units .f32 0x3F800000 ≠ 0 ∧ FiniteBits .f32 0x33800000 ∧ units .f32 0x33800000 ≠ 0 ∧ IsInf .f32 0xFF800000 ∧ IsNan .f32 0x7F800001
    ∧ units .f32 0x3F800000 + units .f32 0xBF800000 = 0 ∧ units .f32 0x80000000 = 0 := by
  unfold FiniteBits IsInf IsNan; decide +kernel
theorem test_rounding : (Fp.f32.addV .rn (Fp.f32.unpack 0x3F800000) (Fp.f32.unpack 0x33800000)).1 = 0x3F800000 ∧ (Fp.f32.addV .ru (Fp.f32.unpack 0x3F800000) (Fp.f32.unpack 0x33800000)).1 = 0x3F800001
    ∧ (fpConvert .f32 .f16 .rn false (Fp.f32.unpack 0x477FF000)).1 = 0x7C00 ∧ (fpConvert .f32 .f16 .rn true (Fp.f32.unpack 0x477FF000)).1 = 0x7BFF := by decide +kernel
end Sys2Proof.Tests
end

section
/-! SUPPORT. Frames: steps that keep bytes, seats and special registers compose, and the updates of a core and an owner are such steps. -/

namespace Sys2Proof.Machine

open Sys2Proof.Claims

theorem BytesKept.refl (s : State) : BytesKept s s := ⟨fun _ => rfl, fun _ => rfl, fun _ _ => rfl⟩

theorem BytesKept.trans {s t v : State} (a : BytesKept s t) (b : BytesKept t v) : BytesKept s v :=
  ⟨fun x => (b.mem x).trans (a.mem x), fun x => (b.host x).trans (a.host x), fun n x => (b.sp n x).trans (a.sp n x)⟩

theorem SeatsKept.trans {s t v : State} {n x : Nat} (a : SeatsKept s t n x) (b : SeatsKept t v n x) : SeatsKept s v n x :=
  fun m y h => (b m y h).trans (a m y h)

theorem ElseKept.bytesKept {s t : State} {n x q : Nat} (h : ElseKept s t n x q) : BytesKept s t := by
  refine ⟨h.outside.mem, h.outside.host, fun m a => ?_⟩
  by_cases hm : m = n
  · rw [hm]
    exact h.core.sp a
  · rw [h.cores m hm]

theorem ElseKept.seatsKept {s t : State} {n x q : Nat} (h : ElseKept s t n x q) : SeatsKept s t n x := by
  intro m y hne
  by_cases hm : m = n
  · rw [hm]
    exact h.core.groups y (fun hy => hne ⟨hm, hy⟩)
  · simp only [State.group?, h.cores m hm]

theorem GroupKept.special {g g' : Group} (h : GroupKept g g') : SpecialKept g g' :=
  ⟨h.allot, h.hperm, h.origins, h.handles, h.trapv, h.trapc, h.trapa, h.trapm, h.handling, h.mmx, h.segsp, h.segst, h.seggl, h.csn, h.faultWord, h.uid⟩

theorem SpecialKept.refl (g : Group) : SpecialKept g g := (GroupKept.refl g).special

theorem SpecialKept.trans {g h k : Group} (a : SpecialKept g h) (b : SpecialKept h k) : SpecialKept g k :=
  ⟨b.allot.trans a.allot, b.hperm.trans a.hperm, b.origins.trans a.origins, b.handles.trans a.handles, b.trapv.trans a.trapv, b.trapc.trans a.trapc,
    b.trapa.trans a.trapa, b.trapm.trans a.trapm, b.handling.trans a.handling, b.mmx.trans a.mmx, b.segsp.trans a.segsp, b.segst.trans a.segst,
    b.seggl.trans a.seggl, b.csn.trans a.csn, b.faultWord.trans a.faultWord, b.uid.trans a.uid⟩

theorem BytesKept.modCore {s : State} {n : Nat} {f : Core → Core} (h : (f (s.core n)).sp = (s.core n).sp) : BytesKept s (s.modCore n f) := by
  refine ⟨fun _ => rfl, fun _ => rfl, fun m a => ?_⟩
  rw [State.core_modCore]
  split
  · next hm => rw [← hm, h]
  · rfl

/-- A change of a core that keeps its seats keeps every group. -/
theorem State.group?_modCore {s : State} {n : Nat} {f : Core → Core} (h : (f (s.core n)).seats = (s.core n).seats) (m x : Nat) :
    (s.modCore n f).group? m x = s.group? m x := by
  simp only [State.group?, State.core_modCore]
  split
  · next hm => rw [← hm, Core.group?, Core.group?, h]
  · rfl

theorem SeatsKept.modTeam (s : State) (n x : Nat) (f : Team → Team) : SeatsKept s (s.modTeam n f) n x := fun _ _ _ => State.group?_modTeam ..

theorem BytesKept.modTeam (s : State) (n : Nat) (f : Team → Team) : BytesKept s (s.modTeam n f) := .modCore rfl

/-- A change of an owner changes no byte. -/
theorem BytesKept.modOwner (s : State) (k : Nat) (f : Owner → Owner) : BytesKept s (s.modOwner k f) := ⟨fun _ => rfl, fun _ => rfl, fun _ _ => rfl⟩

theorem SeatsKept.modOwner (s : State) (k n x : Nat) (f : Owner → Owner) : SeatsKept s (s.modOwner k f) n x := fun _ _ _ => rfl

end Sys2Proof.Machine
end

section
/-! SUPPORT. O35: the writes of special registers. -/

namespace Sys2Proof.Machine

open Sys2Proof.Claims

/-! ### The special registers that can be written (R190) -/

theorem sprInfo_mem {n : BitVec 12} {p : Bool × Bool × SprAccess} (h : sprInfo n = some p) : (n.toNat, p) ∈ sprTable := by
  obtain ⟨l₁, l₂, he, -⟩ := List.lookup_eq_some_iff.1 h
  rw [he]
  simp

/-- The read-write registers: all but two are of 64 bits. -/
theorem sprInfo_rw {n : BitVec 12} {w l : Bool} (h : sprInfo n = some (w, l, .rw)) :
    n.toNat ∈ [0x020, 0x021, 0x022, 0x023, 0x024, 0x030] ∧ w = decide (n.toNat ≠ 0x022 ∧ n.toNat ≠ 0x023) := by
  have hall : ∀ p ∈ sprTable, p.2.2.2 = .rw → p.1 ∈ [0x020, 0x021, 0x022, 0x023, 0x024, 0x030] ∧ p.2.1 = decide (p.1 ≠ 0x022 ∧ p.1 ≠ 0x023) := by decide
  exact hall _ (sprInfo_mem h) rfl

/-- The privileged registers: all but two are of 64 bits. -/
theorem sprInfo_priv {n : BitVec 12} {w l : Bool} (h : sprInfo n = some (w, l, .priv)) :
    n.toNat ∈ [0x040, 0x041, 0x042, 0x052, 0x053, 0x054] ∧ w = decide (n.toNat ≠ 0x052 ∧ n.toNat ≠ 0x053) := by
  have hall : ∀ p ∈ sprTable, p.2.2.2 = .priv → p.1 ∈ [0x040, 0x041, 0x042, 0x052, 0x053, 0x054] ∧ p.2.1 = decide (p.1 ≠ 0x052 ∧ p.1 ≠ 0x053) := by decide
  exact hall _ (sprInfo_mem h) rfl

/-- A row of `MTS` or `MTSP` that is legal names a register of its access. -/
theorem rowMts_ok {opc : BitVec 8} {f : FmtS} {acc : SprAccess} {d : Fk} (h : (rowMts opc f acc d).ok = true) : ∃ w l, sprInfo f.spr = some (w, l, acc) := by
  unfold rowMts at h
  split at h
  · simp [rowS] at h
  · next w l a hs =>
    simp only [rowS, Bool.and_eq_true, beq_iff_eq] at h
    exact ⟨w, l, by rw [hs, h.2.2]⟩

theorem rowMts_dst (opc : BitVec 8) (f : FmtS) (acc : SprAccess) (d : Fk) : (rowMts opc f acc d).dst = f.dst ∧ (rowMts opc f acc d).dk = d := by
  unfold rowMts
  split <;> exact ⟨rfl, rfl⟩

theorem Issues.rowOk {s : State} {i : Instr} {u : Issuing} {c : Ctx} {r : Row} {g : Group} (h : Issues s i u c r g) : r.ok = true := by
  have hw := h.wf
  simp only [Instr.wf, Instr.fieldsLegal, h.row, Bool.and_eq_true] at hw
  exact hw.1.1.1.1

theorem Issues.dstOk {s : State} {i : Instr} {u : Issuing} {c : Ctx} {r : Row} {g : Group} (h : Issues s i u c r g) : fieldOk r.dk r.dst = true := by
  have hw := h.wf
  simp only [Instr.wf, Instr.operandsLegal, h.row, Bool.and_eq_true] at hw
  exact hw.1.2.1

/-! ### `MTS` (R189, R299) -/

/-- What a write of steering register `n`, or of `SRSEED`, makes of the team. -/
def Team.takeSpr (n now lg : Nat) (d : DWord) (m : Team) : Team :=
  match n with
  | 0x020 => { m with srseed := d }
  | 0x021 => m.steer n now lg (fun m => { m with solthr := d })
  | 0x022 => m.steer n now lg (fun m => { m with solmax := lo32 d })
  | 0x023 => m.steer n now lg (fun m => { m with solbeta := lo32 d })
  | 0x024 => m.steer n now lg (fun m => { m with sollam := d })
  | _ => m

theorem Team.steer_prevails {m : Team} {n now lg : Nat} (h : Prevails m n now lg) (w : Team → Team) :
    m.steer n now lg w = { w m with solBy := mset m.solBy n (now, lg) } := by
  unfold Team.steer
  split
  · next a k hk =>
    have := h a k hk
    rw [if_neg (by omega)]
  · rfl

theorem Team.steer_yields {m : Team} {n now lg : Nat} (h : ¬Prevails m n now lg) (w : Team → Team) : m.steer n now lg w = m := by
  simp only [Prevails, Classical.not_forall, Nat.not_le] at h
  obtain ⟨a, k, hk, ha, hlt⟩ := h
  simp only [Team.steer, hk, ha, hlt, and_self, if_true]

theorem ordered_mts (s : State) (f : FmtS) (c : Ctx) : s.ordered (.mts f) c = s := by
  refine State.ordered_plain rfl ?_ rfl
  simp [State.drainScope, State.releaseScope, passes, accessOf]

theorem ordered_mtsp (s : State) (f : FmtS) (c : Ctx) : s.ordered (.mtsp f) c = s := by
  refine State.ordered_plain rfl ?_ rfl
  simp [State.drainScope, State.releaseScope, passes, accessOf]

/-- The number of a register that `MTS` writes, and the source that it takes. -/
theorem mts_source {s : State} {f : FmtS} {u : Issuing} {c : Ctx} {r : Row} {g : Group} (h : Issues s (.mts f) u c r g) :
    f.spr.toNat ∈ [0x020, 0x021, 0x022, 0x023, 0x024, 0x030] ∧ c.sprSource f = source c f (decide (f.spr.toNat ≠ 0x022 ∧ f.spr.toNat ≠ 0x023)) := by
  have hr := h.rowOk
  rw [← Option.some.inj h.row] at hr
  obtain ⟨w, l, hs⟩ := rowMts_ok hr
  obtain ⟨hn, hw⟩ := sprInfo_rw hs
  refine ⟨hn, ?_⟩
  rw [← hw]
  unfold Ctx.sprSource source
  rw [hs]
  cases w <;> rfl

/-- The number of a register that `MTSP` writes, and the source that it takes. -/
theorem mtsp_source {s : State} {f : FmtS} {u : Issuing} {c : Ctx} {r : Row} {g : Group} (h : Issues s (.mtsp f) u c r g) :
    f.spr.toNat ∈ [0x040, 0x041, 0x042, 0x052, 0x053, 0x054] ∧ c.sprSource f = source c f (decide (f.spr.toNat ≠ 0x052 ∧ f.spr.toNat ≠ 0x053)) := by
  have hr := h.rowOk
  rw [← Option.some.inj h.row] at hr
  obtain ⟨w, l, hs⟩ := rowMts_ok hr
  obtain ⟨hn, hw⟩ := sprInfo_priv hs
  refine ⟨hn, ?_⟩
  rw [← hw]
  unfold Ctx.sprSource source
  rw [hs]
  cases w <;> rfl

/-- The state in which an instruction that issues has its effect: the group has its registers, and stands behind the instruction. -/
theorem Issues.begun {s : State} {i : Instr} {u : Issuing} {c : Ctx} {r : Row} {g : Group} (h : Issues s i u c r g) :
    ∃ gb, (s.begin i c r).group? u.core u.seat = some gb ∧ gb.pc = nextPc c.pc ∧ GroupKept g gb ∧ AllRegsKept g gb
      ∧ ElseKept s (s.begin i c r) u.core u.seat u.quad := by
  obtain ⟨hc, hq, hx, -, -⟩ := State.ctx?_law h.ctx
  have hg := h.seated
  rw [← hc, ← hx] at hg
  obtain ⟨ls, n, ts, rs, hb, hk, -⟩ := State.begin_law s i c r g hg
  rw [hc, hx] at hb
  rw [hc, hq, hx] at hk
  exact ⟨_, hb, rfl, by constructor <;> first | rfl | exact fun _ h => h, ⟨rfl, rfl⟩, hk⟩

/-- The logical id is that of the team and of the group's threads. -/
theorem State.lgid_congr {s t : State} {n x : Nat} {g h : Group} (hs : s.group? n x = some g) (ht : t.group? n x = some h) (hth : h.threads = g.threads)
    (htm : (t.core n).team = (s.core n).team) : t.lgid n x = s.lgid n x := by
  unfold State.lgid lgidOf Group.lowTid
  rw [hs, ht, htm]
  cases (s.core n).team with
  | none => rfl
  | some m => simp only [hth]

/-- `TRAPV` as `MTS` writes it: its reserved field stays zero (R10, R324). -/
def Group.takeTrapv (d : DWord) (g : Group) : Group := { g with trapv := d &&& 0x1FFFFFFFFFFFFF }

theorem SpecialKept.takeTrapv {g h : Group} (a : SpecialKept g h) (d : DWord) : SpecialKept (g.takeTrapv d) (h.takeTrapv d) :=
  ⟨a.allot, a.hperm, a.origins, a.handles, rfl, a.trapc, a.trapa, a.trapm, a.handling, a.mmx, a.segsp, a.segst, a.seggl, a.csn, a.faultWord, a.uid⟩

theorem exec_mts {s : State} {f : FmtS} {u : Issuing} {c : Ctx} {r : Row} {g : Group} (h : Issues s (.mts f) u c r g) :
    exec (.mts f) s = .next (let b := s.begin (.mts f) c r
      if f.spr.toNat = 0x030 then b.modGroup c.core c.seat (Group.takeTrapv (c.sprSource f))
      else b.modTeam c.core (Team.takeSpr f.spr.toNat c.now (b.lgid c.core c.seat) (c.sprSource f))) := by
  show execMts f s = _
  unfold execMts
  rw [issue_law h, ordered_mts]
  have hn := (mts_source h).1
  simp only [List.mem_cons, List.not_mem_nil, or_false] at hn
  rcases hn with hn | hn | hn | hn | hn | hn <;> simp [hn] <;> rfl

/-- What `MTS` does: the team's register or `TRAPV` is written, and nothing else. -/
theorem mts_law {s : State} {f : FmtS} {u : Issuing} {c : Ctx} {r : Row} {g : Group} (h : Issues s (.mts f) u c r g) :
    ∃ t g', exec (.mts f) s = .next t ∧ t.group? u.core u.seat = some g' ∧ BytesKept s t ∧ SeatsKept s t u.core u.seat ∧ AllRegsKept g g'
      ∧ g'.threads = g.threads ∧ g'.pc = nextPc c.pc
      ∧ SpecialKept (if f.spr.toNat = 0x030 then g.takeTrapv (c.sprSource f) else g) g'
      ∧ (t.core u.core).team = (s.core u.core).team.map (Team.takeSpr f.spr.toNat c.now (s.lgid u.core u.seat) (c.sprSource f)) := by
  obtain ⟨hc, -, hx, -, -⟩ := State.ctx?_law h.ctx
  obtain ⟨gb, hgb, hpc, hkb, hrb, heb⟩ := h.begun
  have hlg := State.lgid_congr h.seated hgb hkb.threads heb.core.team
  rw [exec_mts h, hc, hx]
  dsimp only
  rw [hlg]
  generalize s.begin (.mts f) c r = b at *
  by_cases hn : f.spr.toNat = 0x030
  · have he : ElseKept s (b.modGroup u.core u.seat (Group.takeTrapv (c.sprSource f))) u.core u.seat u.quad := heb.trans .modGroup
    refine ⟨_, gb.takeTrapv (c.sprSource f), rfl, ?_⟩
    rw [if_pos hn, if_pos hn, State.group?_modGroup, if_pos ⟨rfl, rfl⟩, hgb, he.core.team, hn]
    exact ⟨rfl, he.bytesKept, he.seatsKept, hrb, hkb.threads, hpc, hkb.special.takeTrapv _, Option.map_id'.symm⟩
  · refine ⟨_, gb, rfl, ?_⟩
    rw [if_neg hn, if_neg hn, State.group?_modTeam, State.core_modTeam, if_pos rfl]
    refine ⟨hgb, heb.bytesKept.trans (.modTeam _ _ _), heb.seatsKept.trans (.modTeam _ _ _ _), hrb, hkb.threads, hpc, hkb.special, ?_⟩
    show (b.core u.core).team.map _ = _
    rw [heb.core.team]


/-- A team after `MTS`, register by register: a steering register takes the value only of a write that prevails (R299). -/
theorem Team.takeSpr_law (m : Team) (n now lg : Nat) (d : DWord) :
    (n = 0x021 ∧ Prevails m n now lg → m.takeSpr n now lg d = { m with solthr := d, solBy := mset m.solBy n (now, lg) })
    ∧ (n = 0x022 ∧ Prevails m n now lg → m.takeSpr n now lg d = { m with solmax := lo32 d, solBy := mset m.solBy n (now, lg) })
    ∧ (n = 0x023 ∧ Prevails m n now lg → m.takeSpr n now lg d = { m with solbeta := lo32 d, solBy := mset m.solBy n (now, lg) })
    ∧ (n = 0x024 ∧ Prevails m n now lg → m.takeSpr n now lg d = { m with sollam := d, solBy := mset m.solBy n (now, lg) })
    ∧ (n = 0x020 → m.takeSpr n now lg d = { m with srseed := d })
    ∧ (n ≠ 0x020 ∧ ¬(n = 0x021 ∧ Prevails m n now lg) ∧ ¬(n = 0x022 ∧ Prevails m n now lg) ∧ ¬(n = 0x023 ∧ Prevails m n now lg)
      ∧ ¬(n = 0x024 ∧ Prevails m n now lg) → m.takeSpr n now lg d = m) := by
  refine ⟨?_, ?_, ?_, ?_, ?_, ?_⟩
  · rintro ⟨rfl, hp⟩; exact steer_prevails hp (fun m => { m with solthr := d })
  · rintro ⟨rfl, hp⟩; exact steer_prevails hp (fun m => { m with solmax := lo32 d })
  · rintro ⟨rfl, hp⟩; exact steer_prevails hp (fun m => { m with solbeta := lo32 d })
  · rintro ⟨rfl, hp⟩; exact steer_prevails hp (fun m => { m with sollam := d })
  · rintro rfl; rfl
  · rintro ⟨h0, h1, h2, h3, h4⟩
    unfold Team.takeSpr
    split
    · exact absurd rfl h0
    · exact steer_yields (fun hp => h1 ⟨rfl, hp⟩) _
    · exact steer_yields (fun hp => h2 ⟨rfl, hp⟩) _
    · exact steer_yields (fun hp => h3 ⟨rfl, hp⟩) _
    · exact steer_yields (fun hp => h4 ⟨rfl, hp⟩) _
    · rfl

/-! ### `MTSP` (R61, R189, R319, R331) -/

theorem segLegal_iff (lo hi : Nat) (d : DWord) : segLegal lo hi d = true ↔ SegmentFits lo hi d := by
  have hsz : (d.extractLsb' 0 6).toNat = d.toNat % 64 := by simp [BitVec.extractLsb'_toNat]
  simp only [segLegal, SegmentFits, hsz, Bool.and_eq_true, Bool.or_eq_true, beq_iff_eq, decide_eq_true_eq]

/-- The group after a privileged register takes a value. -/
def Group.takePriv (n : Nat) (d : DWord) (g : Group) : Group :=
  { g with segsp := if n = 0x040 then d &&& 0xFFFFFFFFFFFF803F else g.segsp, segst := if n = 0x041 then d &&& 0xFFFFFFFFFFFF803F else g.segst,
           seggl := if n = 0x042 then d &&& 0xFFFFFFFFFFFF803F else g.seggl }

/-- The owner after a privileged register takes a value. -/
def Owner.takePriv (n : Nat) (d : DWord) (o : Owner) : Owner :=
  { o with strgt := if n = 0x052 then lo32 d else o.strgt, strgp := if n = 0x053 then lo32 d &&& 0x1F else o.strgp }

theorem SpecialKept.takePriv {g h : Group} (a : SpecialKept g h) (n : Nat) (d : DWord) : SpecialKept (g.takePriv n d) (h.takePriv n d) :=
  ⟨a.allot, a.hperm, a.origins, a.handles, a.trapv, a.trapc, a.trapa, a.trapm, a.handling, a.mmx, by simp only [Group.takePriv, a.segsp],
    by simp only [Group.takePriv, a.segst], by simp only [Group.takePriv, a.seggl], a.csn, a.faultWord, a.uid⟩

/-- A value that its register does not accept is refused. -/
theorem privWrite_refused (s : State) (c : Ctx) {n : Nat} {d : DWord} (hn : n ∈ [0x040, 0x041, 0x042, 0x052, 0x053, 0x054]) (ha : ¬Accepts n d) :
    s.privWrite c n d = none := by
  simp only [List.mem_cons, List.not_mem_nil, or_false] at hn
  rcases hn with rfl | rfl | rfl | rfl | rfl | rfl <;> simp [Accepts, ← segLegal_iff] at ha <;> simpa [State.privWrite] using ha

/-- A value that its register accepts is written to the group, the owner or the core, and to nothing else. -/
theorem privWrite_accepted (s : State) (c : Ctx) {n : Nat} {d : DWord} {g : Group} (hn : n ∈ [0x040, 0x041, 0x042, 0x052, 0x053, 0x054]) (ha : Accepts n d)
    (hg : s.group? c.core c.seat = some g) :
    ∃ t, s.privWrite c n d = some t ∧ t.group? c.core c.seat = some (g.takePriv n d) ∧ BytesKept s t ∧ SeatsKept s t c.core c.seat
      ∧ t.owner c.owner = (s.owner c.owner).takePriv n d ∧ (t.core c.core).dumpbase = if n = 0x054 then d else (s.core c.core).dumpbase := by
  have hmod (w : Group → Group) : ElseKept s (s.modGroup c.core c.seat w) c.core c.seat c.quad := .modGroup
  have hseg (w : Group → Group) : (s.modGroup c.core c.seat w).group? c.core c.seat = some (w g) := by rw [State.group?_modGroup, if_pos ⟨rfl, rfl⟩, hg]; rfl
  simp only [List.mem_cons, List.not_mem_nil, or_false] at hn
  rcases hn with rfl | rfl | rfl | rfl | rfl | rfl
  · exact ⟨_, if_pos ((segLegal_iff _ _ _).2 ha), hseg _, (hmod _).bytesKept, (hmod _).seatsKept, rfl, (hmod _).core.dumpbase⟩
  · exact ⟨_, if_pos ((segLegal_iff _ _ _).2 ha), hseg _, (hmod _).bytesKept, (hmod _).seatsKept, rfl, (hmod _).core.dumpbase⟩
  · exact ⟨_, if_pos ((segLegal_iff _ _ _).2 ha), hseg _, (hmod _).bytesKept, (hmod _).seatsKept, rfl, (hmod _).core.dumpbase⟩
  · exact ⟨_, rfl, hg, .modOwner _ _ _, .modOwner _ _ _ _ _, by rw [State.owner_modOwner, if_pos rfl]; rfl, rfl⟩
  · exact ⟨_, rfl, hg, .modOwner _ _ _, .modOwner _ _ _ _ _, by rw [State.owner_modOwner, if_pos rfl]; rfl, rfl⟩
  · refine ⟨_, if_pos ha, ?_, .modCore rfl, fun m x _ => ?_, rfl, by rw [State.core_modCore, if_pos rfl]; rfl⟩
    · rw [State.group?_modCore rfl]
      exact hg
    · rw [State.group?_modCore rfl]

/-- The result of a scalar instruction is written, and nothing else. -/
theorem State.writeScalar_law (s : State) (c : Ctx) (o : Opd) (n last q : Nat) (d : DWord) (g : Group) (hg : s.group? c.core c.seat = some g) (hn : n = 1 ∨ n = 2)
    (ho : (regId? o).isSome = true) :
    ∃ g', (s.writeScalar c o n last d).group? c.core c.seat = some g' ∧ g'.pc = g.pc ∧ GroupKept g g' ∧ Writes o n c g g' (cutTo n d)
      ∧ ElseKept s (s.writeScalar c o n last d) c.core c.seat q := by
  unfold State.writeScalar
  refine ⟨(g.writeOpd o n c.lane0 d).markRegs o n last, ?_, ?_, ?_, ⟨?_, ?_⟩, .modGroup⟩
  · rw [State.group?_modGroup, if_pos ⟨rfl, rfl⟩, hg]; rfl
  · exact writeResults_pc o n [(c.lane0, d)] g
  · exact (GroupKept.writeOpd g o n c.lane0 d).trans (by constructor <;> first | rfl | exact fun _ h => h)
  · exact (Group.holds_congr (g := g.writeOpd o n c.lane0 d) rfl rfl o n c.lane0).trans (Group.holds_writeOpd _ _ _ _ _ ho)
  · exact (Group.kept_writeOpd g o n c.lane0 [c.lane0] d hn (by simp)).trans ⟨fun _ _ _ _ => by simp, fun _ _ => by simp⟩

theorem State.priv_congr {s t : State} {n : Nat} (hm : (t.core n).team = (s.core n).team) (ho : ∀ k, t.owner k = s.owner k) : t.priv n = s.priv n := by
  unfold State.priv State.gridOf
  rw [hm]
  cases (s.core n).team with
  | none => rfl
  | some m => simp only [ho]

theorem exec_mtsp {s : State} {f : FmtS} {u : Issuing} {c : Ctx} {r : Row} {g : Group} (h : Issues s (.mtsp f) u c r g) :
    exec (.mtsp f) s = .next (let b := s.begin (.mtsp f) c r
      if s.priv u.core then
        let w := b.privWrite c f.spr.toNat (c.sprSource f)
        (w.getD b).writeScalar c f.dst 1 (c.now + 1) (if w.isSome then 0 else 1)
      else s.raise u (.fatal 0x21 2 0)) := by
  obtain ⟨hc, -, -, -, -⟩ := State.ctx?_law h.ctx
  obtain ⟨gb, hgb, hpc, hkb, hrb, heb⟩ := h.begun
  have hp : (s.begin (.mtsp f) c r).priv c.core = s.priv u.core := by rw [hc]; exact State.priv_congr heb.core.team heb.outside.owners
  show execMtsp f s = _
  unfold execMtsp
  rw [issue_law h, ordered_mtsp]
  dsimp only
  rw [hp]
  cases s.priv u.core <;> rfl

/-- The destination of `MTSP` is an s register. -/
theorem mtsp_dst {s : State} {f : FmtS} {u : Issuing} {c : Ctx} {r : Row} {g : Group} (h : Issues s (.mtsp f) u c r g) : (regId? f.dst).isSome = true := by
  have hd := h.dstOk
  rw [← Option.some.inj h.row, (rowMts_dst ..).1, (rowMts_dst ..).2] at hd
  cases hf : f.dst with
  | s n => rfl
  | v n => rw [hf] at hd; cases hd
  | h n => rw [hf] at hd; cases hd
  | b n => rw [hf] at hd; cases hd

theorem AllRegsKept.writes {g h k : Group} {o : Opd} {n : Nat} {c : Ctx} {d : DWord} (a : AllRegsKept g h) (w : Writes o n c h k d) : Writes o n c g k d :=
  ⟨w.1, fun j l hj hl => by rw [w.2.1 j l hj hl, Group.vreg, Group.vreg, a.1], fun j hj => by rw [w.2.2 j hj, Group.sreg, Group.sreg, a.2]⟩

/-- Settles O35: what an instruction starts (`Issues.begun`) keeps registers and machine; then `MTS` changes the team or `TRAPV` alone, and `MTSP` one privileged
register, or none, and its result. -/
theorem specialWrites : Obligations.SpecialWrites := by
  unfold Obligations.SpecialWrites
  intro s f u c r g
  refine ⟨fun h => ?_, fun h hp => ?_, fun h hp => ?_⟩
  · obtain ⟨t, g', he, hg, hb, hs, hr, hth, hpc, hsp, htm⟩ := mts_law h
    have hsrc := (mts_source h).2
    refine ⟨t, g', he, hg, hb, hs, hr, hth, hpc, ?_, fun hm => by rw [htm, hm]; rfl, fun m hm => ⟨_, by rw [htm, hm]; rfl, ?_⟩⟩
    · by_cases hn : f.spr.toNat = 0x030
      · simpa [hn, hsrc, Group.takeTrapv] using hsp
      · simpa [hn] using hsp
    · obtain ⟨h21, h22, h23, h24, h20, hno⟩ := Team.takeSpr_law m f.spr.toNat c.now (s.lgid u.core u.seat) (c.sprSource f)
      refine ⟨fun hk => ?_, fun hk => ?_, fun hk => ?_, fun hk => ?_, fun hk => ?_, hno⟩
      · rw [h21 hk, hsrc, hk.1]; rfl
      · rw [h22 hk, hsrc, hk.1]; rfl
      · rw [h23 hk, hsrc, hk.1]; rfl
      · rw [h24 hk, hsrc, hk.1]; rfl
      · rw [h20 hk, hsrc, hk]; rfl
  · rw [exec_mtsp h, hp]
    rfl
  · obtain ⟨hc, hq, hx, -, -⟩ := State.ctx?_law h.ctx
    obtain ⟨hn, hsrc⟩ := mtsp_source h
    obtain ⟨gb, hgb, hpc, hkb, hrb, heb⟩ := h.begun
    have hdst := mtsp_dst h
    rw [exec_mtsp h, if_pos hp]
    dsimp only
    rw [← hsrc]
    rw [← hc, ← hx] at hgb heb ⊢
    generalize s.begin (.mtsp f) c r = b at *
    by_cases ha : Accepts f.spr.toNat (c.sprSource f)
    · obtain ⟨w, hw, hgw, hbw, hsw, how, hdw⟩ := privWrite_accepted b c hn ha hgb
      obtain ⟨g', hg', hpc', hk', hwr, he'⟩ := w.writeScalar_law c f.dst 1 (c.now + 1) u.quad 0 _ hgw (.inl rfl) hdst
      rw [hw, Option.getD_some, Option.isSome_some, if_pos rfl]
      refine ⟨_, g', rfl, hg', (heb.bytesKept.trans hbw).trans he'.bytesKept, (heb.seatsKept.trans hsw).trans he'.seatsKept, hk'.threads.trans hkb.threads, hpc'.trans hpc,
        fun hna => absurd ha hna, fun _ => ⟨AllRegsKept.writes hrb hwr, (hkb.special.takePriv _ _).trans hk'.special, ?_, ?_⟩⟩
      · rw [he'.outside.owners, how, heb.outside.owners]
        rfl
      · rw [he'.core.dumpbase, hdw, heb.core.dumpbase]
    · obtain ⟨g', hg', hpc', hk', hwr, he'⟩ := b.writeScalar_law c f.dst 1 (c.now + 1) u.quad 1 _ hgb (.inl rfl) hdst
      rw [privWrite_refused b c hn ha]
      have he := heb.trans he'
      exact ⟨_, g', rfl, hg', he.bytesKept, he.seatsKept, hk'.threads.trans hkb.threads, hpc'.trans hpc,
        fun _ => ⟨hkb.special.trans hk'.special, AllRegsKept.writes hrb hwr, he.outside.owners, he.core.dumpbase⟩, fun hy => absurd hy ha⟩

end Sys2Proof.Machine
end

section
/-! SUPPORT. O46: the global tick of an owner whose latest latch kept no event counts of a unit. -/

namespace Sys2Proof.Machine

open Sys2Proof.Claims

theorem exec_globalTick (k : Nat) (s : State) : exec (.globalTick k) s = .next (if s.tickDue k then s.latchCounters k 0 0 else s) := rfl

/-- Owner 0, whose tick falls in every cycle; of its latest latch of the first L2 slice, made at its present `OCLK`, it keeps no event count. -/
def uncountedOwner : Owner := { Owner.blank with admitted := true, picked := [(unitWord 0 4 0, (0, []))] }

def uncountedState : State := { State.reset with owners := [(0, uncountedOwner)] }

/-- The record of that slice ends behind C1, after 32 bytes, where R337 has 64. -/
theorem uncountedState_record_short : ((ringWaits (uncountedState.latchCounters 0 0 0) 0 3).head?).map List.length = some 32 := by decide +kernel

/-- Refutes O46: a record is 64 bytes long only if the counts kept of the latest latch are four. The statement does not ask it of the state, and `uncountedState`, which no run
of the machine reaches, keeps none. -/
theorem not_turnEvents : ¬ Obligations.TurnEvents := by
  unfold Obligations.TurnEvents
  intro h
  obtain ⟨-, -, -, htick, -⟩ := h uncountedState 0
  obtain ⟨t, ht, -, -, bs, hw, -, hb⟩ := htick (by decide)
  have htl : uncountedState.latchCounters 0 0 0 = t := by
    rw [exec_globalTick, if_pos (by decide)] at ht
    exact Host.Outcome.next.inj ht
  have hshort := uncountedState_record_short
  rw [htl, hw, show ringWaits uncountedState 0 3 = [] from rfl, List.nil_append] at hshort
  cases bs with
  | nil => simp at hshort
  | cons b bs =>
    have hlen : b.length = 64 := (hb 0 (unitWord 0 4 0) b rfl (by decide +kernel)).1
    simp [hlen] at hshort

end Sys2Proof.Machine
end

section
/-! SUPPORT. O52: the management requests. -/

namespace Sys2Proof.Machine

open Sys2Proof.Claims

/-! ### Requests (R347) -/

/-- A request one of whose reasons holds is refused with the first such reason. -/
theorem State.request_refused {s : State} {i : Instr} {rs : List (Bool × Nat)} {eff : State → State} {n : Nat}
    (hx : exec i s = .next (s.request rs eff)) (hr : firstReason rs = some n) : RefusedWith s i n := by
  unfold State.request at hx
  rw [hr] at hx
  exact hx

/-- A request none of whose reasons holds has its effect and is accepted. -/
theorem State.request_accepted {s : State} {i : Instr} {rs : List (Bool × Nat)} {eff : State → State} (hx : exec i s = .next (s.request rs eff))
    (hr : firstReason rs = none) (hg : GroupsKept s (eff s)) (hm : (eff s).mem = s.mem) (ho : (eff s).outbox = s.outbox) : Accepted s i ((eff s).answered none) := by
  unfold State.request at hx
  rw [hr] at hx
  exact ⟨hx, ⟨rfl, [], by rw [State.answered, ho, List.append_nil]; rfl⟩, hg, fun a => by rw [State.answered, hm]⟩

@[simp] theorem State.answered_owner (s : State) (x : Option Nat) (k : Nat) : (s.answered x).owner k = s.owner k := rfl

@[simp] theorem State.answered_host (s : State) (x : Option Nat) : (s.answered x).host = s.host := rfl

@[simp] theorem State.answered_l2 (s : State) (x : Option Nat) : (s.answered x).l2 = s.l2 := rfl

/-! ### Turn tables (R14) -/

theorem tableEntry_eq (t : BitVec 64) (i : Nat) : tableEntry t i = entry t i := by
  unfold tableEntry entry
  rw [BitVec.extractLsb'_toNat, Nat.shiftRight_eq_div_pow, Nat.pow_mul]

theorem names_iff (t : BitVec 64) (k : Nat) : Machine.names t k = true ↔ Named t k := by
  simp [Machine.names, Named, tableEntry_eq]

theorem names_eq_false (t : BitVec 64) (k : Nat) : Machine.names t k = false ↔ ¬Named t k := by rw [← names_iff, Bool.not_eq_true]

/-! ### Owners by number -/

theorem mem_of_mget {α : Type} {m : Map α} {k : Nat} {v : α} (h : mget m k = some v) : (k, v) ∈ m := by
  induction m with
  | nil => cases h
  | cons p t ih =>
    obtain ⟨i, w⟩ := p
    simp only [mget] at h
    split at h
    · next hk =>
      cases h
      simp [hk]
    · exact List.mem_cons_of_mem _ (ih h)

/-- An owner that is admitted is listed. -/
theorem State.mem_owners_of_admitted {s : State} {k : Nat} (h : (s.owner k).admitted = true) : (k, s.owner k) ∈ s.owners := by
  unfold State.owner at h ⊢
  cases ho : mget s.owners k with
  | none =>
    rw [ho] at h
    cases h
  | some o => exact mem_of_mget ho

theorem le_foldl_add {xs : List Nat} {x : Nat} (h : x ∈ xs) : x ≤ xs.foldl (· + ·) 0 := by
  rw [← List.sum_eq_foldl]
  induction h with
  | head ys =>
    rw [List.sum_cons]
    omega
  | tail y _ ih =>
    rw [List.sum_cons]
    omega

theorem State.ways_le_otherWays {s : State} {j k : Nat} (hjk : j ≠ k) (h : (s.owner j).admitted = true) : (s.owner j).record.ways ≤ s.otherWays k :=
  le_foldl_add (List.mem_map.2 ⟨_, List.mem_filter.2 ⟨s.mem_owners_of_admitted h, by simp [hjk, h]⟩, rfl⟩)

theorem State.next_le_otherRefills {s : State} {j k : Nat} (hjk : j ≠ k) (h : (s.owner j).admitted = true) (d : Nat) :
    ((s.owner j).die d).pool.next ≤ s.otherRefills k d :=
  le_foldl_add (List.mem_map.2 ⟨_, List.mem_filter.2 ⟨s.mem_owners_of_admitted h, by simp [hjk, h]⟩, rfl⟩)

/-! ### Admission records (R345) -/

theorem leNat_lt (bs : List Byte) : leNat bs < 256 ^ bs.length := by
  induction bs with
  | nil => simp [leNat]
  | cons b bs ih =>
    have := b.isLt
    simp only [leNat, List.length_cons, Nat.pow_succ]
    omega

theorem fieldLe_lt (bs : List Byte) (o n : Nat) : fieldLe bs o n < 256 ^ n :=
  Nat.lt_of_lt_of_le (leNat_lt _) (Nat.pow_le_pow_right (by omega) (List.length_take_le _ _))

/-- A quadword of a record. -/
theorem toNat_quadword (bs : List Byte) (o : Nat) : (BitVec.ofNat 64 (fieldLe bs o 8)).toNat = field bs o 8 := by
  rw [BitVec.toNat_ofNat]
  exact Nat.mod_eq_of_lt (Nat.lt_of_lt_of_eq (fieldLe_lt bs o 8) (by decide))

theorem getElem?_map_range {α : Type} (f : Nat → α) {n i : Nat} (h : i < n) : ((List.range n).map f)[i]? = some (f i) := by
  rw [List.getElem?_map, List.getElem?_range h]
  rfl

/-- What a record that is in range is (R5, R33, R86, R345). -/
theorem recordOk_law {s : State} {r : AdmitRequest} (h : s.recordOk r = true) :
    s.otherWays (admitNumber r) + r.ways ≤ 16 ∧ s.refillFits (admitNumber r) r.refill = true ∧ (1 ≤ r.tlbShare ∧ r.tlbShare ≤ 8192) ∧ r.bytes.length = 512
      ∧ ∀ x ∈ r.bytes.drop 355, x = 0 := by
  simp only [State.recordOk, Bool.and_eq_true, decide_eq_true_eq, List.all_eq_true, beq_iff_eq] at h
  obtain ⟨⟨⟨⟨⟨⟨⟨⟨⟨⟨⟨⟨⟨⟨⟨hlen, -⟩, -⟩, -⟩, -⟩, -⟩, -⟩, -⟩, hres⟩, -⟩, -⟩, hways⟩, hshare⟩, -⟩, -⟩, hfit⟩ := h
  exact ⟨hways, hfit, hshare, hlen, hres⟩

theorem refillFits_iff (s : State) (k : Nat) (rs : List Nat) : s.refillFits k rs = true ↔ ∀ d, d < 8 → s.otherRefills k d + rs.getD d 0 ≤ 512 := by
  simp [State.refillFits]

/-- A reserved byte. -/
theorem field_reserved {bs : List Byte} {o i : Nat} (h : ∀ x ∈ bs.drop o, x = 0) (hi : o ≤ i) : field bs i 1 = 0 := by
  unfold field
  cases hb : bs.drop i with
  | nil => rfl
  | cons b t =>
    have hm : b ∈ bs.drop o := by
      have : b ∈ bs.drop i := by rw [hb]; simp
      exact (List.drop_subset_drop_left bs hi) this
    simp [h b hm, leNat]

/-! ### `ADMIT` (R345) -/

/-- The 16 bytes at an address are zero. -/
def Memory.zeroAt (m : Memory) (a : Nat) : Prop := ∀ i, i < 16 → m.read (a + i) = 0

theorem leBytes_zero (n : Nat) : leBytes n 0 = List.replicate n 0 := by
  induction n with
  | zero => rfl
  | succ n ih => rw [leBytes, Nat.zero_div, ih]; rfl

theorem Memory.read_writeZero (m : Memory) (a b : Nat) : (m.writeN a (leBytes 16 0)).read b = if a ≤ b ∧ b < a + 16 then 0 else m.read b := by
  rw [Memory.read_writeN, leBytes_zero, List.length_replicate]
  split
  · next h =>
    rw [List.getElem?_replicate]
    split <;> rfl
  · rfl

theorem Memory.zeroAt_writeZero (m : Memory) (a : Nat) : (m.writeN a (leBytes 16 0)).zeroAt a := by
  intro i hi
  rw [read_writeZero, if_pos (by omega)]

theorem Memory.zeroAt.writeZero {m : Memory} {a : Nat} (h : m.zeroAt a) (b : Nat) : (m.writeN b (leBytes 16 0)).zeroAt a := by
  intro i hi
  rw [read_writeZero, h i hi, ite_self]

/-- Zeros written at several places stand at each, though the places meet. -/
theorem Memory.zeroAt_foldl (base : Nat → Nat) (ns : List Nat) (m : Memory) {a : Nat} (h : m.zeroAt a ∨ ∃ n ∈ ns, base n = a) :
    Memory.zeroAt (ns.foldl (fun m n => m.writeN (base n) (leBytes 16 0)) m) a := by
  induction ns generalizing m with
  | nil => simpa using h
  | cons n ns ih =>
    refine ih _ ?_
    rcases h with h | ⟨k, hk, rfl⟩
    · exact .inl (h.writeZero _)
    · rcases List.mem_cons.1 hk with rfl | hk
      · exact .inl (m.zeroAt_writeZero _)
      · exact .inr ⟨k, hk, rfl⟩

theorem Memory.readN_zero {m : Memory} {a n : Nat} (h : ∀ i, i < n → m.read (a + i) = 0) : m.readN a n = List.replicate n 0 := by
  induction n generalizing a with
  | zero => rfl
  | succ n ih =>
    rw [readN, show m.read a = 0 from h 0 (by omega), ih (fun i hi => by rw [show a + 1 + i = a + (i + 1) by omega]; exact h (i + 1) (by omega))]
    rfl

theorem Memory.zeroAt.readLe {m : Memory} {a : Nat} (h : m.zeroAt a) : m.readLe a 16 = 0 := by
  rw [Memory.readLe, readN_zero h]
  rfl

@[simp] theorem State.startRings_owner (s : State) (r : AdmitRecord) (k : Nat) : (s.startRings r).owner k = s.owner k := by
  simp only [State.startRings, State.owner]

/-- The rings of an owner that is admitted start empty. -/
theorem State.startRings_zero (s : State) (r : AdmitRecord) {n : Nat} (hn : n < 5) : (s.startRings r).host.readLe (r.ringBase n) 16 = 0 := by
  have hz := Memory.zeroAt_foldl r.ringBase (List.range 5) s.host (.inr ⟨n, List.mem_range.2 hn, rfl⟩)
  simp only [State.startRings]
  exact hz.readLe

theorem mget_map_range {α : Type} (f : Nat → α) {n d : Nat} (h : d < n) : mget ((List.range n).map (fun i => (i, f i))) d = some (f d) := by
  rw [mget_map_lane (fun i => (i, f i)) (fun _ => rfl), if_pos (List.mem_range.2 h)]

theorem admittedBy_pool (r : AdmitRequest) {d : Nat} (hd : d < 8) :
    ((Owner.admittedBy r).die d).pool = { cap := r.capacity.getD d 0, refill := r.refill.getD d 0, next := r.refill.getD d 0, level := r.capacity.getD d 0 } := by
  unfold Owner.die Owner.admittedBy
  dsimp only
  rw [mget_map_range _ hd]
  rfl

theorem exec_admitOwner {s : State} (r : AdmitRequest) (h : s.mgmt.bringup ≠ .fwfail) :
    exec (.admitOwner r) s = .next (s.request [((s.owner (admitNumber r)).admitted, 1), (!s.recordOk r, 2), (s.banksMeet r, 3)]
      (fun s => (s.setOwner (admitNumber r) (.admittedBy r)).startRings (.of r))) := by
  show execAdmitOwner r s = _
  unfold execAdmitOwner
  dsimp only
  rw [if_neg (by simpa using h)]

/-! ### `RETIRE` -/

theorem exec_retire (k : Nat) (s : State) :
    exec (.retire k) s = .next (s.request [(!(s.owner k).admitted, 1), ((s.owner k).resident, 5), (Machine.names s.mgmt.table k || Machine.names (s.nextTable true) k, 6)]
      (fun s => s.dropOwner k)) := rfl

/-- Answers wait at the ports, and change nothing else. -/
theorem State.foldl_sendOn {α : Type} (k : Nat) (plane : α → Nat) (bytes : Nat) (msg : α → OutMsg) (xs : List α) (s : State) :
    ∃ ps, xs.foldl (fun s x => s.sendOn k (plane x) bytes (msg x)) s = { s with fab := { s.fab with ports := ps } } := by
  induction xs generalizing s with
  | nil => exact ⟨s.fab.ports, rfl⟩
  | cons x xs ih => exact ih _

/-- What leaves with an owner that is retired: its entry, its lines of the L2, and nothing of the cores or of memory. -/
theorem State.dropOwner_law (s : State) (k : Nat) :
    (s.dropOwner k).owners = mdel s.owners k ∧ (s.dropOwner k).l2 = s.l2.filter (fun x => x.owner != k) ∧ (s.dropOwner k).cores = s.cores
      ∧ (s.dropOwner k).mem = s.mem ∧ (s.dropOwner k).outbox = s.outbox := by
  obtain ⟨ps, he⟩ := State.foldl_sendOn houseOwner (fun (p : Nat × Inbound) => p.2.req.head.plane % 8) 0 (fun p => replyTo p.2.req .noContext [])
    (s.fab.inbound.filter (fun p => p.2.owner == k && !p.2.silent)) s
  unfold State.dropOwner
  rw [he]
  exact ⟨rfl, rfl, rfl, rfl, rfl⟩

/-! ### `CORES` (R27) -/

theorem insertBy_perm {α : Type} (key : α → Nat) (x : α) (ys : List α) : (insertBy key x ys).Perm (x :: ys) := by
  induction ys with
  | nil => exact .refl _
  | cons y ys ih =>
    unfold insertBy
    split
    · exact .refl _
    · exact (ih.cons y).trans (.swap x y ys)

theorem sortBy_perm {α : Type} (key : α → Nat) (xs : List α) : (sortBy key xs).Perm xs := by
  suffices h : ∀ acc : List α, (xs.foldl (fun acc x => insertBy key x acc) acc).Perm (acc ++ xs) from h []
  induction xs with
  | nil => intro acc; simp
  | cons x xs ih => exact fun acc => (ih _).trans (((insertBy_perm key x acc).append_right xs).trans List.perm_middle.symm)

/-- One step of `dedup`. -/
def keepNew (acc : List Nat) (x : Nat) : List Nat := if acc.contains x then acc else acc ++ [x]

theorem foldl_keepNew_filter (p : Nat → Bool) (xs acc : List Nat) : (xs.foldl keepNew acc).filter p = (xs.filter p).foldl keepNew (acc.filter p) := by
  induction xs generalizing acc with
  | nil => rfl
  | cons x xs ih =>
    rw [List.foldl_cons, ih, List.filter_cons]
    by_cases hp : p x = true
    · rw [if_pos hp, List.foldl_cons]
      congr 1
      by_cases hx : x ∈ acc <;> simp [keepNew, hx, hp]
    · rw [if_neg hp]
      congr 1
      by_cases hx : x ∈ acc <;> simp [keepNew, hx, hp]

theorem dedup_filter (p : Nat → Bool) (xs : List Nat) : (dedup xs).filter p = dedup (xs.filter p) := foldl_keepNew_filter p xs []

theorem mem_keepNew (acc : List Nat) (x y : Nat) : x ∈ keepNew acc y ↔ x ∈ acc ∨ x = y := by
  unfold keepNew
  split
  · next h => exact ⟨.inl, fun h' => h'.elim id (fun e => e ▸ List.contains_iff_mem.1 h)⟩
  · simp

theorem mem_dedup (xs : List Nat) (x : Nat) : x ∈ dedup xs ↔ x ∈ xs := by
  suffices h : ∀ acc, x ∈ xs.foldl keepNew acc ↔ x ∈ acc ∨ x ∈ xs from (h []).trans (by simp)
  induction xs with
  | nil => simp
  | cons y xs ih =>
    intro acc
    rw [List.foldl_cons, ih, mem_keepNew, List.mem_cons, or_assoc]

theorem lt_foldl_max (g : Nat) (xs : List Nat) : g < xs.foldl max 0 ↔ ∃ x ∈ xs, g < x := by
  suffices h : ∀ a, g < xs.foldl max a ↔ g < a ∨ ∃ x ∈ xs, g < x from (h 0).trans (by simp)
  induction xs with
  | nil => simp
  | cons x xs ih =>
    intro a
    have hmax : g < max a x ↔ g < a ∨ g < x := by omega
    rw [List.foldl_cons, ih, hmax, or_assoc]
    simp only [List.mem_cons, exists_eq_or_imp]

/-- Cores that `CORES` assigns: those of the list that there are, each once. -/
def assignedOf (ns : List Nat) : List Nat := sortBy id (dedup (ns.filter (fun n => decide (n < Config.numCores))))

theorem mem_assignedOf (ns : List Nat) (n : Nat) : n ∈ assignedOf ns ↔ n ∈ ns ∧ n < 2048 := by
  rw [assignedOf, (sortBy_perm _ _).mem_iff, mem_dedup, List.mem_filter, decide_eq_true_eq]
  rfl

/-- They are too many for a grade when some die has more than seven for each of its units. -/
theorem tooWide_iff (grade : Nat) (ns : List Nat) :
    grade < (coresPerDie (assignedOf ns) + 6) / 7 ↔ ∃ d, d < 8 ∧ 7 * grade < (dedup (ns.filter (fun n => decide (n < 2048) && n / 256 == d))).length := by
  have hlen (d : Nat) : ((assignedOf ns).filter (fun n => dieOf n == d)).length = (dedup (ns.filter (fun n => decide (n < 2048) && n / 256 == d))).length := by
    rw [assignedOf, ((sortBy_perm _ _).filter _).length_eq, dedup_filter, List.filter_filter]
    congr 3
    funext n
    exact Bool.and_comm ..
  have hdiv : grade < (coresPerDie (assignedOf ns) + 6) / 7 ↔ 7 * grade < coresPerDie (assignedOf ns) := by omega
  rw [hdiv, coresPerDie, lt_foldl_max]
  constructor
  · rintro ⟨x, hx, hlt⟩
    obtain ⟨d, hd, rfl⟩ := List.mem_map.1 hx
    exact ⟨d, List.mem_range.1 hd, hlen d ▸ hlt⟩
  · rintro ⟨d, hd, hlt⟩
    exact ⟨_, List.mem_map.2 ⟨d, List.mem_range.2 hd, rfl⟩, (hlen d).symm ▸ hlt⟩

theorem exec_cores (k : Nat) (ns : List Nat) (s : State) :
    exec (.cores k ns) s = .next (s.request [(!(s.owner k).admitted, 1), ((s.owner k).resident, 5), (decide ((s.owner k).record.grade < (coresPerDie (assignedOf ns) + 6) / 7), 4)]
      (fun s => s.modOwner k (fun o => { o with assigned := assignedOf ns }))) := rfl

/-! ### `TURNS`, `SWITCH` and `REFILL` -/

theorem exec_turns (w : BitVec 64) (s : State) :
    exec (.turns w) s = .next (s.request
      [((List.range 16).any (fun i => decide (8 ≤ tableEntry w i ∧ tableEntry w i ≤ 14)), 7), (!Machine.names w 15, 8), (s.leftOut w, 9)]
      (fun s => if 65472 ≤ s.cycle % 65536 then { s with mgmt := { s.mgmt with lateTable := some w } } else { s with mgmt := { s.mgmt with nextTable := w } })) := rfl

theorem leftOut_iff (s : State) (w : BitVec 64) : s.leftOut w = true ↔ ∃ k, k < 8 ∧ s.mustHold k = true ∧ ¬Named w k := by
  simp [State.leftOut, names_eq_false]

/-- A condition on an owner that may be absent. -/
def holdsOf (k : Option Nat) (f : Nat → Bool) : Bool := match k with | some k => f k | none => false

theorem holdsOf_eq_false {k : Option Nat} {f : Nat → Bool} : holdsOf k f = false ↔ ∀ n, k = some n → f n = false := by
  cases k <;> simp [holdsOf]

/-- The switch that a `SWITCH` begins. -/
def State.newSwitch (s : State) (out inc : Option Nat) : Switch :=
  { out := out, inc := inc, cores := (inc.map (fun k => (s.owner k).assigned)).getD [], start := s.switchStart inc (s.switchWidth out inc), width := s.switchWidth out inc,
    delivered := false, cut := false }

theorem exec_switch (out inc : Option Nat) (s : State) :
    exec (.switch out inc) s = .next (s.request
      [((out.isNone && inc.isNone) || holdsOf out (fun k => !(s.owner k).admitted) || holdsOf inc (fun k => !(s.owner k).admitted), 1),
       (holdsOf out (fun k => !(s.owner k).resident) || holdsOf inc (fun k => (s.owner k).resident), 11), (holdsOf inc (s.coresTaken out), 12),
       (holdsOf inc (fun k => !Machine.names s.mgmt.table k || !Machine.names (s.nextTable true) k), 13), (s.mgmt.switch.isSome, 14)]
      (fun s => { s with mgmt := { s.mgmt with switch := some (s.newSwitch out inc) } })) := rfl

/-- The incoming owner resumes at its own phase, within a session. -/
theorem switchStart_incoming (s : State) (k w : Nat) :
    s.cycle ≤ s.switchStart (some k) w ∧ (s.switchStart (some k) w + w) % 65536 = (s.owner k).oclk % 65536 ∧ s.switchStart (some k) w < s.cycle + 65536 := by
  simp only [State.switchStart]
  omega

/-- Without an incoming owner a switch starts with a round, the next that begins. -/
theorem switchStart_none (s : State) (w : Nat) : s.cycle ≤ s.switchStart none w ∧ s.switchStart none w % 64 = 0 ∧ s.switchStart none w < s.cycle + 64 := by
  simp only [State.switchStart]
  omega

theorem exec_refill (k : Nat) (vs : List Nat) (s : State) :
    exec (.refill k vs) s = .next (s.request
      [(!(s.owner k).admitted, 1), ((List.range 8).any (fun d => decide (((s.owner k).die d).pool.cap < vs.getD d 0)), 2), (!s.refillFits k vs, 15)]
      (fun s => s.modOwner k (fun o => { o with dies := o.dies.map (fun d => (d.1, { d.2 with pool := { d.2.pool with next := vs.getD d.1 0 } })) }))) := rfl

theorem mget_map_values {α β : Type} (f : Nat → α → β) (m : Map α) (d : Nat) : mget (m.map (fun p => (p.1, f p.1 p.2))) d = (mget m d).map (f d) := by
  induction m with
  | nil => rfl
  | cons p t ih =>
    obtain ⟨i, w⟩ := p
    simp only [List.map_cons, mget, ih]
    split
    · next h => rw [h]; rfl
    · rfl

/-- Settles O52, request by request: the reasons of its row in their order, and its effect. -/
theorem hostRequests : Obligations.HostRequests := by
  unfold Obligations.HostRequests
  intro s
  refine ⟨fun r hr j hj ha => ?_, fun r hr => ?_, fun r => ?_, fun r => ?_, fun k => ?_, fun w => ?_, fun k ns => ?_, fun out inc => ?_, fun k vs => ?_⟩
  -- A record in range: the ways and the tokens that it leaves to the other owners.
  · obtain ⟨hways, hfit, -⟩ := recordOk_law hr
    have hw := State.ways_le_otherWays hj ha
    refine ⟨by omega, fun d hd => ?_⟩
    have hd' := (refillFits_iff ..).1 hfit d hd
    have hn := State.next_le_otherRefills hj ha d
    omega
  -- Its TLB share and its reserved bytes.
  · obtain ⟨-, -, ⟨h1, h2⟩, hlen, hres⟩ := recordOk_law hr
    exact ⟨h1, h2, hlen, fun i hi _ => field_reserved hres hi⟩
  -- Where its fields stand.
  · exact ⟨rfl, rfl, rfl, rfl, rfl, rfl, fun p hp => getElem?_map_range _ hp, toNat_quadword _ _, rfl, rfl, rfl, rfl, rfl,
      fun st hst => by rw [AdmitRecord.of, getElem?_map_range _ hst, Option.map_some, toNat_quadword],
      fun d hd => by rw [AdmitRecord.of, getElem?_map_range _ hd, Option.map_some, toNat_quadword], rfl, rfl, rfl⟩
  -- `ADMIT`
  · dsimp only
    intro hb
    have hx := exec_admitOwner r hb
    refine ⟨fun ha => State.request_refused hx (by rw [ha]; rfl), fun ha hr => State.request_refused hx (by rw [ha, hr]; rfl),
      fun ha hr hm => State.request_refused hx (by rw [ha, hr, hm]; rfl), fun ha hr hm => ?_⟩
    refine ⟨_, State.request_accepted hx (by rw [ha, hr, hm]; rfl) (fun _ _ => rfl) rfl rfl, ?_⟩
    simp only [State.answered_owner, State.answered_host, State.startRings_owner, State.owner_setOwner, if_true]
    exact ⟨rfl, rfl, rfl, rfl, rfl, rfl, fun j hj => if_neg hj.symm, fun d hd => admittedBy_pool r hd, fun n hn => State.startRings_zero _ _ hn⟩
  -- `RETIRE`
  · have hx := exec_retire k s
    refine ⟨fun ha => State.request_refused hx (by rw [ha]; rfl), fun ha hr => State.request_refused hx (by rw [ha, hr]; rfl),
      fun ha hr hn => State.request_refused hx ?_, fun ha hr hn => ?_⟩
    · rw [← names_iff, ← names_iff, ← Bool.or_eq_true] at hn
      rw [ha, hr, hn]
      rfl
    · rw [← names_iff, ← names_iff, ← Bool.or_eq_true, Bool.not_eq_true] at hn
      obtain ⟨how, hl2, hco, hmem, hout⟩ := s.dropOwner_law k
      have hown (j : Nat) : (s.dropOwner k).owner j = if k = j then .blank else s.owner j := by
        simp only [State.owner, how, mget_mdel]
        split <;> rfl
      refine ⟨_, State.request_accepted hx (by rw [ha, hr, hn]; rfl) (fun m x => by simp only [State.group?, State.core, hco]) hmem hout, ?_⟩
      simp only [State.answered_owner, State.answered_l2, hown, hl2, if_true, List.mem_filter, bne_iff_ne]
      exact ⟨trivial, fun j hj => if_neg hj.symm, fun x hx => hx.2⟩
  -- `TURNS`
  · dsimp only
    have hx := exec_turns w s
    have hbad : (List.range 16).any (fun i => decide (8 ≤ tableEntry w i ∧ tableEntry w i ≤ 14)) = true ↔ ∃ j, j < 16 ∧ 8 ≤ entry w j ∧ entry w j ≤ 14 := by
      simp [tableEntry_eq]
    rw [← hbad, ← names_iff, ← leftOut_iff]
    simp only [Bool.not_eq_true]
    refine ⟨fun h1 => State.request_refused hx (by rw [h1]; rfl), fun h1 h2 => State.request_refused hx (by rw [h1, h2]; rfl),
      fun h1 h2 h3 => State.request_refused hx (by rw [h1, h2, h3]; rfl), fun h1 h2 h3 => ?_⟩
    have hacc := State.request_accepted hx (by rw [h1, h2, h3]; rfl)
    by_cases hc : 65472 ≤ s.cycle % 65536
    · simp only [if_pos hc] at hacc
      exact ⟨_, hacc (fun _ _ => rfl) trivial trivial, rfl, fun h => absurd hc (by omega), fun _ => ⟨rfl, rfl⟩⟩
    · simp only [if_neg hc] at hacc
      exact ⟨_, hacc (fun _ _ => rfl) trivial trivial, rfl, fun _ => ⟨rfl, rfl⟩, fun h => absurd h hc⟩
  -- `CORES`
  · dsimp only
    have hx := exec_cores k ns s
    rw [← tooWide_iff]
    refine ⟨fun ha => State.request_refused hx (by rw [ha]; rfl), fun ha hr => State.request_refused hx (by rw [ha, hr]; rfl),
      fun ha hr hw => State.request_refused hx (by simp [firstReason, ha, hr, hw]), fun ha hr hw => ?_⟩
    refine ⟨_, State.request_accepted hx (by simp [firstReason, ha, hr, hw]) (fun _ _ => rfl) rfl rfl, fun n => ?_⟩
    rw [State.answered_owner, State.owner_modOwner, if_pos rfl]
    exact mem_assignedOf ns n
  -- `SWITCH`
  · dsimp only
    have hx := exec_switch out inc s
    have hknown : (¬(out = none ∧ inc = none) ∧ (∀ k, out = some k → (s.owner k).admitted = true) ∧ ∀ k, inc = some k → (s.owner k).admitted = true)
        ↔ ((out.isNone && inc.isNone) || holdsOf out (fun k => !(s.owner k).admitted) || holdsOf inc (fun k => !(s.owner k).admitted)) = false := by
      simp [holdsOf_eq_false, and_assoc, Option.isSome_iff_ne_none]
    have hplaced : ((∀ k, out = some k → (s.owner k).resident = true) ∧ ∀ k, inc = some k → (s.owner k).resident = false)
        ↔ (holdsOf out (fun k => !(s.owner k).resident) || holdsOf inc (fun k => (s.owner k).resident)) = false := by
      simp [holdsOf_eq_false]
    have hnamed : (∀ k, inc = some k → Named s.mgmt.table k ∧ Named (s.nextTable true) k)
        ↔ holdsOf inc (fun k => !Machine.names s.mgmt.table k || !Machine.names (s.nextTable true) k) = false := by
      simp [holdsOf_eq_false, names_iff]
    rw [hknown, hplaced, hnamed, ← holdsOf_eq_false (f := s.coresTaken out)]
    simp only [Bool.not_eq_false]
    refine ⟨fun h1 => State.request_refused hx (by rw [h1]; rfl), fun h1 h2 => State.request_refused hx (by rw [h1, h2]; rfl),
      fun h1 h2 h3 => State.request_refused hx (by rw [h1, h2, h3]; rfl), fun h1 h2 h3 h4 => State.request_refused hx (by rw [h1, h2, h3, h4]; rfl),
      fun h1 h2 h3 h4 h5 => State.request_refused hx (by rw [h1, h2, h3, h4, h5]; rfl), fun h1 h2 h3 h4 h5 => ?_⟩
    refine ⟨_, s.newSwitch out inc, State.request_accepted hx (by rw [h1, h2, h3, h4, h5]; rfl) (fun _ _ => rfl) rfl rfl, rfl, rfl, rfl, rfl, ?_⟩
    cases inc with
    | none => exact ⟨nofun, rfl, (switchStart_none s (s.switchWidth out none)).1, nofun, fun _ => (switchStart_none s (s.switchWidth out none)).2⟩
    | some k =>
      refine ⟨fun j hj => ?_, rfl, (switchStart_incoming s k (s.switchWidth out (some k))).1, fun j hj => ?_, nofun⟩
      · cases hj
        rfl
      · cases hj
        exact (switchStart_incoming s k (s.switchWidth out (some k))).2
  -- `REFILL`
  · dsimp only
    have hx := exec_refill k vs s
    have habove : (List.range 8).any (fun d => decide (((s.owner k).die d).pool.cap < vs.getD d 0)) = true ↔ ∃ d, d < 8 ∧ ((s.owner k).die d).pool.cap < vs.getD d 0 := by
      simp
    rw [← habove]
    simp only [Bool.not_eq_true]
    refine ⟨fun ha => State.request_refused hx (by rw [ha]; rfl), fun ha hv => State.request_refused hx (by rw [ha, hv]; rfl),
      fun ha hv hf => State.request_refused hx (by rw [ha, hv, hf]; rfl), fun ha hv hf => ?_⟩
    refine ⟨_, State.request_accepted hx (by rw [ha, hv, hf]; rfl) (fun _ _ => rfl) rfl rfl, fun d p hp => ?_⟩
    rw [State.answered_owner, State.owner_modOwner, if_pos rfl]
    simp only [Owner.die, mget_map_values (fun d (x : DiePart) => { x with pool := { x.pool with next := vs.getD d 0 } }), hp]
    rfl

end Sys2Proof.Machine
end

section
/-! SUPPORT. O53: the doorbell, the answers to a page, `CREL`, `DRES` and the resets. -/

namespace Sys2Proof.Machine

open Sys2Proof.Claims

/-! ### Owners that are resident -/

/-- The cores of a resident owner are in place. -/
theorem State.visiting_resident {s : State} {k : Nat} (h : (s.owner k).resident = true) (f : State → State) : s.visiting k f = f s := by
  simp only [State.visiting, h, if_true]

/-! ### The doorbell (R346, R349) -/

/-- What the doorbell does. -/
theorem exec_ldb (k : Nat) (va : BitVec 64) (s : State) :
    exec (.ldb k va) s = .next (if !(s.owner k).admitted || s.mgmt.bringup == .fwfail then s
      else match s.packetBytes k va.toNat with
        | none => s.modOwner k (fun o => { o with ldbst := 3 })
        | some bs => ((s.append k bs true).2).modOwner k (fun o => { o with ldbst := BitVec.ofNat 32 (s.append k bs true).1 })) := by
  show execLdb k va s = _
  unfold execLdb
  congr 1

/-- The doorbell is served for an owner that is admitted, unless the firmware has failed. -/
theorem ldb_unserved {s : State} {k : Nat} (h : (s.owner k).admitted = false ∨ s.mgmt.bringup = .fwfail) (va : BitVec 64) : exec (.ldb k va) s = .next s := by
  rw [exec_ldb, if_pos (by rcases h with h | h <;> simp [h])]

/-- The doorbell that is served reads the packet where it points and leaves the status of its append. -/
theorem ldb_served {s : State} {k : Nat} (ha : (s.owner k).admitted = true) (hb : s.mgmt.bringup ≠ .fwfail) (va : BitVec 64) :
    exec (.ldb k va) s = .next (match s.packetBytes k va.toNat with
      | none => s.modOwner k (fun o => { o with ldbst := 3 })
      | some bs => ((s.append k bs true).2).modOwner k (fun o => { o with ldbst := BitVec.ofNat 32 (s.append k bs true).1 })) := by
  rw [exec_ldb, if_neg (by simp [ha, hb])]

/-- The queue that a packet of an owner belongs to. -/
def Owner.queueOf (o : Owner) (p : Packet) : Queue := (mget o.queues p.prio).getD { packets := [], written := 0, taken := 0 }

theorem append_malformed {s : State} {k : Nat} {bs : List Byte} {priv : Bool} (h : packetOk bs priv = false) : s.append k bs priv = (2, s) := by
  simp only [State.append, h, Bool.not_false, if_true]

theorem append_full {s : State} {k : Nat} {bs : List Byte} {priv : Bool} (h : packetOk bs priv = true)
    (hq : 2 ^ (s.owner k).record.lq ≤ ((s.owner k).queueOf (.of bs)).packets.length) : s.append k bs priv = (1, s) := by
  simp only [Owner.queueOf] at hq
  simp only [State.append, h, Bool.not_true, Bool.false_eq_true, if_false, hq, if_true]

/-- A packet that finds room is appended to its queue, and its bytes stand in the queue's ring; nothing of a group or of the host changes. -/
theorem append_room {s : State} {k : Nat} {bs : List Byte} {priv : Bool} (h : packetOk bs priv = true)
    (hq : ((s.owner k).queueOf (.of bs)).packets.length < 2 ^ (s.owner k).record.lq) : let p := Packet.of bs
    let q := (s.owner k).queueOf p
    ∃ t, s.append k bs priv = (0, t) ∧ GroupsKept s t ∧ t.host = s.host
      ∧ mget (t.owner k).queues p.prio = some { packets := q.packets ++ [p], written := q.written + 1, taken := q.taken }
      ∧ t.mem.readN (((s.owner k).record.queues[p.prio]?).getD 0 + 128 * (q.written % 2 ^ (s.owner k).record.lq)) bs.length = bs := by
  simp only [Owner.queueOf] at hq ⊢
  simp only [State.append, h, Bool.not_true, Bool.false_eq_true, if_false, Nat.not_le.2 hq]
  refine ⟨_, rfl, fun _ _ => rfl, rfl, ?_, Memory.readN_writeN ..⟩
  show mget ((s.setOwner k _).owner k).queues _ = _
  rw [State.owner_setOwner, if_pos rfl, mget_mset, if_pos rfl]

/-! ### The answers to a page (R88, R346) -/

/-- The merge tables of an owner without the entries of a page. -/
def Owner.unmerge (vpn : Nat) (o : Owner) : Owner :=
  { o with dies := o.dies.map (fun d => (d.1, { d.2 with merge := d.2.merge.filter (fun e => e.vpn != vpn) })) }

theorem unmerge_merge (o : Owner) (vpn d : Nat) : ∀ e ∈ ((o.unmerge vpn).die d).merge, e.vpn ≠ vpn := by
  simp only [Owner.die, Owner.unmerge, mget_map_values (fun _ (x : DiePart) => { x with merge := x.merge.filter (fun e => e.vpn != vpn) })]
  cases mget o.dies d with
  | none => exact nofun
  | some x =>
    intro e he
    simpa using (List.mem_filter.1 he).2

/-- What waits on a page of an owner. -/
def Owner.waitersOn (o : Owner) (vpn : Nat) : List (Nat × Nat) := o.dies.flatMap (fun d => (d.2.merge.filter (fun e => e.vpn == vpn)).flatMap (fun e => e.waiters))

/-- The answer to a page on which one operation of a core waits: the entries end, and the operation has its answer. -/
theorem answerPage_single {s : State} {k vpn c op : Nat} (hr : (s.owner k).resident = true) (hw : (s.owner k).waitersOn vpn = [(c, op)]) (hc : c < 2048)
    (cause : Option Nat) : s.answerPage k vpn cause = (s.modOwner k (Owner.unmerge vpn)).answerOp c op vpn cause := by
  have hr' : ((s.modOwner k (Owner.unmerge vpn)).owner k).resident = true := by
    rw [State.owner_modOwner, if_pos rfl]
    exact hr
  unfold State.answerPage
  show State.visiting (s.modOwner k (Owner.unmerge vpn)) k (fun s => ((_ : Owner).waitersOn vpn).foldl _ s) = _
  rw [State.visiting_resident hr', hw, List.foldl_cons, List.foldl_nil, if_neg (by show c ≠ 4096; omega), if_neg (by show c ≠ 4097; omega)]

/-- Changing an operation of a core changes no group and no byte. -/
theorem GroupsKept.modOp (s : State) (c op : Nat) (f : MemOp → MemOp) : GroupsKept s (s.modOp c op f) := State.group?_modCore rfl

theorem BytesKept.modOp (s : State) (c op : Nat) (f : MemOp → MemOp) : BytesKept s (s.modOp c op f) := .modCore rfl

theorem State.op?_modOp (s : State) (c op : Nat) (f : MemOp → MemOp) : (s.modOp c op f).op? c op = (s.op? c op).map f := by
  simp only [State.op?, State.modOp, State.core_modCore, if_true, mget_mmod]

@[simp] theorem State.owner_modOp (s : State) (c op k : Nat) (f : MemOp → MemOp) : (s.modOp c op f).owner k = s.owner k := rfl

/-- An answer that resumes an operation puts its page back to its lookup. -/
theorem answerOp_resume {s : State} {c op : Nat} {o : MemOp} (hh : (s.core c).halt = none) (ho : s.op? c op = some o) (vpn : Nat) :
    s.answerOp c op vpn none = s.modOp c op (fun o => { o with pages := o.pages.map (fun p => if p.vpn = vpn then { p with st := .start } else p) }) := by
  unfold State.answerOp
  rw [hh, ho]
  rfl

/-- An answer that fails a piece of a copy stops that piece with the fault. -/
theorem answerOp_copy {s : State} {c op : Nat} {o : MemOp} (hh : (s.core c).halt = none) (ho : s.op? c op = some o)
    (hk : (∃ n, o.kind = .copyRead n) ∨ ∃ n, o.kind = .copyWrite n) (vpn cause : Nat) :
    s.answerOp c op vpn (some cause) = s.modOp c op (fun x => { x with failed := some (cause, o.faultAddress vpn), entered := true, lines := [] }) := by
  unfold State.answerOp
  rw [hh, ho]
  rcases hk with ⟨n, hn⟩ | ⟨n, hn⟩ <;> simp only [State.failOp, hn] <;> rfl

/-! ### `CREL` and `DRES` (R339, R346) -/

/-- A halted core that the host releases: idle, but for what outlasts a team. -/
def Core.released (c : Core) (k : Nat) : Core :=
  { Core.blank with
    owner := some k, dumpbase := c.dumpbase, tlb := c.tlb, nextOp := c.nextOp, nextUid := c.nextUid, useClock := c.useClock, injected := c.injected,
    slots := c.slots.map (fun p => (p.1, { p.2 with use := .free, pending := 0, reading := 0 })) }

/-- A halted core of the owner is released; of the owner something may change. -/
theorem crel_halted {s : State} {k c : Nat} {h : Halt} (hr : (s.owner k).resident = true) (ho : (s.core c).owner = some k) (hh : (s.core c).halt = some h) :
    ∃ f, exec (.crel k c) s = .next ((s.setCore c ((s.core c).released k)).modOwner k f) := by
  show ∃ f, execCrel k c s = _
  unfold execCrel
  rw [State.visiting_resident hr]
  dsimp only
  rw [if_neg (by simp [ho, hh])]
  exact ⟨_, rfl⟩

/-- A core that runs is not released. -/
theorem crel_running {s : State} {k c : Nat} (hr : (s.owner k).resident = true) (hh : (s.core c).halt = none) : exec (.crel k c) s = .next s := by
  show execCrel k c s = _
  unfold execCrel
  rw [State.visiting_resident hr]
  dsimp only
  rw [if_pos (by simp [hh])]

/-- A group at a breakpoint that the host lets go on from a cycle. -/
def Group.goOn (wake : Nat) (g : Group) : Group := { g with wait := none, wake := wake }

/-- A group at a breakpoint that nothing holds back goes on in the next cycle, and its `DBG` retires. -/
theorem dres_stopped {s : State} {k c x : Nat} {g : Group} (hr : (s.owner k).resident = true) (ho : (s.core c).owner = some k) (hg : s.group? c x = some g)
    (hw : g.wait = some .debug) (hd : (s.owner k).debugWaits c x = false) :
    exec (.dres k c x) s = .next ((s.modGroup c x (Group.goOn (s.now c + 1))).retired c x g.uid 1) := by
  show execDres k c x s = _
  unfold execDres
  rw [State.visiting_resident hr, hg]
  dsimp only
  rw [if_pos (by simp [ho, hw, hd])]
  rfl

/-! ### The statement -/

/-- Settles O53: each request has its one effect (`ldb_served` with `append_room`, `append_full` and `append_malformed`; `answerPage_single`; `crel_halted`; `dres_stopped`),
and the statement reads it off. -/
theorem hostAnswers : Obligations.HostAnswers := by
  unfold Obligations.HostAnswers
  intro s
  refine ⟨fun k va h => ldb_unserved h va, fun k va ha hb hp => ?_, fun k va bs ha hb hp => ?_, fun k vpn c op o hr hw hc hh ho => ?_, fun k c h hr ho hh => ?_,
    fun k c hr hh => crel_running hr hh, fun k c x g hr ho hg hw hd => ?_, ?_, ?_, ?_⟩
  -- `LDB` of a packet that no page maps
  · rw [ldb_served ha hb, hp]
    exact ⟨_, rfl, fun _ _ => rfl, .modOwner _ _ _, by rw [State.owner_modOwner, if_pos rfl]⟩
  -- `LDB` of a packet that is read: room, a full queue, a malformed packet
  · dsimp only
    rw [ldb_served ha hb, hp]
    dsimp only
    by_cases hok : packetOk bs true = true
    · by_cases hq : ((s.owner k).queueOf (.of bs)).packets.length < 2 ^ (s.owner k).record.lq
      · obtain ⟨t, ht, hgrp, hhost, hqueue, hread⟩ := append_room (priv := true) hok hq
        rw [ht]
        refine ⟨_, rfl, hgrp, fun a => congrArg (·.read a) hhost, fun h => absurd hok (by simp [h]), fun _ h => absurd hq (Nat.not_lt.2 h), fun _ _ => ?_⟩
        rw [State.owner_modOwner, if_pos rfl]
        exact ⟨rfl, hqueue, hread⟩
      · rw [append_full hok (Nat.not_lt.1 hq)]
        refine ⟨_, rfl, fun _ _ => rfl, fun _ => rfl, fun h => absurd hok (by simp [h]), fun _ _ => ?_, fun _ h => absurd h hq⟩
        rw [State.owner_modOwner, if_pos rfl]
        exact ⟨rfl, fun _ => rfl, rfl⟩
    · rw [append_malformed (Bool.not_eq_true _ ▸ hok)]
      refine ⟨_, rfl, fun _ _ => rfl, fun _ => rfl, fun _ => ?_, fun h => absurd h hok, fun h => absurd h hok⟩
      rw [State.owner_modOwner, if_pos rfl]
      exact ⟨rfl, fun _ => rfl, rfl⟩
  -- the answers to a page
  · have hans := answerPage_single hr hw hc
    have hmerge : ∀ d, ∀ e ∈ ((((s.modOwner k (Owner.unmerge vpn))).owner k).die d).merge, e.vpn ≠ vpn := by
      rw [State.owner_modOwner, if_pos rfl]
      exact unmerge_merge _ vpn
    refine ⟨?_, fun x hk => ?_⟩
    · show ∃ t, Host.Outcome.next (s.answerPage k vpn none) = .next t ∧ _
      rw [hans, answerOp_resume (s := s.modOwner k (Owner.unmerge vpn)) hh ho]
      refine ⟨_, rfl, GroupsKept.modOp _ _ _ _, (BytesKept.modOwner _ _ _).trans (.modOp _ _ _ _), hmerge, _, (State.op?_modOp ..).trans (congrArg _ ho), fun p hp hv => ?_⟩
      obtain ⟨p, -, rfl⟩ := List.mem_map.1 hp
      by_cases h : p.vpn = vpn
      · rw [if_pos h]
      · rw [if_neg h] at hv
        exact absurd hv h
    · have hx : exec (if x then .fansNomap k vpn else .fansFrameUnavailable k vpn) s = .next (s.answerPage k vpn (some (if x then 0x20 else 0x29))) := by cases x <;> rfl
      rw [hx, hans, answerOp_copy (s := s.modOwner k (Owner.unmerge vpn)) hh ho hk]
      exact ⟨_, _, rfl, GroupsKept.modOp _ _ _ _, (BytesKept.modOwner _ _ _).trans (.modOp _ _ _ _), hmerge, (State.op?_modOp ..).trans (congrArg _ ho), rfl, rfl⟩
  -- `CREL` of a halted core
  · obtain ⟨f, hx⟩ := crel_halted hr ho hh
    have hco (n : Nat) : (((s.setCore c ((s.core c).released k)).modOwner k f)).core n = if c = n then (s.core c).released k else s.core n := State.core_setCore ..
    rw [hx]
    refine ⟨_, rfl, ?_⟩
    simp only [State.group?, hco, if_true]
    exact ⟨fun _ => rfl, rfl, rfl, rfl, fun n hn => if_neg hn.symm, fun _ => rfl, fun _ => rfl⟩
  -- `DRES` of a group at a breakpoint
  · rw [dres_stopped hr ho hg hw hd]
    have hgo : (s.modGroup c x (Group.goOn (s.now c + 1))).group? c x = some (g.goOn (s.now c + 1)) := by
      rw [State.group?_modGroup, if_pos ⟨rfl, rfl⟩, hg, Option.map_some]
    obtain ⟨m, ls, hret, hkept, -⟩ := State.retiredAt_law _ c x g.uid ((s.modGroup c x (Group.goOn (s.now c + 1))).now c) 0 _ hgo
    have hall := (ElseKept.modGroup (q := 0)).trans hkept
    have hspecial : SpecialKept g { g.goOn (s.now c + 1) with rcnt := m, late := ls } := ⟨rfl, rfl, rfl, rfl, rfl, rfl, rfl, rfl, rfl, rfl, rfl, rfl, rfl, rfl, rfl, rfl⟩
    exact ⟨_, _, rfl, hall.bytesKept, hall.seatsKept, hret, hspecial, ⟨rfl, rfl⟩, rfl, rfl, rfl, rfl⟩
  -- the resets
  · exact ⟨_, rfl, rfl, rfl, rfl, rfl, rfl, rfl, rfl, rfl, rfl, rfl, rfl, rfl⟩
  · exact ⟨_, rfl, rfl, rfl, rfl, rfl, rfl, rfl, rfl, rfl, rfl, rfl, rfl, rfl⟩
  · exact ⟨_, rfl, rfl, rfl, rfl, rfl, rfl, rfl, rfl, rfl, rfl, rfl, rfl, rfl, rfl⟩

end Sys2Proof.Machine
end
